-- ==== Sys2Proof/Word.lean ====
section
/-!
DEFINITION. Sys2Proof/Word.lean: the word types and the names of the engines and number formats that every layer uses.
-/
namespace Sys2Proof

/-- A byte (00_scope.md R6). -/
abbrev Byte := BitVec 8
/-- An instruction word: 32 bits (07 R139). -/
abbrev Word := BitVec 32
/-- A 64-bit register or memory value. -/
abbrev DWord := BitVec 64
/-- A vector register: 512 bytes, bit 0 is bit 0 of byte 0 (08 R165). -/
abbrev VReg := BitVec 4096

/-- A configuration block as the boot ROM reads it (19 R436): its SVN, the voltage-frequency table, the SMBus address, the sensor offsets, the
HBM and PCIe equalisation presets, the reset value of BSTBUD, and the ECDSA P-256 signature over its SHA-256 hash. -/
structure CfgBlock where
  svn : BitVec 32
  volts : List Nat
  smbus : BitVec 7
  offsets : List Int
  hbmPre : List Nat
  pciePre : List Nat
  bstbud : BitVec 8
  sig : BitVec 512
deriving DecidableEq, Repr

/-! What an event of the model says of the hardware's own progress or of what arrives (log 6). -/

/-- A task whose job goes on by up to `n` elements. -/
structure JobStep where
  tid : Nat
  n : Nat
deriving DecidableEq, Repr

/-- A transfer or gather stream whose job goes on by up to `n` elements. -/
structure TuStep where
  eng : Nat
  n : Nat
deriving DecidableEq, Repr

/-- A unit that the watchdog fences; `cut` says that an access of its job was cancelled (17 R410). -/
structure FencedUnit where
  unit : Nat
  cut : Bool
deriving DecidableEq, Repr

/-- The part of a write on its way that is performed: `n` bytes from byte `a` of the write at index `ix`. -/
structure WriteCut where
  ix : Nat
  a : Nat
  n : Nat
deriving DecidableEq, Repr

/-- A request that a port receives: its offset in BAR2, and whether its ECRC is right (19 R426). -/
structure Tlp where
  off : Nat
  ecrc : Bool
deriving DecidableEq, Repr

/-- A lane of a port (19 R440). -/
structure Lane where
  port : Nat
  lane : Nat
deriving DecidableEq, Repr

/-- A firmware image: its hash, and the signature over it (19 R436). -/
structure FwImage where
  hash : BitVec 256
  sig : BitVec 512
deriving DecidableEq, Repr

/-- What step 2 reads: the identity of the installed stacks, and the sensors (19 R437). -/
structure StackReadings where
  stackId : Nat
  temps : List (Nat × Int)
deriving DecidableEq, Repr

/-- The engine streams of a team (06 R118; ENGINE numbers of Table 17-2). -/
inductive Engine where
  | sq | ve | me | tu0 | tu1 | gq
deriving DecidableEq, Repr

/-- The ENGINE number of a fault record (17 Table 17-2). -/
def Engine.num : Engine → Nat
  | .sq => 0 | .ve => 1 | .me => 2 | .tu0 => 3 | .tu1 => 4 | .gq => 5

/-- The engine with an ENGINE number; numbers above 5 name the GQ. -/
def Engine.ofNum : Nat → Engine
  | 0 => .sq | 1 => .ve | 2 => .me | 3 => .tu0 | 4 => .tu1 | _ => .gq

/-- The trap causes of 07 Table 7-14. -/
inductive Cause where
  | illop | priv | align | kttmiss | kttrevoked | kttperm | spoob | pwunb | poison | convtrap | shapebad
  | nestbad | xferbad | footprint | shadowfull | snapbad | gated | futstale | brk | trap | chbad | loopbad
  | watchdog
deriving DecidableEq, Repr

/-- The code of a cause (07 R156, Table 7-14). -/
def Cause.code : Cause → Nat
  | .illop => 0x01 | .priv => 0x02 | .align => 0x03 | .kttmiss => 0x04 | .kttrevoked => 0x05 | .kttperm => 0x06
  | .spoob => 0x07 | .pwunb => 0x08 | .poison => 0x09 | .convtrap => 0x0A | .shapebad => 0x0B | .nestbad => 0x0C
  | .xferbad => 0x0D | .footprint => 0x0E | .shadowfull => 0x0F | .snapbad => 0x10 | .gated => 0x11
  | .futstale => 0x12 | .brk => 0x13 | .trap => 0x14 | .chbad => 0x15 | .loopbad => 0x16 | .watchdog => 0x17

end Sys2Proof
end

