-- ==== Sys2Proof/Config.lean ====
section
/-!
DEFINITION. Sys2Proof/Config.lean: what the spec leaves open.  Every constant is opaque: it has no body, so a statement
that holds of the model holds whatever its value is.  The argument named `n` is the counter `State.free` where a fresh
value is meant each time.
-/
namespace Sys2Proof.Config

/-- Samples, cells and records that a codec engine decodes: the standards of 12 Table 12-2 fix them, this spec does
not.  Arguments: the codec context, the number of its decode, the byte offset within the output (log 12). -/
opaque decodedByte (ctx dec off : Nat) : BitVec 8
/-- The slots a codec context holds as references after a decode (12 R289); fixed by the video standard (log 12). -/
opaque decodedRefs (ctx dec : Nat) : BitVec 16
/-- What a decode meets in its bitstream: bit 0 SHOWN, bit 1 CONCEALED, bit 2 the frame carries film_grain_params(), bit 3
samples of 10 bits, bit 4 a 4:0:0 picture, bit 5 a temporal unit that shows an existing frame, bits 9-6 the reference slot that is shown,
or that a concealed block copies (12 R287-R290); fixed by the bitstream and the video standard (log 12). -/
opaque decodedFlags (ctx dec : Nat) : BitVec 10
/-- Whether a 16 x 16 block of a decode with bit 1 set is concealed (12 R290; log 12). -/
opaque blockConcealed (ctx dec block : Nat) : Bool
/-- A component of the list-0 vector that the decoding process derives at a cell's centre: quarter-pel, for AV1 eighth-pel (12 R292; log
12). -/
opaque decodedVector (ctx dec cell comp : Nat) : Int
/-- A luma sample code that a decode predicts (12 R292; log 12). -/
opaque predictedCode (ctx dec x y : Nat) : BitVec 10
/-- Which rank had not signalled when a collective's time was up, where all have signalled since (19 R433; log 3). -/
opaque lateRank (n : Nat) : Nat
/-- The feature code of 12 Table 12-2 for a stream the engines do not support, 0 when it is supported (log 12). -/
opaque decodedFeature (ctx dec : Nat) : BitVec 3
/-- The picture size in samples of a decode (12 R288); fixed by the bitstream (log 12). -/
opaque decodedSize (ctx dec : Nat) : Nat × Nat
/-- SHA-256 of a configuration block (19 R436): the standard fixes it, over a layout that this spec does not give (log 13). -/
opaque blockHash (b : CfgBlock) : BitVec 256
/-- Whether an ECDSA P-256 signature over a hash verifies against the Griore key in ROM (19 R436; log 13). -/
opaque signed (hash : BitVec 256) (sig : BitVec 512) : Bool
/-- SHA-256 of the boot ROM (19 Table 19-6; log 13). -/
opaque romHash : BitVec 256
/-- The certificate chain in slot 0, and its digest (19 R435; log 13). -/
opaque certChain : Nat
opaque chainDigest : BitVec 256
/-- A value an SPDM response or signature carries; fixed by standards and keys outside this spec (log 13). -/
opaque spdmWord (n : Nat) : Nat
/-- Whether a FINISH request's verification data is right (log 13). -/
opaque spdmVerified (verify : BitVec 256) (n : Nat) : Bool
/-- The cause code of a record of type 0x70: no rule gives the codes (19 Table 19-10; log 3). -/
opaque startCause (n : Nat) : Nat
/-- The DST bytes of a collective that fails with cause 0x06: undefined (19 R433; log 3). -/
opaque undefinedByte (n : Nat) : BitVec 8
/-- SEV of a Vermilion record of a type: 19 Table 19-9 names four values and no rule assigns them (log 3). -/
opaque severity (typ : Nat) : Nat
/-- How far the stored CRC of the record being written at a power loss is from that of its bytes; 0 when it is not torn (19 R441; log 3). -/
opaque tear (n : Nat) : BitVec 32
/-- How often the controllers of a stack retrain each of its pseudo-channels, in ns: at least once per second (19 R439; log 36). -/
opaque retrainPeriod (stack : Nat) : Nat
/-- The HBM pseudo-channel of its stack that holds a line: no rule gives the map (11 R261, 19 R439; log 36). -/
opaque channelOf (line : Nat) : Nat
/-- The data of an outbound read that a job makes, where the completer fixes it (19 R428, R429; log 14). -/
opaque portByte (port addr n : Nat) : BitVec 8
/-- How the completer ends an outbound read that a job or an engine makes (19 R429; log 14): 1 Unsupported Request, 2 Completer Abort, 3
poisoned, 4 the port's Completion Timeout expires; any other value, its data. -/
opaque portEnd (port addr n : Nat) : BitVec 3
/-- The upper nibble of a byte whose element stops a job with a trap: the job writes both nibbles of a byte together, and no rule gives
this one (11 R263, 08 R178; log 17). -/
opaque oddNibble (n : Nat) : BitVec 4
/-- The bits of an accumulator element while the staging buffer occupies its buffer: no rule says where the bits of the
tiles stand among the elements (13 R334; log 3). -/
opaque stagingElem (n i : Nat) : BitVec 32

/-- The correctable error, by its AER status bit, that margining a lane causes, or none (19 R440; log 14). -/
opaque marginErr (n : Nat) : Option Nat

/-- A byte of a swap image in the pool: no rule gives the layout of an image (04 R91; log 43). -/
opaque imageByte (n i : Nat) : BitVec 8

/-- Bits [15:0] of a class 0x05 value when the watchdog's steps 1 and 2 killed no team of the task: no rule gives them (03
R80; log 3). -/
opaque watchdogSlot (tid : Nat) : BitVec 16

/-- The word index that a parity error in an s register leaves as `the load that marked it`: no load marked it and no rule
gives one (17 Table 17-3, Table 17-6; log 3). -/
opaque parityWord (n : Nat) : BitVec 32

end Sys2Proof.Config
end

