-- ==== Sys2Proof/Machine/Num.lean ====
section
/-!
DEFINITION. Sys2Proof/Machine/Num.lean: bytes, bit fields, integer and floating formats, rounding and the overflow policy
(08_number_formats.md).  A floating value is exact: a sign and a fraction `n / d`, or an infinity, or NaN.
-/
namespace Sys2Proof.Machine

/-! Bits and bytes (00 R6, 08 R165). -/

/-- Bits [lo + n - 1 : lo] of a number. -/
def bitsOf (v lo n : Nat) : Nat := v / 2 ^ lo % 2 ^ n

/-- One bit of a number. -/
def bitAt (v i : Nat) : Bool := v / 2 ^ i % 2 = 1

/-- A number with bits [lo + n - 1 : lo] replaced. -/
def setBits (v lo n x : Nat) : Nat :=
  v - bitsOf v lo n * 2 ^ lo + x % 2 ^ n * 2 ^ lo

/-- Byte `i` of a little-endian number. -/
def byteAt (v i : Nat) : Byte := BitVec.ofNat 8 (v / 2 ^ (8 * i))

/-- The `n` low bytes of a number, little-endian. -/
def toBytes (n v : Nat) : List Byte := (List.range n).map (byteAt v)

/-- The number that bytes hold, little-endian. -/
def ofBytes : List Byte → Nat
  | [] => 0
  | b :: r => b.toNat + 256 * ofBytes r

/-- The low `n` bits read as two's complement (SignExtend of R189). -/
def signExt (v n : Nat) : Int :=
  if 2 ^ (n - 1) ≤ v % 2 ^ n then (v % 2 ^ n : Int) - 2 ^ n else (v % 2 ^ n : Int)

/-- The `n`-bit pattern of an integer (Wrap of R189, as a pattern). -/
def wrap (v : Int) (n : Nat) : Nat := (v % (2 ^ n : Int)).toNat

/-- Saturate of R189. -/
def clampInt (v lo hi : Int) : Int := min (max v lo) hi

/-- Cut a list into pieces of `n`, with fuel. -/
def chunksOf {α : Type} (n : Nat) : Nat → List α → List (List α)
  | 0, _ => []
  | _ + 1, [] => []
  | k + 1, l => l.take n :: chunksOf n k (l.drop n)

/-- Position of the highest set bit of `v` below `n`, plus one: 0 for none. -/
def bitLen (v : Nat) : Nat → Nat
  | 0 => 0
  | n + 1 => if bitAt v n then n + 1 else bitLen v n

/-- Number of trailing zero bits of `v` among `n`; `n` when all are zero. -/
def trailZeros (v : Nat) : Nat → Nat
  | 0 => 0
  | n + 1 => if v % 2 = 1 then 0 else trailZeros (v / 2) n + 1

/-- Number of set bits among the low `n`. -/
def popCount (v : Nat) : Nat → Nat
  | 0 => 0
  | n + 1 => v % 2 + popCount (v / 2) n

/-! Rounding modes and integer types. -/

/-- Rounding modes, with the codes of VSHAPE.ROUND (07 Table 7-8). -/
inductive RMode where
  | rne | rtz | rup | rdn
deriving DecidableEq, Repr

def RMode.ofCode : Nat → RMode
  | 0 => .rne | 1 => .rtz | 2 => .rup | _ => .rdn

/-- RoundInt of R189 on the value `(-1)^neg × n / d`: the magnitude of the integer. -/
def roundMag (m : RMode) (neg : Bool) (n d : Nat) : Nat :=
  let q := n / d
  let r := n % d
  match m with
  | .rne => if 2 * r < d then q else if d < 2 * r then q + 1 else q + q % 2
  | .rtz => q
  | .rup => if r = 0 || neg then q else q + 1
  | .rdn => if r = 0 || !neg then q else q + 1

/-- An integer type: width and signedness (08 Table 8-1). -/
structure IntTy where
  w : Nat
  sgn : Bool
deriving DecidableEq, Repr

def IntTy.lo (t : IntTy) : Int := if t.sgn then -(2 ^ (t.w - 1) : Int) else 0
def IntTy.hi (t : IntTy) : Int := if t.sgn then 2 ^ (t.w - 1) - 1 else 2 ^ t.w - 1

/-- The value of a `w`-bit pattern of the type. -/
def IntTy.val (t : IntTy) (p : Nat) : Int := if t.sgn then signExt p t.w else (p % 2 ^ t.w : Int)

/-- IntDivide of R189 on values: quotient and remainder (08 R168, Table 8-2). -/
def intDivide (a b : Int) (n : Nat) (sgn : Bool) : Int × Int :=
  if b = 0 then (if sgn then -1 else 2 ^ n - 1, a)
  else if sgn && a = -(2 ^ (n - 1) : Int) && b = -1 then (a, 0)
  else (Int.tdiv a b, Int.tmod a b)

/-! Floating formats (08 R169, Table 8-3; FP64 of 09 R208). -/

/-- A floating format: width, precision P, bias, exponent bits. -/
structure FFmt where
  w : Nat
  p : Nat
  bias : Nat
  eb : Nat
deriving DecidableEq, Repr

def F32 : FFmt := ⟨32, 24, 127, 8⟩
def F16 : FFmt := ⟨16, 11, 15, 5⟩
def BF16 : FFmt := ⟨16, 8, 127, 8⟩
def F64 : FFmt := ⟨64, 53, 1023, 11⟩

/-- An exact floating value: NaN, an infinity, or `(-1)^neg × n / d`. -/
inductive Fl where
  | nan
  | inf (neg : Bool)
  | fin (neg : Bool) (n d : Nat)
deriving DecidableEq, Repr

def FFmt.canonNaN (f : FFmt) : Nat := (2 ^ f.eb - 1) * 2 ^ (f.p - 1) + 2 ^ (f.p - 2)
def FFmt.infPat (f : FFmt) (neg : Bool) : Nat := (2 ^ f.eb - 1) * 2 ^ (f.p - 1) + (if neg then 2 ^ (f.w - 1) else 0)
def FFmt.maxPat (f : FFmt) (neg : Bool) : Nat := (2 ^ f.eb - 1) * 2 ^ (f.p - 1) - 1 + (if neg then 2 ^ (f.w - 1) else 0)

/-- The value of an encoding (R169). -/
def FFmt.decode (f : FFmt) (x : Nat) : Fl :=
  let neg := bitAt x (f.w - 1)
  let e := bitsOf x (f.p - 1) f.eb
  let fr := bitsOf x 0 (f.p - 1)
  if e = 2 ^ f.eb - 1 then (if fr = 0 then .inf neg else .nan)
  else
    let m := if e = 0 then fr else fr + 2 ^ (f.p - 1)
    let ex := max e 1          -- value m × 2^(ex - bias - (P - 1))
    if f.bias + f.p - 1 ≤ ex then .fin neg (m * 2 ^ (ex - (f.bias + f.p - 1))) 1
    else .fin neg m (2 ^ (f.bias + f.p - 1 - ex))

/-- A finite pattern is NaN or infinite. -/
def FFmt.isSpecial (f : FFmt) (x : Nat) : Bool := bitsOf x (f.p - 1) f.eb = 2 ^ f.eb - 1

/-- Floor(Log2(n / d)) of a positive fraction. -/
def floorLog2 (n d : Nat) : Int :=
  let k : Int := (Nat.log2 n : Int) - (Nat.log2 d : Int)
  if 0 ≤ k then (if d * 2 ^ k.toNat ≤ n then k else k - 1)
  else (if d ≤ n * 2 ^ (-k).toNat then k else k - 1)

/-- RoundToFormat of R189 on a finite magnitude: the significand `m` and exponent `e` with value `m × 2^e`. -/
def FFmt.roundParts (f : FFmt) (md : RMode) (neg : Bool) (n d : Nat) : Nat × Int :=
  if n = 0 then (0, 0)
  else
    let e := max (floorLog2 n d) (1 - (f.bias : Int))
    let q := e - (f.p : Int) + 1
    let m := if 0 ≤ q then roundMag md neg n (d * 2 ^ q.toNat) else roundMag md neg (n * 2 ^ (-q).toNat) d
    (m, q)

/-- The encoding of `(-1)^neg × m × 2^q` where `roundParts` gave `m` and `q`; none when it passes the largest finite
magnitude. -/
def FFmt.packParts (f : FFmt) (neg : Bool) (m : Nat) (q : Int) : Option Nat :=
  let sg := if neg then 2 ^ (f.w - 1) else 0
  if m = 0 then some sg
  else
    let m' := if m = 2 ^ f.p then m / 2 else m
    let q' := if m = 2 ^ f.p then q + 1 else q
    if m' < 2 ^ (f.p - 1) then some (sg + m')
    else
      let ex := q' + (f.p : Int) - 1 + (f.bias : Int)
      if ex ≥ (2 ^ f.eb - 1 : Int) then none
      else some (sg + ex.toNat * 2 ^ (f.p - 1) + (m' - 2 ^ (f.p - 1)))

/-- A floating operation's one rounding, with arithmetic overflow by IEEE 754 (R173). -/
def FFmt.round (f : FFmt) (md : RMode) : Fl → Nat
  | .nan => f.canonNaN
  | .inf neg => f.infPat neg
  | .fin neg n d =>
    let (m, q) := f.roundParts md neg n d
    match f.packParts neg m q with
    | some x => x
    | none =>
      match md with
      | .rne => f.infPat neg
      | .rtz => f.maxPat neg
      | .rup => if neg then f.maxPat neg else f.infPat neg
      | .rdn => if neg then f.infPat neg else f.maxPat neg

/-- What a conversion does to an overflowing element: the value it takes and the STATUS flag it sets (R176, R177). -/
inductive Conv where
  | val (x : Nat)
  | sat (x : Nat)
  | inf (x : Nat)
  | trap
deriving DecidableEq, Repr

/-- ConvertToFloat of R189. -/
def FFmt.convert (f : FFmt) (md : RMode) (pol : Nat) : Fl → Conv
  | .nan => .val f.canonNaN
  | .inf neg => .val (f.infPat neg)
  | .fin neg n d =>
    let (m, q) := f.roundParts md neg n d
    match f.packParts neg m q with
    | some x => .val x
    | none =>
      match pol with
      | 0 => .sat (f.maxPat neg)
      | 1 => .inf (f.infPat neg)
      | 2 => .inf f.canonNaN
      | _ => .trap

/-- ConvertToInt of R189 to an integer type, as a pattern of the type. -/
def IntTy.convert (t : IntTy) (md : RMode) (pol : Nat) (x : Fl) : Conv :=
  let sentinel := if t.sgn then wrap t.lo t.w else 2 ^ t.w - 1
  match x with
  | .nan =>
    match pol with
    | 3 => .trap
    | 2 => .sat sentinel
    | _ => .sat 0
  | .inf neg =>
    match pol with
    | 0 => .sat (wrap (if neg then t.lo else t.hi) t.w)
    | 1 => .sat 0
    | 2 => .sat sentinel
    | _ => .trap
  | .fin neg n d =>
    let m : Int := roundMag md neg n d
    let y := if neg then -m else m
    if t.lo ≤ y && y ≤ t.hi then .val (wrap y t.w)
    else
      match pol with
      | 0 => .sat (wrap (clampInt y t.lo t.hi) t.w)
      | 1 => .sat (wrap y t.w)
      | 2 => .sat sentinel
      | _ => .trap

/-- An integer as an exact floating value. -/
def Fl.ofInt (v : Int) : Fl := .fin (v < 0) v.natAbs 1

def Fl.neg : Fl → Fl
  | .nan => .nan
  | .inf s => .inf (!s)
  | .fin s n d => .fin (!s) n d

def Fl.isNeg : Fl → Bool
  | .nan => false
  | .inf s => s
  | .fin s _ _ => s

def Fl.isZero : Fl → Bool
  | .fin _ n _ => n = 0
  | _ => false

def Fl.isNaN : Fl → Bool
  | .nan => true
  | _ => false

def Fl.isFinite : Fl → Bool
  | .fin .. => true
  | _ => false

/-- The exact sum, with the zero signs of R171 under the rounding mode. -/
def Fl.add (md : RMode) : Fl → Fl → Fl
  | .nan, _ => .nan
  | _, .nan => .nan
  | .inf a, .inf b => if a = b then .inf a else .nan
  | .inf a, _ => .inf a
  | _, .inf b => .inf b
  | .fin a n d, .fin b m e =>
    if a = b then .fin a (n * e + m * d) (d * e)
    else if n * e = m * d then .fin (md = .rdn) 0 1
    else if m * d < n * e then .fin a (n * e - m * d) (d * e)
    else .fin b (m * d - n * e) (d * e)

/-- The exact product. -/
def Fl.mul : Fl → Fl → Fl
  | .nan, _ => .nan
  | _, .nan => .nan
  | .inf a, .inf b => .inf (a != b)
  | .inf a, .fin b m _ => if m = 0 then .nan else .inf (a != b)
  | .fin a n _, .inf b => if n = 0 then .nan else .inf (a != b)
  | .fin a n d, .fin b m e => .fin (a != b) (n * m) (d * e)

/-- The exact quotient (IEEE 754: x / 0 is an infinity, 0 / 0 and Inf / Inf are NaN). -/
def Fl.div : Fl → Fl → Fl
  | .nan, _ => .nan
  | _, .nan => .nan
  | .inf _, .inf _ => .nan
  | .inf a, .fin b _ _ => .inf (a != b)
  | .fin a _ _, .inf b => .fin (a != b) 0 1
  | .fin a n d, .fin b m e =>
    if m = 0 then (if n = 0 then .nan else .inf (a != b))
    else .fin (a != b) (n * e) (d * m)

/-- Integer square root of a number below 4^k, bit by bit. -/
def isqrt (v : Nat) : Nat → Nat → Nat
  | 0, r => r
  | k + 1, r =>
    let t := r + 2 ^ k
    if t * t ≤ v then isqrt v k t else isqrt v k r

/-- The square root as a fraction that rounds as the exact root does in any mode and any format of up to 53 bits: the
root to 64 or more bits, with an odd last bit when the root is inexact. -/
def Fl.sqrt : Fl → Fl
  | .nan => .nan
  | .inf s => if s then .nan else .inf false
  | .fin s n d =>
    if n = 0 then .fin s 0 1
    else if s then .nan
    else
      let k := (70 + Nat.log2 d) / 2 + 1 + (Nat.log2 d - Nat.log2 n)
      let v := n * 4 ^ k / d
      let r := isqrt v (Nat.log2 v / 2 + 1) 0
      let exact := decide (r * r = v && v * d = n * 4 ^ k)
      .fin false (2 * r + (if exact then 0 else 1)) (2 * 2 ^ k)

/-- Order of two values that are not NaN: −0 equals +0. -/
def Fl.lt : Fl → Fl → Bool
  | .inf a, .inf b => a && !b
  | .inf a, .fin .. => a
  | .fin .., .inf b => !b
  | .fin a n d, .fin b m e =>
    let x : Int := if a then -((n * e : Nat) : Int) else ((n * e : Nat) : Int)
    let y : Int := if b then -((m * d : Nat) : Int) else ((m * d : Nat) : Int)
    x < y
  | _, _ => false

def Fl.eq (a b : Fl) : Bool := !a.isNaN && !b.isNaN && !a.lt b && !b.lt a

/-- FMin and FMax of R174: NaN for a NaN operand, −0 below +0. -/
def Fl.min (a b : Fl) : Fl :=
  if a.isNaN || b.isNaN then .nan
  else if a.lt b then a
  else if b.lt a then b
  else if a.isNeg then a else b

def Fl.max (a b : Fl) : Fl :=
  if a.isNaN || b.isNaN then .nan
  else if a.lt b then b
  else if b.lt a then a
  else if a.isNeg then b else a

/-! Bank formats (11 Table 11-2). -/

/-- Bits of an element of a bank format code. -/
def fmtBits : Nat → Nat
  | 0 => 4 | 1 => 4 | 2 => 8 | 3 => 8 | 4 => 16 | 5 => 16 | 6 => 32 | 7 => 16 | 8 => 16 | 9 => 32 | 10 => 16
  | 11 => 16 | 12 => 16 | _ => 8

/-- The integer type of a bank format, L16 converting as I16 (11 R259). -/
def fmtInt : Nat → Option IntTy
  | 0 => some ⟨4, true⟩ | 1 => some ⟨4, false⟩ | 2 => some ⟨8, true⟩ | 3 => some ⟨8, false⟩ | 4 => some ⟨16, true⟩
  | 5 => some ⟨16, false⟩ | 6 => some ⟨32, true⟩ | 10 => some ⟨16, true⟩ | _ => none

/-- The floating format of a bank format. -/
def fmtFloat : Nat → Option FFmt
  | 7 => some BF16 | 8 => some F16 | 9 => some F32 | _ => none

/-- Whether writing the pattern sets SPECIAL in a row-major bank of the format (14 Table 14-1). -/
def fmtSpecial (fmt x : Nat) : Bool :=
  match fmt with
  | 7 => BF16.isSpecial x
  | 8 => F16.isSpecial x
  | 9 => F32.isSpecial x
  | 12 => bitsOf x 8 2 ≠ 0
  | _ => false

/-- TreeSum of R187 with fuel: adjacent pairs, every addition rounded. -/
def treeSum (f : FFmt) (md : RMode) : Nat → List Nat → Nat
  | 0, l => l.headD 0
  | k + 1, l =>
    match l with
    | [] => 0
    | [x] => x
    | l => treeSum f md k ((chunksOf 2 l.length l).map fun p =>
        match p with
        | [a, b] => f.round md (Fl.add md (f.decode a) (f.decode b))
        | _ => p.headD 0)

/-- ConvertBF16ToBFB16 of R185: mantissas as 16-bit patterns, shared exponent, special code. -/
def toBFB16 (a : List Nat) : List Nat × Nat × Nat :=
  let ef := a.map fun x => (bitsOf x 7 8, bitsOf x 0 7)
  let nan := ef.any fun p => p.1 = 255 && p.2 ≠ 0
  let inf := ef.any fun p => p.1 = 255 && p.2 = 0
  let e := ef.foldl (fun m p => if p.1 ≠ 255 && (p.1 ≠ 0 || p.2 ≠ 0) then max m (max p.1 1) else m) 0
  let ms := a.map fun x =>
    let s := bitAt x 15
    let ex := bitsOf x 7 8
    let fr := bitsOf x 0 7
    if nan then 0
    else if ex = 255 then (if s then 0x8000 else 0x7FFF)
    else
      let sig := if ex = 0 then fr else 128 + fr
      let sh := e - max ex 1
      let mag := roundMag .rne false (sig * 2 ^ 7) (2 ^ sh)
      if s then wrap (-(mag : Int)) 16 else mag
  (ms, e, if nan then 2 else if inf then 1 else 0)

end Sys2Proof.Machine
end

