-- ==== Sys2Proof/Syntax.lean ====
section
/-!
DEFINITION. Sys2Proof/Syntax.lean: the instructions and device operations of Ryugor, one constructor per row of
spec/opcode_table.json.  The constructors up to `xend` are instruction words: their arguments are the word's own fields,
each at its own width (07_encodings_and_assembly.md).  Compiled Lean can build at most 244 constructors that carry
arguments, so the forms of three rows whose field has two to four values have a constructor each: EXIT, MCLR and
FENCE_FULL.  The other 115 are the operations and events of the device's
units, which have no encoding (95_what_each_step_holds.md): their arguments say which object the event acts on and
carry what arrives from outside or what the spec leaves open (a sensor reading, a completion's bytes, a placement, how far a job gets).
-/
namespace Sys2Proof

/-- One instruction word, or one operation or event of the device. -/
inductive Instr where
  /-- ADD (R191): Writes s[a] + s[b], wrapping modulo 2^64, into d. -/
  | add (d : BitVec 6) (a : BitVec 6) (b : BitVec 6)
  /-- SUB (R191): Writes s[a] - s[b], wrapping, into d. -/
  | sub (d : BitVec 6) (a : BitVec 6) (b : BitVec 6)
  /-- AND (R191): Writes the bitwise AND of s[a] and s[b] into d. -/
  | and (d : BitVec 6) (a : BitVec 6) (b : BitVec 6)
  /-- OR (R191): Writes the bitwise OR of s[a] and s[b] into d. -/
  | or (d : BitVec 6) (a : BitVec 6) (b : BitVec 6)
  /-- XOR (R191): Writes the bitwise XOR of s[a] and s[b] into d. -/
  | xor (d : BitVec 6) (a : BitVec 6) (b : BitVec 6)
  /-- SHL (R191): Shifts s[a] left by s[b][5:0] and writes the result into d. -/
  | shl (d : BitVec 6) (a : BitVec 6) (b : BitVec 6)
  /-- SHR (R191): Shifts s[a] right with zeros by s[b][5:0]. -/
  | shr (d : BitVec 6) (a : BitVec 6) (b : BitVec 6)
  /-- SAR (R191): Shifts s[a] right with copies of bit 63 by s[b][5:0]. -/
  | sar (d : BitVec 6) (a : BitVec 6) (b : BitVec 6)
  /-- SLT (R191): Writes 1 into d when s[a] < s[b] as signed values, and 0 otherwise. -/
  | slt (d : BitVec 6) (a : BitVec 6) (b : BitVec 6)
  /-- SLTU (R191): Writes 1 into d when s[a] < s[b] as unsigned values, and 0 otherwise. -/
  | sltu (d : BitVec 6) (a : BitVec 6) (b : BitVec 6)
  /-- MIN (R191): Writes the signed minimum of s[a] and s[b] into d. -/
  | min (d : BitVec 6) (a : BitVec 6) (b : BitVec 6)
  /-- MAX (R191): Writes the signed maximum of s[a] and s[b] into d. -/
  | max (d : BitVec 6) (a : BitVec 6) (b : BitVec 6)
  /-- MINU (R191): Writes the unsigned minimum of s[a] and s[b] into d. -/
  | minu (d : BitVec 6) (a : BitVec 6) (b : BitVec 6)
  /-- MAXU (R191): Writes the unsigned maximum of s[a] and s[b] into d. -/
  | maxu (d : BitVec 6) (a : BitVec 6) (b : BitVec 6)
  /-- CMOV (R191): Writes s[b] into d when s[a] is non-zero, and keeps s[d] otherwise. -/
  | cmov (d : BitVec 6) (a : BitVec 6) (b : BitVec 6)
  /-- ANDN (R191): Writes s[a] AND NOT s[b] into d. -/
  | andn (d : BitVec 6) (a : BitVec 6) (b : BitVec 6)
  /-- MUL (R191): Writes the low 64 bits of s[a] × s[b] into d. -/
  | mul (d : BitVec 6) (a : BitVec 6) (b : BitVec 6)
  /-- MULH (R191): Writes the high 64 bits of the signed 128-bit product into d. -/
  | mulh (d : BitVec 6) (a : BitVec 6) (b : BitVec 6)
  /-- MULHU (R191): Writes the high 64 bits of the unsigned 128-bit product into d. -/
  | mulhu (d : BitVec 6) (a : BitVec 6) (b : BitVec 6)
  /-- DIV (R191): Writes the signed quotient of IntDivide into d; it never traps. -/
  | div (d : BitVec 6) (a : BitVec 6) (b : BitVec 6)
  /-- DIVU (R191): Writes the unsigned quotient of IntDivide into d. -/
  | divu (d : BitVec 6) (a : BitVec 6) (b : BitVec 6)
  /-- REM (R191): Writes the signed remainder of IntDivide into d. -/
  | rem (d : BitVec 6) (a : BitVec 6) (b : BitVec 6)
  /-- REMU (R191): Writes the unsigned remainder of IntDivide into d. -/
  | remu (d : BitVec 6) (a : BitVec 6) (b : BitVec 6)
  /-- CLZ (R191): Writes the count of leading zero bits of s[a] into d, 64 for zero. -/
  | clz (d : BitVec 6) (a : BitVec 6)
  /-- CTZ (R191): Writes the count of trailing zero bits of s[a] into d, 64 for zero. -/
  | ctz (d : BitVec 6) (a : BitVec 6)
  /-- POPC (R191): Writes the number of set bits of s[a] into d. -/
  | popc (d : BitVec 6) (a : BitVec 6)
  /-- BFX (R192): Extracts a bit field of s[a], described by s[b], zero-extended into d. -/
  | bfx (d : BitVec 6) (a : BitVec 6) (b : BitVec 6)
  /-- BFXS (R192): Extracts a bit field of s[a], described by s[b], sign-extended into d. -/
  | bfxs (d : BitVec 6) (a : BitVec 6) (b : BitVec 6)
  /-- BFI (R192): Inserts the low bits of s[a] into the field of s[d] that s[b] describes. -/
  | bfi (d : BitVec 6) (a : BitVec 6) (b : BitVec 6)
  /-- ADDI (R193): Writes s[a] plus the sign-extended imm14 into d. -/
  | addi (d : BitVec 6) (a : BitVec 6) (i : BitVec 14)
  /-- ANDI (R193): Writes s[a] AND the sign-extended imm14 into d. -/
  | andi (d : BitVec 6) (a : BitVec 6) (i : BitVec 14)
  /-- ORI (R193): Writes s[a] OR the sign-extended imm14 into d. -/
  | ori (d : BitVec 6) (a : BitVec 6) (i : BitVec 14)
  /-- XORI (R193): Writes s[a] XOR the sign-extended imm14 into d. -/
  | xori (d : BitVec 6) (a : BitVec 6) (i : BitVec 14)
  /-- SLTI (R193): Writes 1 into d when s[a] is below imm as a signed value. -/
  | slti (d : BitVec 6) (a : BitVec 6) (i : BitVec 14)
  /-- SLTUI (R193): Writes 1 into d when s[a] is below the sign-extended imm as unsigned values. -/
  | sltui (d : BitVec 6) (a : BitVec 6) (i : BitVec 14)
  /-- SHLI (R193): Shifts s[a] left by an immediate amount. -/
  | shli (d : BitVec 6) (a : BitVec 6) (n : BitVec 6)
  /-- SHRI (R193): Shifts s[a] right with zeros by an immediate amount. -/
  | shri (d : BitVec 6) (a : BitVec 6) (n : BitVec 6)
  /-- SARI (R193): Shifts s[a] arithmetically right by an immediate amount. -/
  | sari (d : BitVec 6) (a : BitVec 6) (n : BitVec 6)
  /-- LUI (R194): Writes SignExtend(imm20) × 2^14 into d. -/
  | lui (d : BitVec 6) (i : BitVec 20)
  /-- AUIPC (R194): Writes the word's own virtual address plus SignExtend(imm20) × 2^14 into d. -/
  | auipc (d : BitVec 6) (i : BitVec 20)
  /-- BEQ (R195): Branches to PC + off when s[a] = s[b]. -/
  | beq (a : BitVec 6) (b : BitVec 6) (o : BitVec 14)
  /-- BNE (R195): Branches to PC + off when s[a] ≠ s[b]. -/
  | bne (a : BitVec 6) (b : BitVec 6) (o : BitVec 14)
  /-- BLT (R195): Branches when s[a] < s[b] as signed values. -/
  | blt (a : BitVec 6) (b : BitVec 6) (o : BitVec 14)
  /-- BGE (R195): Branches when s[a] ≥ s[b] as signed values. -/
  | bge (a : BitVec 6) (b : BitVec 6) (o : BitVec 14)
  /-- BLTU (R195): Branches when s[a] < s[b] as unsigned values. -/
  | bltu (a : BitVec 6) (b : BitVec 6) (o : BitVec 14)
  /-- BGEU (R195): Branches when s[a] ≥ s[b] as unsigned values. -/
  | bgeu (a : BitVec 6) (b : BitVec 6) (o : BitVec 14)
  /-- J (R195): Jumps to PC + off26. -/
  | j (o : BitVec 26)
  /-- JAL (R195): Jumps to PC + off26 and writes PC + 1 into s63. -/
  | jal (o : BitVec 26)
  /-- JALR (R195): Jumps to s[a] + imm and writes PC + 1 into d. -/
  | jalr (d : BitVec 6) (a : BitVec 6) (i : BitVec 14)
  /-- LOOP (R196): Opens a hardware loop over the next len words, with the count taken from s[a]. -/
  | loop (a : BitVec 6) (l : BitVec 13)
  /-- LDB (R199): Loads one byte from memory, sign-extended, landing at its named cycle. -/
  | ldb (d : BitVec 6) (b : BitVec 6) (r : BitVec 6) (p : BitVec 8)
  /-- LDBU (R199): Loads one byte from memory, zero-extended. -/
  | ldbu (d : BitVec 6) (b : BitVec 6) (r : BitVec 6) (p : BitVec 8)
  /-- LDH (R199): Loads two bytes from memory, sign-extended. -/
  | ldh (d : BitVec 6) (b : BitVec 6) (r : BitVec 6) (p : BitVec 8)
  /-- LDHU (R199): Loads two bytes from memory, zero-extended. -/
  | ldhu (d : BitVec 6) (b : BitVec 6) (r : BitVec 6) (p : BitVec 8)
  /-- LDW (R199): Loads four bytes from memory, sign-extended. -/
  | ldw (d : BitVec 6) (b : BitVec 6) (r : BitVec 6) (p : BitVec 8)
  /-- LDWU (R199): Loads four bytes from memory, zero-extended. -/
  | ldwu (d : BitVec 6) (b : BitVec 6) (r : BitVec 6) (p : BitVec 8)
  /-- LDD (R199): Loads eight bytes from memory. -/
  | ldd (d : BitVec 6) (b : BitVec 6) (r : BitVec 6) (p : BitVec 8)
  /-- STB (R201): Stores the low byte of s[d] to memory; it completes at issue. -/
  | stb (d : BitVec 6) (b : BitVec 6) (p : BitVec 8)
  /-- STH (R201): Stores the low two bytes of s[d] to memory. -/
  | sth (d : BitVec 6) (b : BitVec 6) (p : BitVec 8)
  /-- STW (R201): Stores the low four bytes of s[d] to memory. -/
  | stw (d : BitVec 6) (b : BitVec 6) (p : BitVec 8)
  /-- STD (R201): Stores the eight bytes of s[d] to memory. -/
  | std (d : BitVec 6) (b : BitVec 6) (p : BitVec 8)
  /-- LDS (R202): Loads 1, 2, 4 or 8 bytes from the team's scratchpad, sign-extended, at latency 3. -/
  | lds (d : BitVec 6) (a : BitVec 6) (z : BitVec 2) (o : BitVec 12)
  /-- STS (R202): Stores the low bytes of s[d] into the team's scratchpad and updates the directory entry as a partial write. -/
  | sts (d : BitVec 6) (a : BitVec 6) (z : BitVec 2) (o : BitVec 12)
  /-- LDP (R203): Reads 8 bytes of a parameter window, with zero fill beyond SIZE and PWOOB. -/
  | ldp (d : BitVec 6) (a : BitVec 6) (w : BitVec 3) (o : BitVec 11)
  /-- ATOM_SWAP (R206): Swaps the dword at s[a] with s[b] indivisibly at the home slice, returning the old value. -/
  | atomSwap (d : BitVec 6) (a : BitVec 6) (b : BitVec 6) (o : BitVec 2) (c : BitVec 2)
  /-- ATOM_ADD (R206): Adds s[b] to the dword at s[a] indivisibly, returning the old value. -/
  | atomAdd (d : BitVec 6) (a : BitVec 6) (b : BitVec 6) (o : BitVec 2) (c : BitVec 2)
  /-- ATOM_AND (R206): ANDs s[b] into the dword at s[a] indivisibly. -/
  | atomAnd (d : BitVec 6) (a : BitVec 6) (b : BitVec 6) (o : BitVec 2) (c : BitVec 2)
  /-- ATOM_OR (R206): ORs s[b] into the dword at s[a] indivisibly. -/
  | atomOr (d : BitVec 6) (a : BitVec 6) (b : BitVec 6) (o : BitVec 2) (c : BitVec 2)
  /-- ATOM_XOR (R206): XORs s[b] into the dword at s[a] indivisibly. -/
  | atomXor (d : BitVec 6) (a : BitVec 6) (b : BitVec 6) (o : BitVec 2) (c : BitVec 2)
  /-- ATOM_MIN (R206): Stores the signed minimum of the dword and s[b] indivisibly. -/
  | atomMin (d : BitVec 6) (a : BitVec 6) (b : BitVec 6) (o : BitVec 2) (c : BitVec 2)
  /-- ATOM_MAX (R206): Stores the signed maximum of the dword and s[b] indivisibly. -/
  | atomMax (d : BitVec 6) (a : BitVec 6) (b : BitVec 6) (o : BitVec 2) (c : BitVec 2)
  /-- ATOM_MINU (R206): Stores the unsigned minimum of the dword and s[b] indivisibly. -/
  | atomMinu (d : BitVec 6) (a : BitVec 6) (b : BitVec 6) (o : BitVec 2) (c : BitVec 2)
  /-- ATOM_MAXU (R206): Stores the unsigned maximum of the dword and s[b] indivisibly. -/
  | atomMaxu (d : BitVec 6) (a : BitVec 6) (b : BitVec 6) (o : BitVec 2) (c : BitVec 2)
  /-- CAS (R207): Compares the dword at s[a] with s[d], writes s[b] on a match and returns the old value. -/
  | cas (d : BitVec 6) (a : BitVec 6) (b : BitVec 6) (o : BitVec 2) (c : BitVec 2)
  /-- RED_ADD (R208): Adds s[b] to a word or dword in memory as a reduction that returns nothing. -/
  | redAdd (s : BitVec 1) (a : BitVec 6) (b : BitVec 6) (o : BitVec 1) (c : BitVec 2)
  /-- RED_AND (R208): ANDs s[b] into a word or dword in memory as a reduction. -/
  | redAnd (s : BitVec 1) (a : BitVec 6) (b : BitVec 6) (o : BitVec 1) (c : BitVec 2)
  /-- RED_OR (R208): ORs s[b] into a word or dword in memory as a reduction. -/
  | redOr (s : BitVec 1) (a : BitVec 6) (b : BitVec 6) (o : BitVec 1) (c : BitVec 2)
  /-- RED_XOR (R208): XORs s[b] into a word or dword in memory as a reduction. -/
  | redXor (s : BitVec 1) (a : BitVec 6) (b : BitVec 6) (o : BitVec 1) (c : BitVec 2)
  /-- RED_MIN (R208): Signed minimum reduction into memory. -/
  | redMin (s : BitVec 1) (a : BitVec 6) (b : BitVec 6) (o : BitVec 1) (c : BitVec 2)
  /-- RED_MAX (R208): Signed maximum reduction into memory. -/
  | redMax (s : BitVec 1) (a : BitVec 6) (b : BitVec 6) (o : BitVec 1) (c : BitVec 2)
  /-- RED_MINU (R208): Unsigned minimum reduction into memory. -/
  | redMinu (s : BitVec 1) (a : BitVec 6) (b : BitVec 6) (o : BitVec 1) (c : BitVec 2)
  /-- RED_MAXU (R208): Unsigned maximum reduction into memory. -/
  | redMaxu (s : BitVec 1) (a : BitVec 6) (b : BitVec 6) (o : BitVec 1) (c : BitVec 2)
  /-- RED_FADD32 (R208): Adds an F32 value to a word in memory with RNE at each merge. -/
  | redFadd32 (a : BitVec 6) (b : BitVec 6) (o : BitVec 1) (c : BitVec 2)
  /-- RED_FADD64 (R208): Adds an FP64 value to a dword in memory with RNE at each merge. -/
  | redFadd64 (a : BitVec 6) (b : BitVec 6) (o : BitVec 1) (c : BitVec 2)
  /-- LDA (R204): Loads from s[a] with acquire order at the given scope. -/
  | lda (d : BitVec 6) (a : BitVec 6) (u : BitVec 1) (z : BitVec 2) (c : BitVec 2)
  /-- STL (R204): Stores the low bytes of s[d] at s[a] with release order. -/
  | stl (d : BitVec 6) (a : BitVec 6) (z : BitVec 2) (c : BitVec 2)
  /-- FENCE_ACQ (R205): Waits for earlier loads of the SQ, then invalidates clean RC lines at cluster scope or wider. -/
  | fenceAcq (c : BitVec 2)
  /-- FENCE_REL (R205): Writes back dirty RC lines and waits for earlier writes of the SQ to reach the scope. -/
  | fenceRel (c : BitVec 2)
  /-- LDBLK (R209): Declares a load block of lines under one flag, clears the flag and starts the fill. -/
  | ldblk (f : BitVec 6) (a : BitVec 6) (n : BitVec 6)
  /-- BLKWAIT (R210): Blocks the SQ until the load block flag is set. -/
  | blkwait (f : BitVec 6)
  /-- BLKFREE (R210): Turns a block's lines into ordinary L1 lines and clears its flag. -/
  | blkfree (f : BitVec 6)
  /-- CHWF (R212): Blocks until n consumer slots of the channel are full. -/
  | chwf (n : BitVec 6) (c : BitVec 4)
  /-- CHWE (R212): Blocks until n producer slots of the channel are empty. -/
  | chwe (n : BitVec 6) (c : BitVec 4)
  /-- CHAP (R212): Waits for n empty producer slots, sets their full bits and advances P. -/
  | chap (n : BitVec 6) (c : BitVec 4)
  /-- CHAC (R212): Waits for n full consumer slots, clears their full bits and advances C. -/
  | chac (n : BitVec 6) (c : BitVec 4)
  /-- CHST (R212): Writes the channel's full count and indices into d. -/
  | chst (d : BitVec 6) (c : BitVec 4)
  /-- BINIT (R213): Resets the barrier object after the cycle's barrier steps. -/
  | binit (b : BitVec 5)
  /-- BARR (R213): Makes one arrival at the barrier object. -/
  | barr (b : BitVec 5)
  /-- BEXP (R213): Adds a signed byte count from s[a] to the object's PBYTES. -/
  | bexp (a : BitVec 6) (b : BitVec 5)
  /-- BWAIT (R213): Blocks while the object's PHASE equals s[a][0]. -/
  | bwait (a : BitVec 6) (b : BitVec 5)
  /-- ESTART (R214): Resumes stopped engines, or restarts ended engines at word 0. -/
  | estart (m : BitVec 5)
  /-- EWAIT (R214): Blocks the SQ until the named engines are stopped or ended and idle. -/
  | ewait (m : BitVec 5)
  /-- ESTOP (R214): Stops the named running engines at their next word boundary. -/
  | estop (m : BitVec 5)
  /-- MFS (R216): Reads a special register into d. -/
  | mfs (d : BitVec 6) (n : BitVec 10)
  /-- MTS (R216): Writes s[a] to a special register, subject to R155. -/
  | mts (a : BitVec 6) (n : BitVec 10)
  /-- SWPT (R137): Marks switch point n for the SQ and waits for the other engines. -/
  | swpt (n : BitVec 8)
  /-- FALLOC (R218): Allocates a future for the team's ASID and returns its handle. -/
  | falloc (d : BitVec 6)
  /-- FRES_RESOLVE (R219): After the team's writes drain, resolves the future READY with value s[b]. -/
  | fresResolve (d : BitVec 6) (a : BitVec 6) (b : BitVec 6)
  /-- FRES_FAIL (R219): After the team's writes drain, sets the future ERROR with value s[b]. -/
  | fresFail (d : BitVec 6) (a : BitVec 6) (b : BitVec 6)
  /-- FRES_CANCEL (R219): After the team's writes drain, sets the future CANCELLED. -/
  | fresCancel (d : BitVec 6) (a : BitVec 6)
  /-- FRES_FREE (R218): Frees the future entry and advances its generation. -/
  | fresFree (d : BitVec 6) (a : BitVec 6)
  /-- FRES_RESET (R218): Returns a final future to EMPTY with value 0. -/
  | fresReset (d : BitVec 6) (a : BitVec 6)
  /-- FWAIT (R218): Parks the team until the future is final, then returns its value with acquire order. -/
  | fwait (d : BitVec 6) (a : BitVec 6)
  /-- FPOLL (R218): Returns the state of the future entry. -/
  | fpoll (d : BitVec 6) (a : BitVec 6)
  /-- TKTAKE (R220): Takes the next ticket of a dispenser. -/
  | tktake (d : BitVec 6) (a : BitVec 6)
  /-- TKWAIT (R220): Parks the team until its ticket is served. -/
  | tkwait (a : BitVec 6) (b : BitVec 6)
  /-- TKSERVE (R220): After the team's writes drain, advances SERVE and wakes the parked teams. -/
  | tkserve (a : BitVec 6)
  /-- QENQ (R221): Writes a record into a ring indivisibly and advances TAIL. -/
  | qenq (d : BitVec 6) (a : BitVec 6) (b : BitVec 6)
  /-- QDEQ (R221): Copies the record at HEAD out of a ring indivisibly and advances HEAD. -/
  | qdeq (d : BitVec 6) (a : BitVec 6) (b : BitVec 6)
  /-- TSUB (R56): Enqueues a stamped record into an active queue's ring from a team. -/
  | tsub (d : BitVec 6) (a : BitVec 6) (b : BitVec 6)
  /-- SNAP (R388): Opens a new snapshot level on a registered region and returns its handle. -/
  | snap (d : BitVec 6) (a : BitVec 6) (b : BitVec 6)
  /-- SRESV (R391): Reserves shadow slots for a snapshot level. -/
  | sresv (d : BitVec 6) (a : BitVec 6) (b : BitVec 6)
  /-- SACC (R390): Accepts a snapshot level, folding it outward or closing it. -/
  | sacc (a : BitVec 6)
  /-- SREJ (R389): Rejects a snapshot level and its inner levels, restoring the saved lines. -/
  | srej (a : BitVec 6)
  /-- SQRY (R392): Reports the free slots of the pool, or the state of a handle. -/
  | sqry (d : BitVec 6) (a : BitVec 6)
  /-- LDV (R393): Reads 8 bytes through the view of a snapshot handle. -/
  | ldv (d : BitVec 6) (a : BitVec 6) (b : BitVec 6)
  /-- TDCLS (R223): Reads the tile directory entry of a dtile. -/
  | tdcls (d : BitVec 6) (a : BitVec 6)
  /-- TDSCAN (R224): Reclassifies n dtiles by reading their contents. -/
  | tdscan (a : BitVec 6) (n : BitVec 10)
  /-- CWB (R225): Writes back dirty bytes of n L1 lines and keeps them clean. -/
  | cwb (a : BitVec 6) (n : BitVec 10)
  /-- CINV (R225): Drops n L1 lines, losing their dirty bytes. -/
  | cinv (a : BitVec 6) (n : BitVec 10)
  /-- CWBI (R225): Writes back and then drops n L1 lines. -/
  | cwbi (a : BitVec 6) (n : BitVec 10)
  /-- TRAP (R226): Raises TRAP precisely with the code in the fault record. -/
  | trap (n : BitVec 10)
  /-- BRK (R226): Raises BRK precisely with the code in the fault record. -/
  | brk (n : BitVec 10)
  /-- VSETSH (R148): Writes VSHAPE: type, active mask, rounding and overflow policy. -/
  | vsetsh (p : BitVec 2) (r : BitVec 2) (m : BitVec 3) (t : BitVec 4)
  /-- VCHMAP (R233): Maps a channel chunk selector to a channel as consumer or producer. -/
  | vchmap (p : BitVec 1) (j : BitVec 3) (c : BitVec 4)
  /-- VSETPAT (R253): Writes one field entry of the pattern table. -/
  | vsetpat (k : BitVec 4) (s : BitVec 1) (w : BitVec 5) (o : BitVec 7)
  /-- VSETPAT_HDR (R253): Writes the period and field count of the pattern table. -/
  | vsetpatHdr (f : BitVec 4) (p : BitVec 7)
  /-- VLOOP (R235): Opens a VE hardware loop with its count from a k register. -/
  | vloop (k : BitVec 4) (l : BitVec 20)
  /-- VJMP (R235): Jumps the VE by a signed word offset. -/
  | vjmp (o : BitVec 20)
  /-- VSWPT (R137): Marks switch point n for the VE. -/
  | vswpt (n : BitVec 8)
  /-- VADVC (R132): Waits for the consumer slot to be full, clears it and advances C. -/
  | vadvc (c : BitVec 4)
  /-- VADVP (R132): Waits for the producer slot to be empty, sets it full and advances P. -/
  | vadvp (c : BitVec 4)
  /-- VWAITB (R136): Blocks the VE while the barrier's PHASE equals k[N][0]. -/
  | vwaitb (k : BitVec 4) (b : BitVec 5)
  /-- VADD (R236): Adds the elements of a and b. -/
  | vadd (d : BitVec 8) (a : BitVec 8) (b : BitVec 8)
  /-- VSUB (R236): Subtracts the elements of b from those of a. -/
  | vsub (d : BitVec 8) (a : BitVec 8) (b : BitVec 8)
  /-- VMUL (R236): Multiplies elements. -/
  | vmul (d : BitVec 8) (a : BitVec 8) (b : BitVec 8)
  /-- VMULH (R236): Writes the high half of integer element products. -/
  | vmulh (d : BitVec 8) (a : BitVec 8) (b : BitVec 8)
  /-- VFMA (R236): Computes D + A × B with one rounding. -/
  | vfma (d : BitVec 8) (a : BitVec 8) (b : BitVec 8)
  /-- VFMS (R236): Computes D − A × B with one rounding. -/
  | vfms (d : BitVec 8) (a : BitVec 8) (b : BitVec 8)
  /-- VMIN (R236): Element-wise minimum. -/
  | vmin (d : BitVec 8) (a : BitVec 8) (b : BitVec 8)
  /-- VMAX (R236): Element-wise maximum. -/
  | vmax (d : BitVec 8) (a : BitVec 8) (b : BitVec 8)
  /-- VABS (R236): Element-wise absolute value. -/
  | vabs (d : BitVec 8) (a : BitVec 8)
  /-- VNEG (R236): Element-wise negation. -/
  | vneg (d : BitVec 8) (a : BitVec 8)
  /-- VADDS (R236): Saturating integer addition. -/
  | vadds (d : BitVec 8) (a : BitVec 8) (b : BitVec 8)
  /-- VSUBS (R236): Saturating integer subtraction. -/
  | vsubs (d : BitVec 8) (a : BitVec 8) (b : BitVec 8)
  /-- VAVG (R236): Element-wise average. -/
  | vavg (d : BitVec 8) (a : BitVec 8) (b : BitVec 8)
  /-- VABD (R236): Element-wise absolute difference. -/
  | vabd (d : BitVec 8) (a : BitVec 8) (b : BitVec 8)
  /-- VAND (R237): Bitwise AND of elements. -/
  | vand (d : BitVec 8) (a : BitVec 8) (b : BitVec 8)
  /-- VOR (R237): Bitwise OR of elements. -/
  | vor (d : BitVec 8) (a : BitVec 8) (b : BitVec 8)
  /-- VXOR (R237): Bitwise XOR of elements. -/
  | vxor (d : BitVec 8) (a : BitVec 8) (b : BitVec 8)
  /-- VNOT (R237): Bitwise NOT of elements. -/
  | vnot (d : BitVec 8) (a : BitVec 8)
  /-- VSHL (R237): Shifts elements left by per-element counts. -/
  | vshl (d : BitVec 8) (a : BitVec 8) (b : BitVec 8)
  /-- VSHR (R237): Shifts elements right with zeros by per-element counts. -/
  | vshr (d : BitVec 8) (a : BitVec 8) (b : BitVec 8)
  /-- VSAR (R237): Shifts elements arithmetically right by per-element counts. -/
  | vsar (d : BitVec 8) (a : BitVec 8) (b : BitVec 8)
  /-- VSHLI (R237): Shifts elements left by an immediate amount. -/
  | vshli (d : BitVec 8) (a : BitVec 8) (n : BitVec 5)
  /-- VSHRI (R237): Shifts elements right with zeros by an immediate amount. -/
  | vshri (d : BitVec 8) (a : BitVec 8) (n : BitVec 5)
  /-- VSARI (R237): Shifts elements arithmetically right by an immediate amount. -/
  | vsari (d : BitVec 8) (a : BitVec 8) (n : BitVec 5)
  /-- VCLZ (R237): Writes the leading-zero count of each element. -/
  | vclz (d : BitVec 8) (a : BitVec 8)
  /-- VPOPC (R237): Writes the set-bit count of each element. -/
  | vpopc (d : BitVec 8) (a : BitVec 8)
  /-- VDIV (R238): Element-wise division. -/
  | vdiv (d : BitVec 8) (a : BitVec 8) (b : BitVec 8)
  /-- VSQRT (R238): Correctly rounded floating square root. -/
  | vsqrt (d : BitVec 8) (a : BitVec 8)
  /-- VRCP (R240): Reciprocal by the defined table-and-refinement procedure. -/
  | vrcp (d : BitVec 8) (a : BitVec 8)
  /-- VRSQ (R240): Reciprocal square root by the defined procedure. -/
  | vrsq (d : BitVec 8) (a : BitVec 8)
  /-- VEXP2 (R240): Base-2 exponential by the defined procedure. -/
  | vexp2 (d : BitVec 8) (a : BitVec 8)
  /-- VLOG2 (R240): Base-2 logarithm by the defined procedure. -/
  | vlog2 (d : BitVec 8) (a : BitVec 8)
  /-- VCLASS (R239): Writes a one-hot floating class code for each element. -/
  | vclass (d : BitVec 8) (a : BitVec 8)
  /-- VCMP (R241): Sets mask bits by comparing active elements under a condition. -/
  | vcmp (c : BitVec 4) (m : BitVec 3) (a : BitVec 8) (b : BitVec 8)
  /-- VSEL (R242): Selects a or b per element by the active mask. -/
  | vsel (d : BitVec 8) (a : BitVec 8) (b : BitVec 8)
  /-- MAND (R242): ANDs two mask registers. -/
  | mand (d : BitVec 3) (a : BitVec 3) (b : BitVec 3)
  /-- MOR (R242): ORs two mask registers. -/
  | mor (d : BitVec 3) (a : BitVec 3) (b : BitVec 3)
  /-- MXOR (R242): XORs two mask registers. -/
  | mxor (d : BitVec 3) (a : BitVec 3) (b : BitVec 3)
  /-- MNOT (R242): Inverts a mask register. -/
  | mnot (d : BitVec 3) (a : BitVec 3)
  /-- MPOPC (R242): Counts the set bits of a mask into a k register. -/
  | mpopc (d : BitVec 4) (a : BitVec 3)
  /-- MFIRST (R242): Writes the index of a mask's lowest set bit into a k register. -/
  | mfirst (d : BitVec 4) (a : BitVec 3)
  /-- VCVT (R243): Converts elements between types of equal width. -/
  | vcvt (d : BitVec 8) (a : BitVec 8) (t : BitVec 4)
  /-- VWIDEN (R244): Converts elements to a wider type into a register pair or quad. -/
  | vwiden (d : BitVec 8) (a : BitVec 8) (t : BitVec 4)
  /-- VNARROW (R244): Converts a pair or quad into a narrower type. -/
  | vnarrow (d : BitVec 8) (a : BitVec 8) (t : BitVec 4)
  /-- VQUANT (R245): Quantises scaled floating elements to integers. -/
  | vquant (d : BitVec 8) (a : BitVec 8) (b : BitVec 8)
  /-- VDEQ (R245): Dequantises integer elements by floating scales. -/
  | vdeq (d : BitVec 8) (a : BitVec 8) (b : BitVec 8)
  /-- VRSUM (R246): Sums a register's elements into element 0. -/
  | vrsum (d : BitVec 8) (a : BitVec 8)
  /-- VRMAX (R246): Reduces a register to its maximum. -/
  | vrmax (d : BitVec 8) (a : BitVec 8)
  /-- VRMIN (R246): Reduces a register to its minimum. -/
  | vrmin (d : BitVec 8) (a : BitVec 8)
  /-- VSCAN (R246): Computes the left-to-right running sum. -/
  | vscan (d : BitVec 8) (a : BitVec 8)
  /-- VPERM (R247): Permutes elements by an index vector. -/
  | vperm (d : BitVec 8) (a : BitVec 8) (b : BitVec 8)
  /-- VSLIDE (R247): Slides elements by a signed count. -/
  | vslide (d : BitVec 8) (a : BitVec 8) (s : BitVec 8)
  /-- VBCAST (R247): Broadcasts the element selected by a k register. -/
  | vbcast (d : BitVec 8) (a : BitVec 8) (k : BitVec 4)
  /-- VCOMP (R247): Packs the active elements to the front. -/
  | vcomp (d : BitVec 8) (a : BitVec 8)
  /-- VEXPD (R247): Expands packed elements into the active positions. -/
  | vexpd (d : BitVec 8) (a : BitVec 8)
  /-- KLI (R248): Loads a sign-extended immediate into a k register. -/
  | kli (k : BitVec 4) (i : BitVec 20)
  /-- KADD (R248): Adds two k registers. -/
  | kadd (d : BitVec 4) (a : BitVec 4) (b : BitVec 4)
  /-- KMUL (R248): Multiplies two k registers. -/
  | kmul (d : BitVec 4) (a : BitVec 4) (b : BitVec 4)
  /-- KFADD (R248): Adds two k registers as floating values of the shape's type. -/
  | kfadd (d : BitVec 4) (a : BitVec 4) (b : BitVec 4)
  /-- KGET (R248): Reads one vector element into a k register. -/
  | kget (d : BitVec 4) (a : BitVec 8) (b : BitVec 4)
  /-- VINS (R248): Inserts a k value into one element of a vector. -/
  | vins (d : BitVec 8) (a : BitVec 4) (b : BitVec 4)
  /-- KMFS (R248): Reads a special register into a k register. -/
  | kmfs (k : BitVec 4) (n : BitVec 10)
  /-- XSET_XREG (R248): Sets an x register from the low 23 bits of a k register. -/
  | xsetXreg (d : BitVec 4) (a : BitVec 4)
  /-- XADDI (R248): Adds a signed immediate to an x register modulo 2^23. -/
  | xaddi (x : BitVec 4) (i : BitVec 20)
  /-- VLD (R250): Loads 512 bytes of scratchpad into a vector. -/
  | vld (d : BitVec 8) (x : BitVec 4) (o : BitVec 12)
  /-- VST (R250): Stores the active elements of a vector into scratchpad. -/
  | vst (d : BitVec 8) (x : BitVec 4) (o : BitVec 12)
  /-- VLDS (R250): Loads eight 64-byte chunks at a stride. -/
  | vlds (d : BitVec 8) (x : BitVec 4) (k : BitVec 4) (o : BitVec 8)
  /-- VSTS (R250): Stores eight 64-byte chunks at a stride. -/
  | vsts (d : BitVec 8) (x : BitVec 4) (k : BitVec 4) (o : BitVec 8)
  /-- VLDX (R251): Gathers elements from scratchpad by an index vector. -/
  | vldx (d : BitVec 8) (x : BitVec 4) (a : BitVec 8)
  /-- VSTX (R251): Scatters elements into scratchpad by an index vector. -/
  | vstx (d : BitVec 8) (x : BitVec 4) (a : BitVec 8)
  /-- VLDP (R254): Loads bit fields of a stream through the pattern table and converts them. -/
  | vldp (d : BitVec 8) (x : BitVec 4) (o : BitVec 12)
  /-- VLDB (R250): Loads 64 bytes and writes eight copies of them. -/
  | vldb (d : BitVec 8) (x : BitVec 4) (o : BitVec 12)
  /-- NSET (R343): Sets the low 20 bits of a field of the shadow nest descriptor. -/
  | nset (f : BitVec 8) (v : BitVec 20)
  /-- NSETH (R343): Sets bits 39:20 of a field of the shadow nest descriptor. -/
  | nseth (f : BitVec 8) (v : BitVec 20)
  /-- NLD (R343): Loads the shadow nest descriptor from 128 bytes of scratchpad. -/
  | nld (a : BitVec 16)
  /-- MGO (R335): Validates the shadow and starts a nest, optionally chained from the staging buffer. -/
  | mgo (o : BitVec 8) (c : BitVec 1) (d : BitVec 16)
  /-- MWAIT (R343): Blocks the ME while more than n nests are outstanding. -/
  | mwait (n : BitVec 3)
  /-- MLOOP (R343): Opens an ME hardware loop. -/
  | mloop (c : BitVec 12) (l : BitVec 16)
  /-- MJMP (R343): Jumps the ME by a signed word offset. -/
  | mjmp (o : BitVec 28)
  /-- MSWPT (R137): Marks switch point n for the ME. -/
  | mswpt (n : BitVec 8)
  /-- MWAITB (R152): Blocks the ME on a barrier phase, optionally toggled by the loop iteration. -/
  | mwaitb (b : BitVec 5) (p : BitVec 1) (t : BitVec 1)
  /-- XLD (R270): Loads the transfer descriptor shadow from 64 bytes of scratchpad. -/
  | xld (a : BitVec 17)
  /-- XSET (R271): Writes one part of a field of the transfer descriptor shadow. -/
  | xset (f : BitVec 6) (p : BitVec 2) (v : BitVec 19)
  /-- XGO (R273): Validates and starts a copy or conversion job from the shadow. -/
  | xgo (o : BitVec 8) (d : BitVec 16)
  /-- XWAIT (R281): Blocks the stream until at most n of its jobs are outstanding. -/
  | xwait (n : BitVec 3)
  /-- XMC (R278): Starts a multicast fill into the gang's teams on the named cores. -/
  | xmc (o : BitVec 8) (d : BitVec 16)
  /-- XCONV (R274): Starts a local conversion job, optionally rewriting the bank format. -/
  | xconv (o : BitVec 8) (d : BitVec 16)
  /-- XDEC (R282): Starts a decompressing fill of NQ4 superblocks. -/
  | xdec (o : BitVec 8) (d : BitVec 16)
  /-- XGATH (R275): Starts a gather of rows chosen by an index list. -/
  | xgath (o : BitVec 8) (d : BitVec 16)
  /-- XSCAT (R276): Starts a scatter to memory, optionally recording a delta map. -/
  | xscat (o : BitVec 8) (d : BitVec 16)
  /-- XLOOP (R281): Opens a TU or GQ hardware loop. -/
  | xloop (c : BitVec 11) (l : BitVec 16)
  /-- XJMP (R281): Jumps the stream by a signed word offset. -/
  | xjmp (o : BitVec 27)
  /-- XSWPT (R137): Marks switch point n for a TU or GQ stream. -/
  | xswpt (n : BitVec 8)
  /-- XWAITB (R152): Blocks the stream on a barrier phase. -/
  | xwaitb (b : BitVec 5) (p : BitVec 1) (t : BitVec 1)
  /-- XPUSHR (R277): Starts a push of local data into a channel slot of another gang team. -/
  | xpushr (o : BitVec 8) (d : BitVec 16)
  /-- LPOP (R311): Pops the next tile-list entry into an entry register, or END or ABORT. -/
  | lpop (o : BitVec 8) (e : BitVec 3) (d : BitVec 16)
  /-- LPEEK (R311): Reads the next tile-list entry without advancing POPIDX. -/
  | lpeek (o : BitVec 8) (e : BitVec 3) (d : BitVec 16)
  /-- GFETCH (R314): Pushes a tile's entry and haloed input region into a target team's slot. -/
  | gfetch (o : BitVec 8) (e : BitVec 3) (d : BitVec 16)
  /-- GSHIFT (R316): Copies a SHIFT tile's displaced activations through the view and writes its delta entry. -/
  | gshift (o : BitVec 8) (e : BitVec 3) (d : BitVec 16)
  /-- GPOOL (R315): Pushes a max-pooled tile into a target team's slot. -/
  | gpool (o : BitVec 8) (e : BitVec 3) (d : BitVec 16)
  /-- GDONE (R317): Drops the row cache and pushes an END slot to every other gang team. -/
  | gdone (o : BitVec 8)
  /-- FENCE_FULL (R205): Waits for earlier stores and loads of the SQ at the scope, writing back and invalidating L1 lines as the scope requires. This is its form team scope. -/
  | fenceFullT
  /-- FENCE_FULL (R205): Waits for earlier stores and loads of the SQ at the scope, writing back and invalidating L1 lines as the scope requires. This is its form cluster scope. -/
  | fenceFullC
  /-- FENCE_FULL (R205): Waits for earlier stores and loads of the SQ at the scope, writing back and invalidating L1 lines as the scope requires. This is its form device scope. -/
  | fenceFullD
  /-- FENCE_FULL (R205): Waits for earlier stores and loads of the SQ at the scope, writing back and invalidating L1 lines as the scope requires. This is its form system scope. -/
  | fenceFullS
  /-- YIELD (R217): Switches to the next ready team, or continues when none is ready. -/
  | yield
  /-- PSTART (R96): Marks the team as started for early successors. -/
  | pstart
  /-- PWAIT (R97): Parks the team until every HINTED predecessor has left the window. -/
  | pwait
  /-- EXIT (R215): Stops the other engines, waits for their jobs and releases the team slot, with an error when e is set. This is its form without error. -/
  | exit
  /-- EXIT (R215): Stops the other engines, waits for their jobs and releases the team slot, with an error when e is set. This is its form with error. -/
  | exitErr
  /-- ERET (R402): Returns from the trap handler to EPC and resumes every halted engine. -/
  | eret
  /-- VEND (R235): Ends the VE stream. -/
  | vend
  /-- MEND (R343): Ends the ME stream; outstanding nests run on. -/
  | mend
  /-- MCLR (R343): Queues a clear of the named accumulator buffers behind the earlier nests. This is its form buffer 0. -/
  | mclr0
  /-- MCLR (R343): Queues a clear of the named accumulator buffers behind the earlier nests. This is its form buffer 1. -/
  | mclr1
  /-- MCLR (R343): Queues a clear of the named accumulator buffers behind the earlier nests. This is its form both buffers. -/
  | mclrBoth
  /-- MDRAIN (R343): Blocks until no nest is outstanding, then clears the staging buffer. -/
  | mdrain
  /-- XEND (R281): Ends the stream; its outstanding jobs run on. -/
  | xend
  /-- SWITCH_POINT_JUMP (R137): Four cycles after the last engine reaches a switch point, every engine resumes at the selected variant's word. -/
  | switchPointJump (slot : Nat)
  /-- REGISTER_WRITE (R8): A write to a BAR0 register without behaviour of its own sets its RW fields, subject to the register's write conditions. -/
  | registerWrite (off : Nat) (val : BitVec 64)
  /-- QUEUE_ENABLE (R51): A write of QCTL.EN = 1 validates the control block and makes the queue ACTIVE or BROKEN. -/
  | queueEnable (q : Nat)
  /-- QUEUE_DISABLE (R51): A write of QCTL.EN = 0 stops the reading of records; admitted tasks run on. -/
  | queueDisable (q : Nat)
  /-- QUEUE_TEARDOWN (R78): A write of QCTL.TEARDOWN starts the teardown sequence, ending DISABLED. -/
  | queueTeardown (q : Nat)
  /-- QUEUE_RESET (R50): A write of QCTL.RESET tears the queue down, sets HEAD to TAIL and validates it again. -/
  | queueReset (q : Nat)
  /-- TEARDOWN_FINISH (R78): Once the teams and jobs of the queue have halted and drained, rejects open levels, resolves futures CANCELLED, releases entries and logs. -/
  | teardownFinish (q : Nat)
  /-- FUTURE_ALLOC_READ (R69): A read of the BAR0 allocation register takes a FREE future for the ASID and returns its handle, or 0. -/
  | futureAllocRead (asid : Nat)
  /-- QUEUE_WAKE (R53): A write that lands in a watched line wakes the queue manager for that queue within 1 µs. -/
  | queueWake (q : Nat)
  /-- RECORD_ADMIT (R53): The queue manager admits the valid record at HEAD, clears CTRL and advances HEAD. -/
  | recordAdmit (q : Nat)
  /-- TASK_FUTURE_RESOLVE (R73): A future operation task with code 0x01 resolves the target future READY. -/
  | taskFutureResolve (tid : Nat)
  /-- TASK_FUTURE_FAIL (R73): A future operation task with code 0x02 sets the target future ERROR. -/
  | taskFutureFail (tid : Nat)
  /-- TASK_FUTURE_CANCEL (R73): A future operation task with code 0x03 sets the target future CANCELLED. -/
  | taskFutureCancel (tid : Nat)
  /-- TASK_FUTURE_FREE (R73): A future operation task with code 0x04 frees the target future. -/
  | taskFutureFree (tid : Nat)
  /-- TASK_FUTURE_RESET (R73): A future operation task with code 0x05 resets the target future to EMPTY. -/
  | taskFutureReset (tid : Nat)
  /-- TASK_TICKET_SERVE (R76): A ticket operation task with code 0x01 performs TKSERVE ARG1 times. -/
  | taskTicketServe (tid : Nat)
  /-- TASK_TICKET_INIT (R76): A ticket operation task with code 0x02 sets NEXT and SERVE to ARG1. -/
  | taskTicketInit (tid : Nat)
  /-- TEAM_PLACE (R86): The dispatcher places a chosen team into a free slot under residency and group rules, swapping out eligible teams to make room. -/
  | teamPlace (tid ix : Nat) (places : List (Nat × Nat)) (evict : List Nat)
  /-- KERNEL_SLOT_LOADED (R85): Loading of a kernel slot's code and KTT bank completes, or fails on a revoked entry. -/
  | kernelSlotLoaded (core ks : Nat)
  /-- BANK_CLEAR_DONE (R345): Clearing of a newly assigned bank completes and its directory entries read ZERO. -/
  | bankClearDone (slot : Nat)
  /-- SWAP_OUT_DONE (R91): A swapped-out team's image has been written to the pool. -/
  | swapOutDone (slot : Nat)
  /-- SWAP_IN_DONE (R91): A team's image has been restored and the team becomes ready. -/
  | swapInDone (slot : Nat)
  /-- OCCUPANCY_TICK (R67): Every 10 µs the dispatcher subtracts occupancy from the deficit of each issuing team's queue. -/
  | occupancyTick
  /-- CLASS_STARVED (R65): A class that has held a dispatchable team for 1 ms without placement becomes starved. -/
  | classStarved (cls : Nat)
  /-- QUANTUM_EXPIRY (R87): A team's quantum of issue expires and the core switches as for YIELD. -/
  | quantumExpiry (core : Nat)
  /-- SWITCH_COMPLETE (R88): 256 cycles after the outgoing team halts, the incoming team issues its first word. -/
  | switchComplete (core : Nat)
  /-- ME_SWITCH_DONE (R88): 2,048 cycles after the halt, the accumulator save and restore and the B reload end, and the incoming team's nests advance. -/
  | meSwitchDone (core : Nat)
  /-- PREEMPT_REQUEST (R94): The dispatcher, a watchdog or a teardown requests that every engine of a team halt. -/
  | preemptRequest (slot : Nat)
  /-- TEAM_HALTED (R94): Every engine of a team has reached its boundary and in-flight reads have landed; the team is then saved or killed. -/
  | teamHalted (slot : Nat)
  /-- WATCHDOG_PREEMPT (R80): At TP × 16 µs the watchdog requests pre-emption of every team of the task and stops its engine jobs. -/
  | watchdogPreempt (tid : Nat)
  /-- WATCHDOG_FORCE_KILL (R80): T_k later, every team or job not yet halted is killed by force. -/
  | watchdogForceKill (tid : Nat)
  /-- WATCHDOG_FENCE (R80): T_f after that, every core or engine that has not reported the kill is fenced. -/
  | watchdogFence (tid : Nat) (f : FencedUnit)
  /-- FENCE_RETURN (R410): A fenced core returns to the dispatcher within 50 µs. -/
  | fenceReturn (unit : Nat)
  /-- TASK_RETIRE (R59): A task whose teams have exited, or whose job has ended, and whose writes have drained leaves the window and its future resolves. -/
  | taskRetire (tid : Nat)
  /-- DECODE_JOB (R288): A codec engine starts decoding one access unit of a context into a frame slot and an analysis tensor. -/
  | decodeJob (w : JobStep) (eng : Nat)
  /-- CMU_JOB (R295): The CMU starts computing the delta and MC maps of layer 0. -/
  | cmuJob (w : JobStep)
  /-- LIST_JOB (R302): The list builder starts classifying the tiles of a layer and writing the tile list. -/
  | listJob (w : JobStep)
  /-- COPY_JOB (R432): A copy engine starts a memory-to-memory transfer job. -/
  | copyJob (w : JobStep) (eng : Nat)
  /-- COLLECTIVE_JOB (R433): A copy engine starts a collective job among the peer cards. -/
  | collectiveJob (w : JobStep) (eng : Nat)
  /-- COLLECTIVE_STAGE_PASS (R434): Every awaited peer FLAG word reaches the stage value and the job proceeds past the stage. -/
  | collectiveStagePass (tid : Nat)
  /-- COLLECTIVE_TIMEOUT (R433): Partners have not all signalled within TMO ms and the job fails with cause 0x06. -/
  | collectiveTimeout (tid : Nat)
  /-- TLB_MISS_PROBE (R105): A device engine's TLB miss sends a probe round the ring. -/
  | tlbMissProbe (stop asid va : Nat)
  /-- PAGE_WALK (R105): A page walker completes a walk for a device engine, which checks the permissions or stops the job. -/
  | pageWalk (stop walker asid va : Nat)
  /-- INVALIDATE_GO (R111): A write of INVCTL with GO = 1 starts an invalidation command, or rejects it with ERR. -/
  | invalidateGo (val : BitVec 64)
  /-- INVALIDATE_ACK (R113): Once every agent has reached its revocation point and written back, DONE advances and BUSY clears. -/
  | invalidateAck
  /-- LOAD_DATA_ARRIVAL (R124): Load data reaches the landing buffer, and an untimed load writes its register. -/
  | loadDataArrival (slot ix : Nat)
  /-- TIMED_LANDING (R124): At the named cycle N the held data of a timed load is written to its register. -/
  | timedLanding (slot ix : Nat)
  /-- LATE_LANDING_FREEZE (R126): A timed landing not present by the end of cycle N − 1 freezes the issuing cluster. -/
  | lateLandingFreeze (slot : Nat)
  /-- COMPLETION_DEADLINE (R125): At the named cycle of a job or nest with D ≠ 0 its completion object fires. -/
  | completionDeadline (slot eng : Nat)
  /-- TU_JOB_COMPLETE (R266): A TU or GQ job writes its last byte or issues its last write, and its completion object fires when D = 0. -/
  | tuJobComplete (slot : Nat) (w : TuStep)
  /-- PUSH_CLAIM (R277): A waiting push claims the target's producer slot once it is empty and advances P. -/
  | pushClaim (slot eng : Nat)
  /-- WINDOW_LANDING (R280): 24 cluster cycles after its source read, a window beat lands in every target at once. -/
  | windowLanding (cluster : Nat)
  /-- NEST_VALIDATED (R335): Validation of a nest ends and its first B load may start. -/
  | nestValidated (slot : Nat)
  /-- ME_B_LOAD_DONE (R338): A B tile and its column sums have loaded into the shadow cells. -/
  | meBLoadDone (slot : Nat)
  /-- ME_PASS_DONE (R325): A pass has folded its last row into the accumulator. -/
  | mePassDone (slot : Nat)
  /-- ME_BOUNDARY_DONE (R329): A scale boundary has added the PART buffer into the F32 accumulator. -/
  | meBoundaryDone (slot : Nat)
  /-- ME_DRAIN_DONE (R332): A drain has written the converted buffer to C or the staging buffer and cleared it. -/
  | meDrainDone (slot : Nat)
  /-- NEST_COMPLETE (R336): A nest writes its status word and fires its completion object. -/
  | nestComplete (slot : Nat)
  /-- MCLR_CLEAR (R343): After the earlier nests complete, the queued MCLR clears the named buffers. -/
  | mclrClear (slot : Nat)
  /-- MDRAIN_CLEAR (R343): Once no nest is outstanding, MDRAIN clears the staging buffer and makes it EMPTY. -/
  | mdrainClear (slot : Nat)
  /-- LOAD_BLOCK_FILLED (R209): The last line of a load block is present and the flag is set. -/
  | loadBlockFilled (slot flag : Nat)
  /-- WRITE_DRAIN_DONE (R57): The writes counted in a team's write-drain count up to a waited value have drained, releasing the waiting word or stamped task. -/
  | writeDrainDone (slot : Nat)
  /-- TAGGED_WRITE (R384): A tagged write reaches its line's snapshot unit, which saves the line for each level lacking a version before performing it. -/
  | taggedWrite (c : WriteCut)
  /-- RESTORER_WORK_DONE (R456): The restorers finish copying back the lines and freeing the slots of one reject or accept point. -/
  | restorerWorkDone
  /-- LINE_RECALL (R371): An atomic or reduction reaching its home slice recalls the line from every L1 holder. -/
  | lineRecall (ix : Nat)
  /-- ATOMIC_APPLY (R370): After the last recall reply the atomic or reduction is applied in the home slice's write queue. -/
  | atomicApply (ix : Nat)
  /-- PATROL_SCRUB (R351): The scrubber reads a dtile, corrects single-bit errors and marks uncorrectable beats poisoned. -/
  | patrolScrub (slot dtile : Nat) (bad : List Nat)
  /-- UNCORRECTABLE_ERROR (R405): An uncorrectable error in a store is marked as poison and logged. -/
  | uncorrectableError (store unit addr : Nat)
  /-- CORRECTED_ERROR (R405): A correctable error is corrected and counted, with a record at each power of two. -/
  | correctedError (unit : Nat)
  /-- FAULT_HALT (R398): An engine fault stops the faulting engine and halts the team's other engines. -/
  | faultHalt (slot : Nat)
  /-- HANDLER_ENTRY (R401): Once every engine has halted, the fault record is written and the team enters its handler or is killed. -/
  | handlerEntry (slot : Nat)
  /-- ASYNC_FAULT (R397): An asynchronous fault is taken at the team's next SQ instruction boundary. -/
  | asyncFault (slot : Nat)
  /-- CLUSTER_GATE (R408): The power manager gates a cluster that holds no resident team. -/
  | clusterGate (cluster : Nat)
  /-- GATED_BOUNCE (R408): A request that reaches a gated cluster bounces to its originator with GATED. -/
  | gatedBounce (origin cluster addr : Nat)
  /-- POWER_ESTIMATE_TICK (R415): Every 10 µs the power manager estimates package power and updates the budget level and the budget throttle. -/
  | powerEstimateTick (watts : Nat)
  /-- FLL_STEP (R412): An FLL moves one step towards its commanded frequency. -/
  | fllStep (unit : Nat)
  /-- BOOST_ARBITER_SAMPLE (R419): Each nanosecond the arbiter samples the requests, queues rises, lowers grants and grants the queue head. -/
  | boostArbiterSample
  /-- PERMIT_INTERVAL_END (R420): At the end of each 4 µs interval each cluster's permit count is charged or refilled. -/
  | permitIntervalEnd
  /-- BSTBUD_WRITE (R419): A write of BSTBUD sets the boost budget and withdraws the newest grants until the held units fit. -/
  | bstbudWrite (val : BitVec 64)
  /-- PWRQ_WRITE (R414): A write of PWRQ sets the level cap and the deterministic bit, which withdraws boost within 1 µs. -/
  | pwrqWrite (q : Nat) (val : BitVec 64)
  /-- SENSOR_SAMPLE (R423): Every 50 µs the sensors are sampled and the trips are asserted or deasserted. -/
  | sensorSample (readings : List (Nat × Int))
  /-- T4_POWER_REMOVE (R423): After 100 µs continuously at or above 118 °C the comparator removes module power. -/
  | t4PowerRemove
  /-- HOST_BAR2_READ (R427): A host read through BAR2 is served at the home slice, or returns all ones beyond HBM. -/
  | hostBar2Read (r : Tlp) (len : Nat)
  /-- HOST_BAR2_WRITE (R427): A host write through BAR2 is performed at the home slice without a snapshot tag. -/
  | hostBar2Write (r : Tlp) (bytes : List (BitVec 8)) (ep : Bool)
  /-- HOST_ATOMICOP (R426): An inbound PCIe AtomicOp is completed at the home slice. -/
  | hostAtomicop (r : Tlp) (size op : Nat) (a b : BitVec 64)
  /-- PEER_REQUEST (R430): An inbound port P request is checked against the peer aperture table and served or refused. -/
  | peerRequest (rid : Nat) (r : Tlp) (kind len : Nat) (bytes : List (BitVec 8)) (a b : BitVec 64)
  /-- OUTBOUND_COMPLETION (R429): A completion for an outbound read or AtomicOp arrives, or a failed one completes with poisoned all-ones data. -/
  | outboundCompletion (ix status : Nat) (bytes : List (BitVec 8))
  /-- COMPLETION_TIMEOUT (R429): An outbound non-posted request's Completion Timeout expires and it completes poisoned. -/
  | completionTimeout (ix : Nat)
  /-- LINK_DOWN (R429): A port's link goes down; outstanding requests complete poisoned and posted writes are discarded. -/
  | linkDown (port : Nat)
  /-- LINK_RETRAIN (R441): A link retrains or reduces width and a record of type 0x72 is logged. -/
  | linkRetrain (port width : Nat) (err : Option Nat)
  /-- GET_VERSION (R435): The SPDM responder answers GET_VERSION. -/
  | getVersion
  /-- GET_CAPABILITIES (R435): The SPDM responder answers GET_CAPABILITIES. -/
  | getCapabilities
  /-- NEGOTIATE_ALGORITHMS (R435): The SPDM responder answers NEGOTIATE_ALGORITHMS. -/
  | negotiateAlgorithms (offer : List Nat)
  /-- GET_DIGESTS (R435): The SPDM responder returns its certificate digests. -/
  | getDigests
  /-- GET_CERTIFICATE (R435): The SPDM responder returns the certificate chain of slot 0. -/
  | getCertificate (certSlot : Nat)
  /-- CHALLENGE (R435): The SPDM responder signs a challenge with the identity key. -/
  | challenge (nonce : BitVec 256)
  /-- GET_MEASUREMENTS (R435): The SPDM responder returns the measurement blocks of Table 19-6. -/
  | getMeasurements (index : Nat)
  /-- KEY_EXCHANGE (R435): The SPDM responder performs ECDHE key exchange for a session. -/
  | keyExchange (share : BitVec 512)
  /-- FINISH (R435): The SPDM responder completes session establishment. -/
  | finish (verify : BitVec 256)
  /-- END_SESSION (R435): The SPDM responder ends a session. -/
  | endSession
  /-- LOG_READ (R442): A vendor-defined request in a session returns Vermilion records from a start SEQ. -/
  | logRead (start count : Nat)
  /-- MARGINING_REQUEST (R440): A management request starts a lane margining run, one lane at a time. -/
  | marginingRequest (x : Lane)
  /-- MARGINING_DONE (R440): A management margining run completes and raises vector 2,044. -/
  | marginingDone
  /-- POWER_ON_START (R437): Power good starts the start-up sequence at step 1. -/
  | powerOnStart
  /-- FIRMWARE_VERIFIED (R436): The ROM finishes verifying firmware and configuration block, or the start halts. -/
  | firmwareVerified (fwSvn : BitVec 32) (fw : FwImage) (blk : CfgBlock)
  /-- SENSORS_READ (R437): Every sensor has been read and the start is judged cold or warm. -/
  | sensorsRead (rd : StackReadings)
  /-- SELF_HEAT_END (R437): Self-heat ends once every stack and die is above its threshold. -/
  | selfHeatEnd (readings : Option (List (Nat × Int)))
  /-- HBM_TRAINED (R437): HBM training of all pseudo-channels completes. -/
  | hbmTrained (ok : Bool)
  /-- PCIE_TRAINED (R437): PCIe training of ports H and P completes. -/
  | pcieTrained (ok : Bool)
  /-- SCHEDULER_STARTED (R438): The scheduler units are reset, banks cleared and READY set. -/
  | schedulerStarted (ok : Bool)
  /-- HBM_RETRAIN (R439): An HBM pseudo-channel retrains within a refresh window, on its period or after a 5 °C move. -/
  | hbmRetrain (stack chan : Nat)
  /-- DEVICE_UNIT_REPLY (R227): A device unit's reply reaches the SQ and writes the interlocked result of FALLOC, FPOLL, TKTAKE, QENQ, QDEQ, TSUB, SNAP, SRESV or SQRY. -/
  | deviceUnitReply (slot : Nat)
  /-- MARGINING_COMMAND (R440): The host drives Lane Margining at the Receiver through the standard Margining commands while the link stays in L0. -/
  | marginingCommand (port lane : Nat) (cmd : BitVec 16)
  /-- POWER_LOSS (R441): Module power is lost, which may tear a Vermilion record that is skipped on a later read, while the log keeps its contents. -/
  | powerLoss
  /-- RECORDS_SUMMARISED (R441): At the end of a one-second window, records beyond the first 64 of one type from one source are replaced by one record of type 0x7F holding the count. -/
  | recordsSummarised (type source count : Nat)
deriving DecidableEq, Repr

end Sys2Proof
end

