-- ==== Sys2Proof/Machine/State.lean ====
section
/-!
DEFINITION. Sys2Proof/Machine/State.lean: the state of the device as plain data, the reasons a step can stop, and the
machine right after reset.  A table indexed by number is a `SMap`: a list of (index, value) pairs, indices rising, in
which no entry equals the table's reset value; an index that is not listed holds the reset value.
-/
namespace Sys2Proof.Machine

/-- A sparse table: (index, value) pairs in rising order of index, unlisted indices at the table's default. -/
abbrev SMap (α : Type) := List (Nat × α)

/-- An open hardware loop (09 R196): body words `start … stop`, remaining `count`, zero-based iteration `iter`
(07 R152). -/
structure Loop where
  start : Nat
  stop : Nat
  count : Nat
  iter : Nat := 0
deriving DecidableEq, Repr

/-- RUNNING, STOPPED or ENDED (09 R214). -/
inductive EngSt where
  | running | stopped | ended
deriving DecidableEq, Repr

/-- The control state of one engine stream. -/
structure EngCtl where
  pc : Nat := 0 -- @ PC of each engine | word index | 06 R118, R120 | 0 at placement
  loops : List Loop := [] -- @ loop stack of each engine | 4 levels, innermost first | 06 R120, 09 R196 | empty at placement
  loopMark : Bool := false -- @ parity error in the loop stack | 1 | 17 Table 17-6 | clear
  st : EngSt := .running -- @ engine status | RUNNING/STOPPED/ENDED | 09 R214 | RUNNING at placement
  swpt : Option Nat := none -- @ switch point at which the engine waits | 8 bits or none | 06 R137 | none
  busy : Nat := 0 -- @ first CYCLE at which the engine may issue again | 64 | 06 R122 (repeat rate) | 0
  ready : SMap Nat := [] -- @ scoreboard: first CYCLE at which a register's reader may issue | 64 each | 06 R122, R123 | all 0
deriving DecidableEq, Repr

/-- What a load has read of one part of its bytes: the bytes and their poison, or the port request it waits for. -/
structure LandPart where
  bytes : List Byte
  mark : Bool := false
  req : Option Nat := none
  /-- the virtual address and the physical line it was read at -/
  va : Nat := 0
  ln : Nat := 0
deriving DecidableEq, Repr

/-- A global load held in the landing buffer (06 R124, 09 R199). -/
structure Landing where
  d : Nat
  pc : Nat
  /-- the named cycle of a timed load -/
  named : Option Nat
  parts : List LandPart
  /-- the data has reached the landing buffer -/
  arrived : Bool := false
  /-- size in bytes and sign extension -/
  size : Nat := 8
  sgn : Bool := false
deriving DecidableEq, Repr

/-- A device unit's reply that has not reached the SQ yet (09 R227). -/
structure Reply where
  d : Nat
  val : DWord
  mark : Bool := false
deriving DecidableEq, Repr

structure SqState where
  ctl : EngCtl := {}
  s : SMap DWord := [] -- @ s1-s63 (s0 reads zero) | 64 each | 06 R120, 09 R190 | zero at placement
  marks : SMap Nat := [] -- @ poison marks of the s registers, with the word index of the load | 1+32 each | 09 R200 | none
  landing : List Landing := [] -- @ landing buffer | 16 entries | 06 R120, R124; 09 R199 | empty at placement
  replies : List Reply := [] -- @ device-unit replies under way to the SQ | one per outstanding device word | 09 R227 | none
  setAside : List Loop := [] -- @ SQ loop stack set aside by a handler entry | 4 levels | 17 R401 | empty
deriving DecidableEq, Repr

/-- The mapping of one channel chunk c0-c7 (10 R233). -/
structure ChunkMap where
  producer : Bool
  chan : Nat
  ptr : Nat
deriving DecidableEq, Repr

/-- One field entry of the pattern table (10 R253), as its encoding holds it. -/
structure PatField where
  off : Nat
  wm1 : Nat
  sgn : Bool
deriving DecidableEq, Repr

structure VeState where
  ctl : EngCtl := {}
  v : SMap VReg := [] -- @ v0-v127 | 4,096 each | 06 R120 | zero at placement
  vMarks : List Nat := [] -- @ vector registers with an uncorrectable error | 1 each | 17 R405 | none
  k : SMap DWord := [] -- @ k0-k15 | 64 each | 06 R120 | zero at placement
  m : SMap (BitVec 1024) := [] -- @ m1-m7 (m0 reads all ones) | 1,024 each | 06 R120 | zero at placement
  x : SMap (BitVec 23) := [] -- @ x0-x15 | 23 each | 06 R120 | zero at placement
  kMarks : List Nat := [] -- @ poison marks of k registers | 1 each | 17 R405 | none
  mMarks : List Nat := [] -- @ poison marks of m registers | 1 each | 17 R405 | none
  xMarks : List Nat := [] -- @ poison marks of x registers | 1 each | 17 R405 | none
  vshape : BitVec 20 := 0 -- @ VSHAPE | 20 | 07 R148 Table 7-8 | 0
  patP : Nat := 0 -- @ pattern table header, P - 1 | 7 | 10 R253 | 0 at placement
  patF : Nat := 0 -- @ pattern table header, F - 1 | 4 | 10 R253 | 0 at placement
  pats : SMap PatField := [] -- @ pattern table field entries 0-15 | 13 each | 10 R253 | zero at placement
  ring : List VReg := [] -- @ operand ring, ring1 first (missing entries zero) | 8 x 4,096 | 10 R232 | zero at placement
  beats : List (List Nat) := [] -- @ banks of the beats that the VE's scratchpad accesses under way have still to take | lists of banks | 06 R130 | none
  chunks : SMap ChunkMap := [] -- @ chunk maps and pointers of c0-c7 | mapping + pointer each | 10 R233 | UNMAPPED at placement
deriving DecidableEq, Repr

/-- The steps of a running nest (13 R331, R338); B loads run beside them. -/
inductive MeStep where
  | pass
  | boundary
  | drain (c : Nat)      -- drain to the C tile at this local address (or the staging buffer)
  | next                 -- advance the level indices
deriving DecidableEq, Repr

/-- An outstanding nest (13 R331, R342). -/
structure Nest where
  desc : BitVec 1024
  co : Nat
  chain : Bool
  named : Option Nat
  pc : Nat
  seq : Nat
  issued : Nat
  valid : Bool := false
  /-- cycles of its validation that have passed (13 R338) -/
  vcyc : Nat := 0
  todo : List MeStep := []
  idx : List Nat := [0, 0, 0, 0, 0, 0]
  /-- first row of the step under way that has not been done (13 R342) -/
  row : Nat := 0
  flags : Nat := 0
  elpass : Nat := 0
  elplane : Nat := 0
  done : Bool := false
  /-- CYCLE in which it completed (06 R126) -/
  doneAt : Nat := 0
deriving DecidableEq, Repr

/-- What the ME holds queued, in issue order: a nest, an MCLR with its buffer mask, or MDRAIN's clear (13 R343); a clear with the
first row that it has not cleared. -/
inductive MeItem where
  | nest (n : Nest)
  | clear (mask row : Nat)
  | drop (row : Nat)
deriving DecidableEq, Repr

/-- A FULL staging buffer (13 R334): which buffer, the format and the planes of its tiles. -/
structure Staging where
  buf : Nat
  fmt : Nat
  planes : Nat
deriving DecidableEq, Repr

/-- What Table 14-2 decides for a pass: performed whole by one of the first three rules, the planes that count nothing, and the planes
of ones that column sums replace; `single` says that no plane is read, and the pass is one array step (14 R355). -/
structure Elision where
  single : Bool := false
  whole : Bool := false
  ident : Bool := false
  zero : List Nat := []
  ones : List Nat := []
deriving DecidableEq, Repr

/-- A B load under way (13 R338, R457): the nest whose pass takes the tile, its address, bytes of a weight, the record base and kb of
the scales it reads, and the cycles it has run. -/
structure MeLoad where
  seq : Nat
  addr : Nat
  size : Nat
  scale : Option (Nat × Nat) := none
  cyc : Nat := 0
deriving DecidableEq, Repr

structure MeState where
  ctl : EngCtl := {}
  shadow : BitVec 1024 := 0 -- @ nest shadow descriptor | 1,024 | 13 R330 | zero at placement
  queue : List MeItem := [] -- @ outstanding nests and queued MCLRs | up to 4 nests | 06 R120, 13 R331, R343 | none at placement
  seq : Nat := 0 -- @ MGO count (SEQ) | 32 | 13 R336 | 0
  acc0 : SMap (BitVec 32) := [] -- @ accumulator buffer 0, element 512 m + n | 128 x 512 x 32 | 13 R327 | zero at placement
  acc1 : SMap (BitVec 32) := [] -- @ accumulator buffer 1 | 128 x 512 x 32 | 13 R327 | zero at placement
  accMark0 : Bool := false -- @ poison mark of buffer 0 | 1 | 13 R340 | clear
  accMark1 : Bool := false -- @ poison mark of buffer 1 | 1 | 13 R340 | clear
  srp : Option Nat := none -- @ chain state: record base srp | 23 or none | 13 R328 | none
  kb : Nat := 0 -- @ chain state: passes since srp was set | 7 | 13 R328 | 0
  bCur : SMap (BitVec 16) := [] -- @ array cells, weight 512 k + n | 256 x 512 x 16 | 13 R323 | DESIGN CHOICE 0 (log 5)
  bShadow : SMap (BitVec 16) := [] -- @ shadow array cells | 256 x 512 x 16 | 13 R323 | DESIGN CHOICE 0 (log 5)
  colCur : SMap (BitVec 24) := [] -- @ column sums of the array cells, ColumnSum(W, n, b) at 4 n + b | 2,048 x 22 | 13 R324 | DESIGN CHOICE 0 (log 5)
  colShadow : SMap (BitVec 24) := [] -- @ column sums of the shadow cells | 2,048 x 22 | 13 R324 | DESIGN CHOICE 0 (log 5)
  bMark : Bool := false -- @ a beat of the tile in the array was poisoned | 1 | 13 R340 | clear
  shMark : Bool := false -- @ a beat of the tile in the shadow cells was poisoned | 1 | 13 R340 | clear
  cur : Option (Nat × Nat) := none -- @ tile in the array: nest and address | SEQ, 23 or none | 13 R323, R331 | none
  next : Option (Nat × Nat) := none -- @ tile in the shadow cells: nest and address | SEQ, 23 or none | 13 R323, R331 | none
  load : Option MeLoad := none -- @ B load under way | address, scales, cycles or none | 13 R338, R457 | none
  begun : Bool := false -- @ an array step is under way | 1 | 13 R338 | clear
  at_ : Nat := 0 -- @ cycles that the array step has run | count | 13 R338 | 0
  dur : Nat := 0 -- @ cycles that it takes | count | 13 Table 13-8 | 0
  row0 : Nat := 0 -- @ row at which it began | 7 | 13 R342 | 0
  el : Elision := {} -- @ elision decision of the pass under way | Table 14-2 | 14 R352, R355 | none
  nld : Option (Nat × Nat) := none -- @ cycle and bank of the second beat of an NLD | cycle, bank or none | 13 R457 | none
  staging : Option Staging := none -- @ staging buffer state | EMPTY or FULL with format | 13 R334 | EMPTY
  stTile : SMap Byte := [] -- @ staging tiles (tile h at 65,536 h) and strips (at 131,072 + 1,024 h) | bytes | 13 R334 | zero
  part : SMap Nat := [] -- @ buffers that hold an F32 chain's PART, with its ACCB | 1 each | 13 R329, R335 step 9 | none
  hold : Option Nat := none -- @ cycles left of the ME's part of a switch | 11 or none | 04 R88 | none
deriving DecidableEq, Repr

/-- The kind of a TU or GQ job (11 R272, 12 Table 12-10). -/
inductive JobKind where
  | xgo | xmc | xconv | xdec | xgath | xscat | xpushr | lpop | lpeek | gfetch | gshift | gpool | gdone
deriving DecidableEq, Repr

/-- An outstanding TU or GQ job (11 R266): its descriptor copy, completion object, named cycle, word index, number, entry
register, elements already moved, the (GANGIX, slot) pairs a push has claimed and how many of them it has filled, the
formats of its sides as its go-word read them, the entry it acts on or returns, whether it has completed and in which CYCLE; CYCLE of its
go-word, whether its first request has gone out, the beats of its local sides that have been served and the cycles it has worked
(Table 11-8); and the elements that XGATH has read, by index and place in the row (R275). -/
structure TuJob where
  kind : JobKind
  desc : BitVec 512
  co : Nat
  named : Option Nat
  pc : Nat
  seq : Nat
  ent : Nat
  moved : Nat := 0
  claim : List (Nat × Nat) := []
  filled : Nat := 0
  sfv : Nat := 0
  dfv : Nat := 0
  res : BitVec 128 := 0
  done : Bool := false
  doneAt : Nat := 0
  issued : Nat := 0
  begun : Bool := false
  rd : Nat := 0
  wr : Nat := 0
  work : Nat := 0
  seen : SMap (Nat × Bool) := []
deriving DecidableEq, Repr

structure TuState where
  ctl : EngCtl := {}
  shadow : BitVec 512 := 0 -- @ descriptor shadow of TU0, TU1, GQ | 512 each | 06 R120, 11 R262 | zero at placement
  jobs : List TuJob := [] -- @ outstanding jobs of TU0, TU1, GQ, oldest first | up to 8 each | 06 R120, 11 R266 | none at placement
  count : Nat := 0 -- @ go-words since placement | 32 | 17 Table 17-3 SEQ | 0
  ent : SMap (BitVec 128) := [] -- @ entry registers e0-e7 (GQ) | 128 each | 12 R310 | zero at placement
  iterPops : List (Nat × Nat) := [] -- @ LPOPs of the current loop iterations not yet written: loop depth, job number (GQ) | list | 12 R312 | none
  iterEnd : List Nat := [] -- @ loop depths at which an LPOP of the current iteration returned END or ABORT (GQ) | list of 1-4 | 12 R312 | none
  loopWait : Bool := false -- @ the end word of a loop has issued and waits for its LPOPs (GQ) | 1 | 12 R312 | clear
deriving DecidableEq, Repr

/-- Channel state of a team (06 R131). -/
structure Chan where
  p : Nat := 0
  c : Nat := 0
  full : List Nat := []
  /-- the full bits at the end of the previous cycle, which waits and advances see (06 R133) -/
  shown : List Nat := []
  /-- P and C at the end of the previous cycle, which CHST shows (09 R212) -/
  shownP : Nat := 0
  shownC : Nat := 0
deriving DecidableEq, Repr

inductive DClass where
  | gen | zero | const | ident
deriving DecidableEq, Repr

/-- A tile directory entry (14 R344, Table 9-5). -/
structure DEntry where
  cls : DClass := .zero
  value : BitVec 32 := 0
  special : Bool := false
  poison : Bool := false
deriving DecidableEq, Repr

/-- What one job, drain or fill has written of a dtile since another write last landed there (14 R348): who writes (slot, engine, number),
the dtile, the runs of bytes written as (first, end) pairs, whether it wrote a special element, and the beats it wrote poisoned. -/
structure Cover where
  key : Nat × Nat × Nat
  dt : Nat
  runs : List (Nat × Nat)
  special : Bool := false
  bad : List Nat := []
deriving DecidableEq, Repr

/-- Load block of a team (09 R209-R211): its physical lines, its completion flag, whether it was evicted. -/
structure Block where
  /-- (physical line, virtual line address) of each line -/
  lines : List (Nat × Nat)
  /-- TIME of the declaration: blocks are evicted earliest declared first -/
  decl : Nat := 0
  flag : Bool := false
  evicted : Bool := false
deriving DecidableEq, Repr

structure ChanDecl where
  gt : Bool
  ct : Bool
  rpush : Bool
  slots : Nat
  slotBytes : Nat
  base : Nat
deriving DecidableEq, Repr

structure BarDecl where
  gt : Bool
  ct : Bool
  exp : Nat
  addr : Nat
deriving DecidableEq, Repr

structure Window where
  base : Nat
  size : Nat
  bound : Bool
deriving DecidableEq, Repr

/-- What a cycle asks of a barrier object (06 R135, 09 R213). -/
inductive BarStep where
  | expect (n : Int)
  | land (n : Nat)
  | arrive
  | init
deriving DecidableEq, Repr

/-- The device's copy of a launch header and its tables (02 R21, Table 2-4). -/
structure Kernel where
  kind : Nat := 0
  hnd : Bool := false
  kernid : BitVec 32 := 0
  code : Nat := 0
  sect : List (Nat × Nat) := []
  width : List Nat := []
  lattr : List Nat := []
  ext : List Nat := []
  vregs : Nat := 0
  nbank : Nat := 0
  gnbank : Nat := 0
  nvar : Nat := 1
  nswpt : Nat := 0
  handler : Nat := 0
  banks : List (BitVec 26) := []
  chans : List ChanDecl := []
  bars : List BarDecl := []
  wins : List Window := []
  vars : List (List Nat) := []
deriving DecidableEq, Repr

/-- Where a team stands (04 R82, R85, R91): loading its kernel slot or banks, resident, being swapped. -/
inductive Residence where
  | resident | swappingOut | swapped | swappingIn
deriving DecidableEq, Repr

inductive FStateName where
  | free | empty | pending | ready | error | cancelled
deriving DecidableEq, Repr

/-- What a handler entry sets aside of the word it interrupts (17 R401): the word, the progress of a stopped TDSCAN or cache
word (09 R224, R225), the state and value at which its wait was woken (03 R71). -/
structure Aside where
  pc : Nat
  scan : Option Nat
  woke : Option (FStateName × DWord)
deriving DecidableEq, Repr

/-- A wait that parks a team (04 Table 4-2). -/
inductive Park where
  | future (idx : Nat)
  | ticket (n : Nat) (t : BitVec 32)
  | pwait
deriving DecidableEq, Repr

/-- A fault that has been reached but not yet taken (17 R397-R399). -/
structure PendFault where
  cause : Cause
  eng : Nat
  operand : Nat := 0
  field : Nat := 0xFF
  code : Nat := 0
  pc : Nat := 0
  addr : DWord := 0
  info : Nat := 0
  seq : Nat := 0
  idx : List Nat := [0, 0, 0, 0, 0, 0]
  row : Nat := 0
  count : Nat := 0
  async : Bool := false
  multi : Bool := false
  /-- CYCLE at which the engine reached it -/
  cyc : Nat := 0
deriving DecidableEq, Repr

/-- A team (02 R41-R44, 04 R82, 06 Table 6-1). -/
structure Team where
  slot : Nat := 0 -- @ team slot number | 11 | 02 R26 | set at placement
  tid : Nat := 0 -- @ task of the team | window entry | 03 R59 | set at placement
  teamix : Nat := 0 -- @ TEAMIX | 64 | 02 R42, 07 Table 7-13 | R42
  gangix : Nat := 0 -- @ GANGIX | 64 | 02 R44, 07 Table 7-13 | R44
  wid : DWord := 0 -- @ WID | 64 | 02 R41, 07 Table 7-13 | team's WID
  gang : List Nat := [] -- @ slots of the team's gang by GANGIX | up to 16 | 02 R43, R44 | set at placement
  gather : Bool := false -- @ gather team | 1 | 02 R30 | set at placement
  asid : Nat := 0 -- @ ASID of the team | 12 | 03 R47 | set at placement
  queue : Nat := 0 -- @ queue of the team | 9 | 03 R47 | set at placement
  tag : BitVec 32 := 0 -- @ TAG of the task record | 32 | 02 Table 2-2, 17 Table 17-4 | set at placement
  k : Kernel := {} -- @ the team's copy of header and tables (KERNID, HANDLER, tables) | records | 02 R21, Table 2-4 | set at placement
  res : Residence := .resident -- @ residence | state | 04 R82, R91 | set at placement
  banksReady : Bool := true -- @ banks of the team cleared | 1 | 14 R345 | set at placement
  park : Option Park := none -- @ parked wait | wait or none | 04 R87 | none
  woke : Option (FStateName × DWord) := none -- @ state and value of the future at which the parked wait was woken (FREE: freed) | state + 64 or none | 03 R71 | none
  aside : Option Aside := none -- @ progress and woken value set aside by a handler entry | record or none | 17 R401, 09 R224, R225 | none
  leaving : Bool := false -- @ a switch waits for the reads in flight of the team | 1 | 04 R87, R89 | clear
  image : Nat := 0 -- @ offset of the team's image in the swap pool | 40 | 04 R91 | set at swap-out
  halted : Bool := false -- @ team halted | 1 | 04 R94 | clear
  preempt : Bool := false -- @ pre-emption requested | 1 | 04 R94, R95 | clear
  kill : Option Nat := none -- @ kill requested, with the class and detail of the task's result | 32 or none | 17 R403, 03 R78, R80 | none
  cycle : Nat := 0 -- @ CYCLE | 64 | 06 Table 6-5 | 0 at placement
  status : DWord := 0 -- @ STATUS | 64 | 07 Table 7-13 | 0
  faults : List DWord := [0, 0, 0, 0, 0, 0, 0, 0] -- @ FAULT0-FAULT7 | 64 each | 07 Table 7-13, 17 R399 | 0
  variant : Nat := 0 -- @ VARIANT | 64 | 07 Table 7-13, 02 R40 | 0
  swptVar : Option Nat := none -- @ variant selected for the switch-point switch under way | 8 bits or none | 06 R137 | none
  boost : BitVec 4 := 0 -- @ BOOSTREQ.STEPS | 4 | 18 R417 | 0
  epc : DWord := 0 -- @ EPC | 64 | 07 Table 7-13, 17 R401 | 0
  inHandler : Bool := false -- @ handler running | 1 | 17 R401, R402 | clear
  errored : Bool := false -- @ a fault has been taken since placement (kill by EXIT with error) | 1 | 17 R403 | clear
  halting : Option PendFault := none -- @ fault recorded, handler not entered yet | record | 17 R398, R401 | none
  pend : Option PendFault := none -- @ fault reached and not yet taken | record | 17 R398, R404 | none
  chans : SMap Chan := [] -- @ channel indices P, C and full bits (now, and at the end of the previous cycle) of ch0-ch15 | 6+6+64 each | 06 R131, R133, 02 R35 | empty, 0 at placement
  barSteps : List (BarDecl × BarStep) := [] -- @ what the cycle under way asks of barrier objects | list | 06 R135 | none
  sp : SMap Byte := [] -- @ scratchpad bytes of the team's banks (barrier objects among them) | 8 MiB core, 2 MiB gather | 02 R34, 11 R255 | zero (14 R345), objects as 02 R37
  spMarks : List Nat := [] -- @ poisoned 64-byte scratchpad beats | 1 per beat | 17 R406 | none
  fmts : SMap (BitVec 26) := [] -- @ bank format registers | 26 each | 11 R255 Table 11-1 | bank table (02 R33)
  dirs : SMap DEntry := [] -- @ tile directory entries of the team's dtiles | 36 each | 14 R344 | ZERO (14 R345)
  covers : List Cover := [] -- @ dtiles that a job is covering: what it has written of each | list | 14 R348 | none
  wIssued : Nat := 0 -- @ write-drain count: writes issued | 64 (low 32 in STAMP) | 03 R57 | 0
  posted : List Nat := [] -- @ ports that hold writes of the team for which no flushing read has been sent | ports | 15 R368 | none
  flushing : List Nat := [] -- @ ports on which a flushing read of the team is outstanding | ports | 15 R368 | none
  flushSent : Bool := false -- @ the SQ's word at system scope has sent its flushing reads | 1 | 15 R368 | clear
  waitDrain : Option Nat := none -- @ count a drain-waiting word waits for | 64 or none | 03 R57, 09 R219 | none
  blocks : SMap Block := [] -- @ load blocks and completion flags 0-31 | lines + flag each | 09 R209-R211 | none
  pstarted : Bool := false -- @ PSTART executed | 1 | 04 R96 | clear
  pwaited : Bool := false -- @ PWAIT completed once | 1 | 04 R97 | clear
  scanDt : Option (Nat × Bool) := none -- @ dtile that a TDSCAN is reading, and whether a write has landed in it meanwhile | 11 + 1 bits or none | 09 R224 | none
  scan : Option Nat := none -- @ progress of a halted TDSCAN, CWB, CINV or CWBI | 11 bits or none | 09 R224, R225 | none
  exiting : Option Bool := none -- @ EXIT under way, with its error bit | 1+1 | 09 R215 | none
  issueTime : Nat := 0 -- @ time issued since last made resident, ns | 64 | 04 R92 | 0
  since : Nat := 0 -- @ TIME at which the team last became resident | 64 | 04 R92 | set at placement
  issuedAt : Nat := 0 -- @ TIME from which the team's quantum of issue runs | 64 | 04 R87 | set when issuing
  lastCharge : Nat := 0 -- @ TIME at which occupancy was last charged | 64 | 03 R67 | set when issuing
  dropping : Nat := 0 -- @ count of writes dropped for SHADOWFULL | 32 | 16 R395 | 0
  dropRg : Nat := 0 -- @ region whose tagged writes the team drops while the count is not 0 | 8 | 16 R395 | 0
  ports : List Nat := [] -- @ banks whose port has served a beat in the cycle under way | set of banks | 06 R130 | none
  tdSlot : Bool := false -- @ slot context poisoned | 1 | 17 R405 | clear
  sq : SqState := {}
  ve : VeState := {}
  me : MeState := {}
  tu0 : TuState := {}
  tu1 : TuState := {}
  gq : TuState := {}
deriving DecidableEq, Repr

/-- One engine's section in an instruction store slot (02 R31): size in words, and the words. -/
structure Section where
  size : Nat := 0
  words : SMap Word := []
deriving DecidableEq, Repr

/-- A KTT entry (05 Table 5-5). -/
structure KttEntry where
  va : Nat
  log2 : Nat
  pa : Nat
  r : Bool
  w : Bool
  order : Nat
  l1c : Bool
  sreg : Option Nat := none
  rev : Bool := false
  /-- some leaf of the entry is global (05 R103, R113) -/
  g : Bool := false
deriving DecidableEq, Repr

/-- A kernel slot of a core or gather core (04 R85, 05 R106). -/
structure KSlot where
  tid : Nat
  loaded : Bool := false
  sects : List Section := []
  ktt : List KttEntry := []
  bad : List (Nat × Nat) := []
deriving DecidableEq, Repr

/-- An L1 line (11 R260, 15 R364): its bytes, per-byte dirty mask, owner set, poison of its two granules, and the
writes (slot, number in the write-drain count) it holds. -/
structure L1Line where
  data : BitVec 1024 := 0
  dirty : BitVec 128 := 0
  owners : List Nat := []
  marks : BitVec 2 := 0
  order : Nat := 1
  asid : Nat := 0
  va : Nat := 0
  /-- (ASID, virtual line address) of the tagged stores since the last write-back (16 R383) -/
  tags : List (Nat × Nat) := []
  writes : List (Nat × Nat) := []
deriving DecidableEq, Repr

/-- A line of a gather core's row cache (12 R310), with the poison of its two granules. -/
structure RowLine where
  ln : Nat
  data : BitVec 1024
  marks : BitVec 2
deriving DecidableEq, Repr

/-- A core (0-63) or gather core (64-79). -/
structure Core where
  ks0 : Option KSlot := none -- @ kernel slot 0: instruction store and KTT bank | 512 KiB + 256 x 128 | 04 R85, 05 R106 | free
  ks1 : Option KSlot := none -- @ kernel slot 1 | 512 KiB + 256 x 128 | 04 R85, 05 R106 | free
  issuing : Option Nat := none -- @ issuing team of the core | slot or none | 04 R82, R87 | none
  incoming : Option Nat := none -- @ incoming team of a switch under way | slot or none | 04 R88 | none
  last : Nat := 15 -- @ slot number after which the next ready team is sought | 4 | 04 R87 | DESIGN CHOICE 15 (log 5)
  l1 : SMap L1Line := [] -- @ L1 data cache lines | 12,288 x 128 bytes | 11 R260, 15 R364 | DESIGN CHOICE empty (log 5)
  rows : List RowLine := [] -- @ row cache of a gather core, most recently used line first | 2,048 x 128 bytes | 12 R310 | DESIGN CHOICE empty (log 5)
  fenced : Bool := false -- @ core isolated by a fence | 1 | 17 R410 | clear
  at_ : Nat := 0 -- @ TIME from which the issuing team issues (the end of a switch) | 64 | 04 R88 | 0
deriving DecidableEq, Repr

/-- A beat of a cluster window on its way to its targets (11 R280), with the cycle of the cluster in which it lands. -/
structure WinBeat where
  due : Nat := 0
  src : Nat
  eng : Nat
  seq : Nat
  targets : List Nat
  la : Nat
  bytes : List Byte
  mark : Bool
  lastBeat : Bool
deriving DecidableEq, Repr

/-- A clock domain: clusters 0-15, gather cores 16-31 (18 R411-R422). -/
structure Clk where
  at_ : Nat := 0 -- @ TIME at which the domain's next cycle begins | 64 | model's own (log 7) | DESIGN CHOICE 0 (log 7)
  frac : Nat := 0 -- @ phase of the domain's clock against TIME | below 83 | 18 R411 (model's own) | DESIGN CHOICE 0 (log 7)
  cyc : Nat := 0 -- @ cycles of the domain that were not frozen | count | 11 R280 (model's own) | DESIGN CHOICE 0 (log 7)
  cmd : Nat := 52 -- @ commanded FLL step, before the budget fall lowers it | 7 | 18 R411, R420 | 52 (nominal)
  next : Nat := 0 -- @ TIME from which the FLL may move again | 64 | 18 R412 | 0
  step : Nat := 52 -- @ CLKSTAT.STEP | 7 | 18 Table 18-3 | 52
  armed : Bool := true -- @ CLKSTAT.ARMED (clusters) | 1 | 18 Table 18-3 | 1
  permits : Nat := 64 -- @ CLKSTAT.PERMITS (clusters) | 8 | 18 Table 18-3 | 64
  grant : Nat := 0 -- @ boost steps granted | 4 | 18 R419 | 0
  req : Nat := 0 -- @ request seen at the last arbiter sample | 4 | 18 R419 | 0
  above : Bool := false -- @ commanded step stood above nominal in this interval | 1 | 18 R420 | clear
  stepDown : Bool := false -- @ this interval is the step-down interval | 1 | 18 R421 | clear
  run : Nat := 0 -- @ consecutive intervals at or below nominal | count | 18 R420 | 0
  cap : Nat := 66 -- @ step at which the budget fall holds the clock, 66 when it holds nothing down | 7 | 18 R416 | 66
  freeze : DWord := 0 -- @ FREEZE | 64 | 06 Table 6-5 | 0
  frozen : Bool := false -- @ cluster or gather core frozen | 1 | 06 R126, R127 | clear
  refusing : Bool := false -- @ cluster refuses new requests of the fabric, on its way to be power-gated | 1 | 17 R408 | clear
  gated : Bool := false -- @ cluster power-gated | 1 | 17 R408 | clear
  windows : List WinBeat := [] -- @ window beats under way (8 window slots per cluster) | 64-byte beats | 11 R280 | none
deriving DecidableEq, Repr

inductive QStateName where
  | disabled | active | teardown | broken
deriving DecidableEq, Repr

/-- A queue and its registers (03 Tables 3-2 to 3-5, 18 Table 18-1). -/
structure Queue where
  qcba : DWord := 0 -- @ QCBA | 64 | 03 R50 | 0
  quant : BitVec 16 := 0 -- @ QCFG.QUANT | 16 | 03 Table 3-2 | 0
  quantNow : BitVec 16 := 0 -- @ QUANT in effect since the queue's last placement decision | 16 | 03 R51 | 0
  weight : BitVec 8 := 1 -- @ QCFG.WEIGHT | 8 | 03 Table 3-2 | 1
  cls : BitVec 2 := 3 -- @ QCFG.CLASS | 2 | 03 Table 3-2 | 3
  clsNow : BitVec 2 := 3 -- @ CLASS in effect since the queue's last placement decision | 2 | 03 R51 | 3
  asid : BitVec 12 := 0 -- @ QCFG.ASID | 12 | 03 Table 3-2 | 0
  tf : BitVec 20 := 1000 -- @ QWDT.TF | 20 | 03 Table 3-3 | 1,000
  tk : BitVec 20 := 1000 -- @ QWDT.TK | 20 | 03 Table 3-3 | 1,000
  tp : BitVec 20 := 0 -- @ QWDT.TP | 20 | 03 Table 3-3 | 0
  drops : BitVec 32 := 0 -- @ QCTL.DROPS | 32 | 03 Table 3-4 | 0
  st : QStateName := .disabled -- @ QCTL.STATE | 4 | 03 Table 3-4 | 0 DISABLED
  en : Bool := false -- @ QCTL.EN | 1 | 03 Table 3-4 | 0
  watch : Option Nat := none -- @ watched line | physical line or none | 03 R53 | none
  wake : Bool := false -- @ a write has landed in the watched line | 1 | 03 R53 | clear
  dc : Int := 0 -- @ DC[q], deficit in core-ns | signed | 03 R66 | DESIGN CHOICE 0 (log 5)
  resetting : Bool := false -- @ the teardown under way was started by RESET | 1 | 03 Table 3-5 | clear
  unread : Bool := false -- @ teardown step 1 could not read the block | 1 | 03 R79 | clear
  notes : List (BitVec 32) := [] -- @ futures noted at teardown step 1 | handles | 03 Table 3-8 | none
  prev : Option Nat := none -- @ last task of the queue that entered the window | task or none | 03 R61 | none
  irq : Bool := false -- @ QFLAGS.IRQ as the queue manager last validated it | 1 | 03 Table 3-1, R49 | 0
  lvlcap : BitVec 2 := 0 -- @ PWRQ.LVLCAP | 2 | 18 Table 18-1 | 0
  lvlNow : BitVec 2 := 0 -- @ LVLCAP in effect since the queue's last placement decision | 2 | 18 R414 | 0
  det : Bool := false -- @ PWRQ.DET | 1 | 18 Table 18-1 | 0
deriving DecidableEq, Repr

/-- A future table entry (03 R69, Table 3-6).  Its list of waiters is the teams whose `park` names the entry and the tasks
whose `waits` name it: each is kept once, there. -/
structure Future where
  gen : BitVec 16 := 1 -- @ future generation | 16 | 03 R69, 19 R438 | 1
  asid : Option Nat := none -- @ future owner | 12 or none | 03 R69, 19 R438 | none
  st : FStateName := .free -- @ future state | Table 3-6 | 03 R70, 19 R438 | FREE
  value : DWord := 0 -- @ future value | 64 | 03 R69 | DESIGN CHOICE 0 (log 5)
deriving DecidableEq, Repr

/-- A ticket dispenser (03 R74). -/
structure Ticket where
  en : Bool := false -- @ dispenser enable | 1 | 03 R74, 19 R438 | 0
  asid : BitVec 12 := 0 -- @ dispenser ASID | 12 | 03 R74, 19 R438 | 0
  next : BitVec 32 := 0 -- @ NEXT | 32 | 03 R74, 19 R438 | 0
  serve : BitVec 32 := 0 -- @ SERVE | 32 | 03 R74, 19 R438 | 0
deriving DecidableEq, Repr

structure Region where
  base : Nat
  len : Nat
  r : Bool
  w : Bool
deriving DecidableEq, Repr

/-- How an engine job or a task ended. -/
inductive JobEnd where
  | ok (v : DWord)
  | err (cause detail : Nat)
  /-- stopped at an element boundary, or killed, by the watchdog or a teardown (03 R78, R80) -/
  | stopped
  /-- its engine was fenced and an access cancelled (17 R410) -/
  | fenced
deriving DecidableEq, Repr

/-- A task in the resolver's window (03 R59-R63). -/
structure Task where
  id : Nat := 0
  queue : Nat := 0
  asid : Nat := 0
  typ : Nat := 0
  tflags : BitVec 16 := 0
  tag : BitVec 32 := 0
  regions : List Region := []
  resfut : Option (BitVec 32) := none
  /-- waited futures that have not been READY since the record was admitted (03 R61, R71) -/
  waits : List (BitVec 32) := []
  /-- value of the failed waited future that decides the task (03 R61) -/
  waitFail : Option DWord := none
  arg0 : DWord := 0
  arg1 : DWord := 0
  stamp : Option (Nat × Nat) := none
  stampTid : Nat := 0
  stampIx : Nat := 0
  edges : List (Nat × Bool) := []
  ordered : Option Nat := none
  desc : List Byte := []
  k : Option Kernel := none
  ktt : List KttEntry := []
  placed : List Nat := []
  exited : List Nat := []
  slots : List Nat := []
  groups : SMap Nat := []
  started : Bool := false
  startTime : Nat := 0
  early : Bool := false
  fail : Option (BitVec 32) := none
  exitErr : Bool := false
  stop : Option Nat := none
  jobEnd : Option JobEnd := none
  stage : Nat := 0
  /-- what an engine job has read of its plan, its elements, how many of them it has done, and its counts so far -/
  held : List Byte := []
  total : Nat := 0
  moved : Nat := 0
  sum : Nat := 0
  ring : Option Nat := none
  wdStage : Nat := 0
  wdSlots : List Nat := []
  wdUnits : List Nat := []
  forced : List Nat := []
  haltAt : Nat := 0
  forcedAt : Nat := 0
  cancelled : Option (BitVec 32) := none
deriving DecidableEq, Repr

/-- A ring slot whose record TSUB wrote with STAMPED: its physical address, the submitting team's slot, task and TEAMIX, the stamp, and
whether the team was killed before the stamped writes had drained (02 R26, 03 R56-R58). -/
structure StampRec where
  at_ : Nat
  slot : Nat
  tid : Nat
  tix : Nat := 0
  cnt : Nat
  dead : Bool := false
deriving DecidableEq, Repr

/-- A TLB entry of a device engine: one translation of Walk (05 R102, R104). -/
structure TlbEntry where
  asid : Nat
  global : Bool
  va : Nat
  size : Nat
  pa : Nat
  r : Bool
  w : Bool
  order : Nat
  l1c : Bool
  snapok : Bool
deriving DecidableEq, Repr

/-- A walker's cached non-leaf entry (05 R105): table at `level` reached for the VA prefix. -/
structure WalkEntry where
  asid : Nat
  level : Nat
  pre : Nat
  pa : Nat
deriving DecidableEq, Repr

/-- An invalidation command under way (05 R113). -/
structure InvCmd where
  asid : Nat
  all : Bool
  lo : Nat
  hi : Nat
  irq : Bool
deriving DecidableEq, Repr

/-- A snapshot level (16 R382). -/
structure SnapLevel where
  gen : BitVec 16
  resv : Nat := 0
  saved : Nat := 0
  lost : Bool := false
  queue : Nat := 0
  tid : Nat := 0
  /-- physical line number ↦ shadow slot that holds the level's version -/
  vers : SMap Nat := []
deriving DecidableEq, Repr

/-- A snapshot region of an ASID (16 R381): generation counter and open levels, outermost first. -/
structure SnapRegion where
  gen : BitVec 16 := 1 -- @ snapshot region generation counter | 16 | 16 R381, 19 R438 | 1
  levels : List SnapLevel := [] -- @ open levels: generation, reservation, SAVED, LOST, queue, versions | up to 4 | 16 R382, R384 | none open (19 R438)
deriving DecidableEq, Repr

/-- A shadow slot in use (16 R380): the line's 128 bytes and granule marks. -/
structure ShadowSlot where
  asid : Nat
  data : BitVec 1024
  marks : BitVec 2
deriving DecidableEq, Repr

/-- Background work of one reject or accept point (16 R456): slots to free. -/
structure RestWork where
  asid : Nat
  slots : List Nat
deriving DecidableEq, Repr

/-- The per-ASID registers (05 Table 5-1, 16 Tables 16-1 to 16-3). -/
structure AsidRegs where
  ptroot : DWord := 0 -- @ PTROOT[asid] | 64 | 05 Table 5-1 | 0
  ptroot' : DWord := 0 -- @ PTROOT in effect (since the last whole-ASID acknowledgement) | 64 | 05 R99 | 0
  snrtab : DWord := 0 -- @ SNRTAB[asid] | 64 | 16 Table 16-1 | 0
  snpbase : DWord := 0 -- @ SNPBASE[asid] | 64 | 16 Table 16-2 | 0
  snpsize : DWord := 0 -- @ SNPSIZE[asid] | 64 | 16 Table 16-3 | 0
deriving DecidableEq, Repr

/-- A codec context (12 R289). -/
structure Codec where
  en : Bool := false -- @ CODECCTX enable | 1 | 12 R289, 19 R438 | disabled
  asid : BitVec 12 := 0 -- @ CODECCTX ASID | 12 | 12 R289 | DESIGN CHOICE 0 (log 5)
  started : Bool := false -- @ the context has state (a previous job) | 1 | 12 R289, 19 R438 | state discarded
  pool : Nat := 0 -- @ POOL, SLOTB and PITCH of the context's previous job | 57+32+16 | 12 R289 | 0
  slotb : Nat := 0
  pitch : Nat := 0
  refs : BitVec 16 := 0 -- @ slots the context holds as references | 16 | 12 R289 | none
  frames : SMap (Nat × Nat × Nat) := [] -- @ slot → width, height and bytes per sample of the frame last decoded into it | 16 frames | 12 R289 | none
  dec : Nat := 0 -- @ decode jobs of the context so far (names the free decoding results) | count | model's own (log 12) | DESIGN CHOICE 0 (log 12)
deriving DecidableEq, Repr

/-- A write on its way to its home slice or port (03 R57, 15 R359, R368). -/
structure PWrite where
  slot : Option Nat
  tid : Nat
  /-- TEAMIX of the team -/
  tix : Nat := 0
  eng : Nat
  pc : Nat
  seq : Nat
  asid : Nat
  va : Nat
  pa : Nat
  bytes : List Byte
  mark : Bool := false
  tagged : Bool := false
  order : Nat := 1
  /-- its number in the team's write-drain count -/
  num : Nat := 0
  /-- bytes of each part of it that is single-copy atomic, 0 for the whole (15 R361) -/
  unit : Nat := 0
deriving DecidableEq, Repr

/-- An atomic or reduction on its way to its home slice (15 R370, R371).  `op` numbers ATOM 0-8, CAS 16, RED 32-41. -/
structure PAtom where
  slot : Nat
  tid : Nat
  tix : Nat := 0
  pc : Nat
  seq : Nat
  asid : Nat
  va : Nat
  pa : Nat
  op : Nat
  size : Nat
  a : DWord
  b : DWord
  d : Option Nat
  tagged : Bool
  recalled : Bool := false
  acq : Bool := false
  scope : Nat := 0
  /-- a reduction's number in the team's write-drain count -/
  num : Nat := 0
deriving DecidableEq, Repr

/-- A non-posted request outstanding on a port (19 R429): port 0 is H, 1 is P. -/
structure OutReq where
  id : Nat
  port : Nat
  slot : Nat
  addr : Nat
  len : Nat
  /-- the virtual address of the access -/
  va : Nat := 0
  /-- the register an ATOM or CAS writes; a load writes through its landing entry -/
  d : Option Nat
  op : Nat := 99
  a : DWord := 0
  b : DWord := 0
  /-- word index of an atomic -/
  pc : Nat := 0
  /-- it acts as an acquire at cluster scope or wider when it completes -/
  acq : Bool := false
  /-- later accesses to SO and RC pages wait for it (15 R363) -/
  hold : Bool := false
  /-- the kind of the page -/
  order : Nat := 1
  /-- TIME at which it was sent -/
  sent : Nat := 0
deriving DecidableEq, Repr

/-- A Vermilion record (19 Table 19-9); the payload's fields in the order the spec lists them. -/
structure LogRec where
  seq : Nat
  time : DWord
  boot : BitVec 16
  typ : Nat
  sev : Nat
  payload : List Nat
  /-- its CRC field, as the difference (exclusive or) from the CRC of its bytes -/
  tear : BitVec 32 := 0
deriving DecidableEq, Repr

/-- What the host or a peer receives from the device: a completion, a message of the management path. -/
inductive OutMsg where
  | data (bytes : List Byte) (ep : Bool)       -- completion with data of a BAR2 or port P read or AtomicOp
  | reg (v : DWord)                            -- completion of a BAR0 read
  | unsupported                                -- Unsupported Request
  | spdm (via code : Nat) (payload : List Nat) -- an SPDM response, over the transport of its request
  | log (via : Nat) (recs : List (List Byte)) (newest : Nat) -- a LOG_READ response: records of 64 bytes
  | portWrite (port addr : Nat) (bytes : List Byte) (mark : Bool) -- a posted write sent on a port
  | portRead (port addr len : Nat)             -- a non-posted read sent on a port
  | portAtomic (port addr op : Nat) (a b : DWord)
deriving DecidableEq, Repr

/-- The power manager and the thermal ladder (18). -/
structure Power where
  budget : Nat := 0 -- @ budget level B | 2 | 18 R415 | 0
  overT : Nat := 0 -- @ time the estimate has exceeded 1,100 W without a break, us | count | 18 R415 | 0
  underT : Nat := 0 -- @ time the estimate has stayed below 1,000 W without a break, us | count | 18 R415 | 0
  estAt : Nat := 10000 -- @ TIME of the next power estimate | 64 | 18 R415 | 10,000
  permitAt : Nat := 4000 -- @ end of the permit interval under way | 64 | 18 R420 | 4,000
  sensorAt : Nat := 50000 -- @ TIME of the next sensor sample | 64 | 18 R423 | 50,000
  sampledAt : Nat := 0 -- @ TIME of the last arbiter sample | 64 | 18 R419 | 0
  twoT : Nat := 0 -- @ time for which B has been 2, us | count | 18 R416 | 0
  throttle : Bool := false -- @ budget fall in progress | 1 | 18 R416 | clear
  bstbud : BitVec 8 := 96 -- @ BSTBUD.UNITS | 8 | 18 Table 18-2 | 96
  bstq : List Nat := [] -- @ arbiter queue of clusters, head first | list | 18 R419 | empty
  newest : List Nat := [] -- @ clusters holding grants, newest first | list | 18 R419 | none
  lastGrant : Nat := 15 -- @ last cluster granted | 4 | 18 R419 | DESIGN CHOICE 15 (log 5)
  t1 : Bool := false -- @ THSTAT.TRIPS[0] | 1 | 18 Table 18-5 | 0
  t2 : Bool := false -- @ THSTAT.TRIPS[1] | 1 | 18 Table 18-5 | 0
  t3 : Bool := false -- @ THSTAT.TRIPS[2] | 1 | 18 Table 18-5 | 0
  tmax : Int := 0 -- @ THSTAT.TMAX | 8, signed | 18 Table 18-5 | 0
  prev : SMap Int := [] -- @ previous sample of each sensor | per sensor | 18 R423 | DESIGN CHOICE none (log 5)
  cool1 : Nat := 0 -- @ time every sensor has read at or below T1 - 3, us | count | 18 R423 | 0
  cool2 : Nat := 0 -- @ the same for T2 | count | 18 R423 | 0
  cool3 : Nat := 0 -- @ the same for T3 | count | 18 R423 | 0
deriving DecidableEq, Repr

/-- The fair scheduler (03 R65, R66). -/
structure Sched where
  ptr : List Nat := [0, 0, 0, 0] -- @ queue pointer of each class | 9 each | 03 R66 | DESIGN CHOICE 0 (log 5)
  starved : List Nat := [] -- @ starved classes, longest first | list | 03 R65 | none
  placedAt : List Nat := [0, 0, 0, 0] -- @ TIME of each class's last placement | 64 each | 03 R65 | 0 (DESIGN CHOICE, log 5)
  chargeAt : Nat := 10000 -- @ TIME of the next charge of occupancy | 64 | 03 R67 | 10,000
  heldAt : List (Option Nat) := [none, none, none, none] -- @ TIME since which each class has held a dispatchable team without a break | 64 or none each | 03 R65 | none
  since : Nat := 0 -- @ placements since a starved class was last served | count | 03 R65 | 0
  visit : List Nat := [271, 271, 271, 271] -- @ last queue visited by the queue manager, per class | 9 each | 03 R54 | DESIGN CHOICE 271 (log 5)
deriving DecidableEq, Repr

/-- The trained values of HBM that non-volatile memory retains (19 R437): the stacks and the configuration block they hold for, and the HBM
sensors' readings when they were taken. -/
structure Trained where
  stackId : Nat
  block : BitVec 256
  temps : SMap Int
deriving DecidableEq, Repr

/-- Start-up and identity (19 R435-R438, R441). -/
structure Start where
  powered : Bool := true -- @ module power present | 1 | 18 Table 18-4 T4, 19 R437 | 1 (the start is in step 1)
  step : Nat := 1 -- @ DEVSTAT.STEP | 4 | 19 Table 19-8 | 1
  warm : Bool := false -- @ DEVSTAT.WARM | 1 | 19 Table 19-8 | 0
  heat : Bool := false -- @ DEVSTAT.HEAT | 1 | 19 Table 19-8 | 0
  fail : Bool := false -- @ DEVSTAT.FAIL | 1 | 19 Table 19-8 | 0
  ready : Bool := false -- @ DEVSTAT.READY | 1 | 19 Table 19-8 | 0
  boots : BitVec 32 := 0 -- @ DEVSTAT.BOOTS | 32 | 19 Table 19-8 | DESIGN CHOICE 0 (log 5)
  t4 : Bool := false -- @ T4 flag in non-volatile memory | 1 | 18 R424 | DESIGN CHOICE clear (log 5)
  trained : Option Trained := none -- @ retained trained values of HBM: stacks, configuration block, sensor readings at training | record or none | 19 R437 | DESIGN CHOICE none (log 5)
  stackId : Nat := 0 -- @ identity of the installed HBM stacks, as this start read it | number | 19 R437 | DESIGN CHOICE 0 (log 5)
  temps : SMap Int := [] -- @ sensor readings of this start | per sensor | 19 R437 | DESIGN CHOICE none (log 5)
  heatAt : Nat := 0 -- @ TIME at which self-heat began | 64 | 19 R437, Table 19-10 | 0
  heatMs : Nat := 0 -- @ self-heat time of this start, ms | count | 19 Table 19-10 | 0
  svn : BitVec 32 := 0 -- @ highest SVN accepted of a configuration block | 32 | 19 R436 | DESIGN CHOICE 0 (log 5)
  fwSvn : BitVec 32 := 0 -- @ SVN of the running firmware | 32 | 19 Table 19-6 | DESIGN CHOICE 0 (log 5)
  fwHash : BitVec 256 := 0 -- @ SHA-256 of the running firmware | 256 | 19 Table 19-6 | DESIGN CHOICE 0 (log 5)
  cfg : CfgBlock := ⟨0, [], 0x64, [], [], [], 96, 0⟩ -- @ configuration block in use: SVN, voltage-frequency table, SMBus address, sensor offsets, HBM and PCIe presets, reset value of BSTBUD, signature | block | 19 R436, 18 Table 18-2 | SMBus address 0x64, BSTBUD 96; the rest DESIGN CHOICE 0 or empty (log 5)
deriving DecidableEq, Repr

/-- The host-side registers and ports (19). -/
structure HostIf where
  winbase : DWord := 0 -- @ WINBASE | 64 | 19 Table 19-3 | 0
  pwinbase : DWord := 0 -- @ PWINBASE | 64 | 19 Table 19-11 | 0
  bar2 : Nat := 549755813888 -- @ size of the port H BAR2 window, bytes | power of two | 19 Table 19-2 | DESIGN CHOICE 512 GiB (log 5)
  pbar2 : Nat := 549755813888 -- @ size of the port P BAR2 window, bytes | power of two | 19 R430 | DESIGN CHOICE 512 GiB (log 5)
  aper : SMap (BitVec 128) := [] -- @ peer aperture table entries 0-15 | 128 each | 19 Table 19-12 | 0
  swpbase : DWord := 0 -- @ SWPBASE | 64 | 04 Table 4-3 | 0
  swpsize : DWord := 0 -- @ SWPSIZE | 64 | 04 Table 4-4 | 0
  invaddr : DWord := 0 -- @ INVADDR | 64 | 05 Table 5-6 | 0
  invctl : DWord := 0 -- @ INVCTL (GO reads 0) | 64 | 05 Table 5-7 | 0
  invdone : BitVec 32 := 0 -- @ INVSTAT.DONE | 32 | 05 Table 5-8 | 0
  inverr : Bool := false -- @ INVSTAT.ERR | 1 | 05 Table 5-8 | 0
  inv : Option InvCmd := none -- @ INVSTAT.BUSY and the command under way | 1 + command | 05 Table 5-8, R113 | 0
  msix : List Nat := [] -- @ MSI-X vectors raised, newest first | list of 0-2,047 | 19 R431 | none
  msixTab : SMap DWord := [] -- @ MSI-X table and pending-bit array (BAR0 0x3F_0000-0x3F_80FF), by 8-byte word | 64 each | 19 Table 19-2 | DESIGN CHOICE 0 (log 5)
  linkH : Bool := true -- @ port H link up | 1 | 19 R429 | DESIGN CHOICE up (log 5)
  linkP : Bool := true -- @ port P link up | 1 | 19 R429 | DESIGN CHOICE up (log 5)
  widthH : Nat := 16 -- @ lanes of the port H link | 16 or 8 | 19 R426 | DESIGN CHOICE 16 (log 5)
  widthP : Nat := 16 -- @ lanes of the port P link | 16 or 8 | 19 R426 | DESIGN CHOICE 16 (log 5)
  corH : BitVec 32 := 0 -- @ AER correctable error status, port H | 32 | 19 Table 19-1 | DESIGN CHOICE 0 (log 5)
  corP : BitVec 32 := 0 -- @ AER correctable error status, port P | 32 | 19 Table 19-1 | DESIGN CHOICE 0 (log 5)
  uncH : BitVec 32 := 0 -- @ AER uncorrectable error status, port H | 32 | 19 Table 19-1 | DESIGN CHOICE 0 (log 5)
  uncP : BitVec 32 := 0 -- @ AER uncorrectable error status, port P | 32 | 19 Table 19-1 | DESIGN CHOICE 0 (log 5)
  lanes : SMap (BitVec 16) := [] -- @ last Margining command of each lane, by 16 x port + lane | 16 each | 19 R440 | DESIGN CHOICE 0 (log 5)
  outReqs : List OutReq := [] -- @ non-posted requests outstanding on the ports | up to 4,096 per port | 19 R426, R429 | none
  nextReq : Nat := 0 -- @ number of the next outbound request | count | model's own (log 6) | DESIGN CHOICE 0 (log 6)
  out : List OutMsg := [] -- @ completions, requests and messages sent to the outside, newest first | list | 19 R427-R430, R435 | none
  aer : List (Nat × Nat) := [] -- @ AER reports (port, kind), newest first | list | 19 R426 | none
  ctoH : Nat := 1000000 -- @ Completion Timeout of port H, ns (Device Control 2) | range A or B | 19 R429 | 1 ms
  ctoP : Nat := 1000000 -- @ Completion Timeout of port P, ns | range A or B | 19 R429 | 1 ms
deriving DecidableEq, Repr

/-- An SPDM connection (19 R435). -/
structure Conn where
  version : Bool := false
  caps : Bool := false
  algs : Bool := false
  /-- key exchange done, session not established -/
  keyed : Bool := false
  session : Bool := false
deriving DecidableEq, Repr

/-- The management path (19 R435, R440-R442). -/
structure Mgmt where
  smb : Conn := {} -- @ SPDM connection over SMBus: version, capabilities, algorithms, keys, session | 5 | 19 R435, R442 | DESIGN CHOICE clear (log 5)
  vdm : Conn := {} -- @ SPDM connection over PCIe VDM on port H | 5 | 19 R435, R442 | DESIGN CHOICE clear (log 5)
  lastRead : Option Nat := none -- @ SEQ of the last record read | 64 or none | 19 R442 | DESIGN CHOICE none (log 5)
  arrivals : List Nat := [] -- @ model's own: transports of the requests that come next, an SMBus address each or 128 for VDM | list | model's own (log 6) | DESIGN CHOICE empty (log 6)
  margin : Option (Nat × Nat) := none -- @ management margining run under way, with its port and lane | port, lane or none | 19 R440 | none
deriving DecidableEq, Repr

/-- An HBM stack's refresh and retraining (19 R439). -/
structure Stack where
  refresh : Nat := 1 -- @ refresh rate of each stack | 1, 2 or 4 | 19 R439 | DESIGN CHOICE 1 (log 5)
  busy : Option (Nat × Nat) := none -- @ pseudo-channel that retrains, and TIME of its end | 6 + 64 or none | 19 R439 | none
  last : SMap (Nat × Int) := [] -- @ TIME and sensor reading of each pseudo-channel's last training | 64 per stack | 19 R439 | DESIGN CHOICE none (log 5)
deriving DecidableEq, Repr

/-- Which team and engine the next step serves. -/
structure Sel where
  core : Nat := 0
  eng : Engine := .me
  /-- the ME's cycle has passed, and what falls due in it is being done -/
  due : Bool := false
deriving DecidableEq, Repr

/-- The state of the device. -/
structure State where
  mem : List Host.Cell := [] -- @ HBM bytes by physical address | 384 GiB | 11 R261, 19 R428 | unlisted bytes read 0, DESIGN CHOICE (log 4)
  marks : List Nat := [] -- @ poisoned 64-byte granules of memory | 1 per granule | 17 R406 | none
  teams : SMap Team := [] -- @ teams by slot number (0-1,023 cores, 1,024-1,279 gather cores) | 1,280 | 02 R26, 04 R82 | none
  swapped : List Team := [] -- @ swapped-out teams (images in the swap pool) | images | 04 R91 | none
  cores : SMap Core := [] -- @ cores 0-63 and gather cores 64-79 | 80 | 01 R15 | each at its own reset
  clks : SMap Clk := [] -- @ clusters 0-15 and gather-core clock domains 16-31 | 32 | 18 R411, R413 | each at its own reset
  queues : SMap Queue := [] -- @ queues 0-271 | 272 | 03 R47 | each at its own reset
  futures : SMap Future := [] -- @ future table entries 0-65,535 | 65,536 | 03 R69 | each at its own reset
  tickets : SMap Ticket := [] -- @ ticket dispensers 0-4,095 | 4,096 | 03 R74 | each at its own reset
  stamped : List StampRec := [] -- @ ring slots that hold a record which TSUB stamped | list | 02 R26, 03 R56-R58 | none
  tasks : List Task := [] -- @ resolver window, in admission order: record, footprint, header, KTT image, edges | 1,024 tasks | 03 R55, R59-R61 | empty (19 R438)
  nextTask : Nat := 0 -- @ number of the next admitted task | count | model's own (log 6) | DESIGN CHOICE 0 (log 6)
  sched : Sched := {}
  asids : SMap AsidRegs := [] -- @ per-ASID registers | 4,096 | 05 R99, 16 R378 | each at its own reset
  snaps : SMap SnapRegion := [] -- @ snapshot regions by 256 x ASID + region | up to 1,024 open | 16 R381, R382 | each at its own reset
  slots : SMap ShadowSlot := [] -- @ shadow slots in use | 28 x SNPSIZE per ASID | 16 R380 | none
  nextSlot : Nat := 0 -- @ number of the next shadow slot | count | model's own (log 6) | DESIGN CHOICE 0 (log 6)
  restWork : List RestWork := [] -- @ background work of the restorers, oldest first | list | 16 R456 | none
  codecs : SMap Codec := [] -- @ codec contexts 0-255 | 256 | 12 R289 | each at its own reset
  tlbs : SMap (List TlbEntry) := [] -- @ engine TLBs by ring stop 0-23, most recently used first | 24 x 64 entries | 05 R104 | empty
  walkers : SMap (List WalkEntry) := [] -- @ walker caches of non-leaf entries | 4 x 32 | 05 R105 | empty
  fabric : List PWrite := [] -- @ writes issued and not yet performed, oldest first | list | 03 R57, 15 R359 | none
  atomq : List PAtom := [] -- @ atomics and reductions not yet applied, oldest first | list | 15 R370 | none
  power : Power := {}
  host : HostIf := {}
  mgmt : Mgmt := {}
  start : Start := {}
  hbm : SMap Stack := [] -- @ HBM stacks 0-7 | 8 | 19 R439 | each at its own reset
  log : List LogRec := [] -- @ Vermilion log, newest first | 4,096 records | 19 R441 | DESIGN CHOICE empty (log 5)
  logHeld : List (Nat × Nat × Nat × Nat) := [] -- @ records beyond the first 64 of a type and source in a second: type, source, second, count | list | 19 R441 | none
  logSeq : Nat := 0 -- @ SEQ of the next record | 64 | 19 Table 19-9 | DESIGN CHOICE 0 (log 5)
  corrected : SMap Nat := [] -- @ corrected-error count of each unit | count each | 17 R405 | DESIGN CHOICE 0 (log 5)
  time : DWord := 0 -- @ TIME | 64 | 06 Table 6-5 | 0 at cold start
  sel : Sel := {} -- @ model's own: core and engine served next, and whether the ME's cycle has passed | core + engine + 1 | model's own (log 7) | DESIGN CHOICE core 0, ME (log 7)
  schedule : List Nat := [] -- @ model's own: clock domains whose cycles come next | list | model's own (log 7) | DESIGN CHOICE empty (log 7)
  agenda : List Instr := [] -- @ model's own: operations and events that happen next | list | model's own (log 6) | DESIGN CHOICE empty (log 6)
  free : Nat := 0 -- @ model's own: counter that names the next free value | count | model's own (log 3) | DESIGN CHOICE 0 (log 3)
deriving DecidableEq, Repr

/-- Why the machine stops with a fault. -/
inductive Fault where
  /-- Raised by `step` and by every operation of a unit while module power is absent: T4 removed it (18 Table 18-4) and
  only the host's power cycle, POWER_ON_START, brings it back.  Safe: nothing runs without power. -/
  | noPower
  /-- Raised by the meaning of an instruction word when no team issues on the selected core: a word is issued by a team
  (06 R118), so `step` never reaches it.  Safe. -/
  | noTeam
deriving DecidableEq, Repr

/-- Why a step is refused. -/
inductive Refusal where
  /-- The instruction of this mnemonic has no meaning in the model yet; raised by Dispatch alone.  Safe. -/
  | notModelled (mnemonic : String)
deriving DecidableEq, Repr

/-- The machine right after reset (00 R8): power good, the start in step 1 (19 Table 19-7), every field at its reset
value (log 5). -/
def State.reset : State := {}

end Sys2Proof.Machine
end

