-- ==== Sys2Proof/Machine/Sparse.lean ====
section
/-!
DEFINITION. Sys2Proof/Machine/Sparse.lean: reading and writing the sparse tables that State is made of.  `insert` and
`erase` keep the indices rising; `put` writes a table whose unlisted entries hold a default `d` and never lists `d`.
-/
namespace Sys2Proof.Machine

/-- The entry listed at `k`. -/
def SMap.get? {α : Type} : SMap α → Nat → Option α
  | [], _ => none
  | (j, v) :: r, k => if j = k then some v else SMap.get? r k

/-- The entry at `k` of a table whose unlisted entries hold `d`. -/
def SMap.get {α : Type} (d : α) (m : SMap α) (k : Nat) : α :=
  (SMap.get? m k).getD d

/-- The table with entry `k` listed as `v`. -/
def SMap.insert {α : Type} : SMap α → Nat → α → SMap α
  | [], k, v => [(k, v)]
  | (j, w) :: r, k, v =>
    if k < j then (k, v) :: (j, w) :: r
    else if k = j then (k, v) :: r
    else (j, w) :: SMap.insert r k v

/-- The table with entry `k` unlisted. -/
def SMap.erase {α : Type} : SMap α → Nat → SMap α
  | [], _ => []
  | (j, w) :: r, k => if j = k then SMap.erase r k else (j, w) :: SMap.erase r k

/-- The table, with default `d`, that holds `v` at `k`. -/
def SMap.put {α : Type} [DecidableEq α] (d : α) (m : SMap α) (k : Nat) (v : α) : SMap α :=
  if v = d then SMap.erase m k else SMap.insert m k v

/-- Apply a function to the entry at `k`. -/
def SMap.upd {α : Type} [DecidableEq α] (d : α) (m : SMap α) (k : Nat) (f : α → α) : SMap α :=
  SMap.put d m k (f (SMap.get d m k))

/-- Entries `k`, `k + 1`, … written from a list. -/
def SMap.putList {α : Type} [DecidableEq α] (d : α) (m : SMap α) (k : Nat) : List α → SMap α
  | [] => m
  | v :: r => SMap.putList d (SMap.put d m k v) (k + 1) r

/-- The entries `k`, `k + 1`, … of a list, those equal to the default left out. -/
def SMap.runOf {α : Type} [DecidableEq α] (d : α) : Nat → List α → SMap α
  | _, [] => []
  | k, v :: r => if v = d then SMap.runOf d (k + 1) r else (k, v) :: SMap.runOf d (k + 1) r

/-- The same as `putList`, for a long run. -/
def SMap.putRun {α : Type} [DecidableEq α] (d : α) (m : SMap α) (k : Nat) (l : List α) : SMap α :=
  m.filter (fun p => p.1 < k) ++ SMap.runOf d k l ++ m.filter fun p => k + l.length ≤ p.1

/-- `n` entries from `k` on. -/
def SMap.getList {α : Type} (d : α) (m : SMap α) (k n : Nat) : List α :=
  (List.range n).map fun i => SMap.get d m (k + i)

/-- The indices listed, rising. -/
def SMap.keys {α : Type} (m : SMap α) : List Nat := m.map Prod.fst

/-- Apply a function to every listed entry. -/
def SMap.mapVals {α : Type} [DecidableEq α] (d : α) (m : SMap α) (f : α → α) : SMap α :=
  (m.map fun p => (p.1, f p.2)).filter fun p => p.2 ≠ d

/-- The least of a list. -/
def leastOf : List Nat → Option Nat
  | [] => none
  | a :: r => some (r.foldl min a)

/-- The canonical form of a table: indices strictly rising. -/
def SMap.sorted {α : Type} : SMap α → Bool
  | [] => true
  | [_] => true
  | (a, _) :: (b, w) :: r => decide (a < b) && SMap.sorted ((b, w) :: r)

/-- The canonical form of a table with default `d`: indices strictly rising and no entry equal to `d`. -/
def SMap.wf {α : Type} [DecidableEq α] (d : α) (m : SMap α) : Bool :=
  SMap.sorted m && m.all fun p => decide (p.2 ≠ d)

end Sys2Proof.Machine
end

