-- ==== Sys2Proof/Machine/Ops.lean ====
section
/-!
DEFINITION. Sys2Proof/Machine/Ops.lean: the named operations over State that the meanings share: teams and cores, the
log, HBM with its poison marks and snapshot units, the ports, the L1, the kernel translation table, scratchpad with its
directory, channels, barrier objects, taking a fault and returning from a handler, killing and switching teams.
-/
namespace Sys2Proof.Machine

/-- The outcome of one meaning. -/
abbrev Out := Host.Outcome State Fault Refusal

/-! Teams and cores (02 R26, 04 R82). -/

/-- The core (0-63) or gather core (64-79) of a team slot number (02 R26). -/
def coreOfSlot (n : Nat) : Nat := n / 16

/-- The clock domain of a core: cluster 0-15, or 16 + g for gather core g (18 R413). -/
def domainOf (c : Nat) : Nat := if c < 64 then c / 4 else 16 + (c - 64)

def State.core (s : State) (c : Nat) : Core := SMap.get {} s.cores c
def State.setCore (s : State) (c : Nat) (k : Core) : State := { s with cores := SMap.put {} s.cores c k }
def State.updCore (s : State) (c : Nat) (f : Core → Core) : State := s.setCore c (f (s.core c))
def State.clk (s : State) (d : Nat) : Clk := SMap.get {} s.clks d
def State.updClk (s : State) (d : Nat) (f : Clk → Clk) : State := { s with clks := SMap.upd {} s.clks d f }
def State.queue (s : State) (q : Nat) : Queue := SMap.get {} s.queues q
def State.updQueue (s : State) (q : Nat) (f : Queue → Queue) : State := { s with queues := SMap.upd {} s.queues q f }
def State.team? (s : State) (n : Nat) : Option Team := SMap.get? s.teams n
def State.setTeam (s : State) (n : Nat) (t : Team) : State := { s with teams := SMap.insert s.teams n t }
def State.eraseTeam (s : State) (n : Nat) : State := { s with teams := SMap.erase s.teams n }
def State.updTeam (s : State) (n : Nat) (f : Team → Team) : State :=
  match s.team? n with
  | some t => s.setTeam n (f t)
  | none => s

def State.task? (s : State) (tid : Nat) : Option Task := s.tasks.find? (·.id = tid)
def State.updTask (s : State) (tid : Nat) (f : Task → Task) : State :=
  { s with tasks := s.tasks.map fun k => if k.id = tid then f k else k }

/-- The team that issues on the selected core, with its slot number. -/
def State.cur? (s : State) : Option (Nat × Team) :=
  match (s.core s.sel.core).issuing with
  | none => none
  | some n => (s.team? n).map fun t => (n, t)

/-- A word is issued by a team: with none issuing on the selected core there is nothing to execute. -/
def State.onTeam (s : State) (f : Nat → Team → State) : Out :=
  match s.cur? with
  | none => .fault .noTeam
  | some (n, t) => .next (f n t)

/-- An operation or event of the device's units: nothing happens while module power is absent (18 Table 18-4) (log 1). -/
def State.event (s : State) (f : State → State) : Out :=
  if s.start.powered then .next (f s) else .fault .noPower

/-- The nests and jobs of a team advance while it issues, its cluster or gather core runs, and no handler or halt holds it (06 R127, 17
R402, 04 R94).  In the cycle in which an engine faults the others run on: every engine halts at its end (17 R398) (log 20). -/
def State.advancing (s : State) (n : Nat) : Bool :=
  match s.team? n with
  | none => false
  | some t =>
    decide ((s.core (coreOfSlot n)).issuing = some n) && !(s.clk (domainOf (coreOfSlot n))).frozen && !t.inHandler &&
    t.halting.isNone && !t.leaving && !t.preempt && t.kill.isNone

/-- Engine `e` has reached a fault: its nests and jobs stop at that step (17 R398) (log 20). -/
def Team.faulted (t : Team) (e : Engine) : Bool :=
  match t.pend with
  | some f => !f.async && (f.eng = e.num || f.multi)
  | none => false

/-! The control part of an engine. -/

def Team.ctl (t : Team) : Engine → EngCtl
  | .sq => t.sq.ctl | .ve => t.ve.ctl | .me => t.me.ctl | .tu0 => t.tu0.ctl | .tu1 => t.tu1.ctl | .gq => t.gq.ctl

def Team.setCtl (t : Team) (e : Engine) (k : EngCtl) : Team :=
  match e with
  | .sq => { t with sq := { t.sq with ctl := k } }
  | .ve => { t with ve := { t.ve with ctl := k } }
  | .me => { t with me := { t.me with ctl := k } }
  | .tu0 => { t with tu0 := { t.tu0 with ctl := k } }
  | .tu1 => { t with tu1 := { t.tu1 with ctl := k } }
  | .gq => { t with gq := { t.gq with ctl := k } }

def Team.updCtl (t : Team) (e : Engine) (f : EngCtl → EngCtl) : Team := t.setCtl e (f (t.ctl e))

/-- The transfer stream of an engine. -/
def Team.tu (t : Team) : Engine → TuState
  | .tu0 => t.tu0 | .tu1 => t.tu1 | _ => t.gq

def Team.updTu (t : Team) (e : Engine) (f : TuState → TuState) : Team :=
  match e with
  | .tu0 => { t with tu0 := f t.tu0 }
  | .tu1 => { t with tu1 := f t.tu1 }
  | _ => { t with gq := f t.gq }

/-- Size in words of an engine's section (02 R31). -/
def Team.words (t : Team) (e : Engine) : Nat := (t.k.sect.getD e.num (0, 0)).2 / 4

/-- The engines of the team's kind whose sections are non-empty (02 R30, 06 R118). -/
def Team.hasEngine (t : Team) (e : Engine) : Bool :=
  (match e with
   | .ve | .me => !t.gather
   | .gq => t.gather
   | _ => true) && t.words e ≠ 0

def allEngines : List Engine := [.sq, .ve, .me, .tu0, .tu1, .gq]

/-- The order in which the engines of a team take their turns within a cycle.  ME, VE and SQ stand in the order of their bank ports
(06 R130); the SQ comes last, so that a fault it takes follows what the other engines do in the cycle (log 7). -/
def turnOrder : List Engine := [.me, .ve, .tu0, .tu1, .gq, .sq]

/-- The engines of the team halt, or stand still until its core switches (04 R87, R94). -/
def Team.stands (t : Team) : Bool := t.leaving || t.preempt || t.kill.isSome

/-- The word after one that is not a taken control word: the end word of the innermost open loop goes round or closes
the loop (09 R196). -/
def EngCtl.next (k : EngCtl) : EngCtl :=
  match k.loops with
  | [] => { k with pc := k.pc + 1 }
  | l :: r =>
    if k.pc = l.stop then
      (if 1 < l.count then { k with pc := l.start, loops := { l with count := l.count - 1, iter := l.iter + 1 } :: r }
       else { k with pc := k.pc + 1, loops := r })
    else { k with pc := k.pc + 1 }

/-- The loops that stay open after a taken branch to `target` (09 R197). -/
def popLoops (target : Nat) : List Loop → List Loop
  | [] => []
  | l :: r => if l.start ≤ target && target ≤ l.stop then l :: r else popLoops target r

/-- A taken branch or jump that pops the loops it leaves. -/
def EngCtl.jump (k : EngCtl) (target : Nat) : EngCtl := { k with pc := target, loops := popLoops target k.loops }

/-- The GQ at the end word of its innermost loop (12 R312): it waits for the LPOPs of the iteration; when one returned END
or ABORT the stream leaves every open loop (log 40). -/
def Team.gqNext (t : Team) : Team :=
  let g := t.gq
  let depth := g.ctl.loops.length
  let atEnd : Bool := match g.ctl.loops with
    | l :: _ => g.ctl.pc = l.stop
    | [] => false
  if !atEnd then { t with gq := { g with ctl := g.ctl.next } }
  else if g.iterPops.any fun p => p.1 = depth then { t with gq := { g with loopWait := true } }
  else if g.iterEnd.contains depth then
    { t with gq := { g with ctl := { g.ctl with pc := (g.ctl.loops.getLast?.map (·.stop)).getD g.ctl.pc + 1, loops := [] },
                            iterPops := [], iterEnd := [], loopWait := false } }
  else
    { t with gq := { g with ctl := g.ctl.next, iterPops := g.iterPops.filter fun p => p.1 < depth,
                            iterEnd := g.iterEnd.filter (· < depth), loopWait := false } }

/-- The engine's word is the end word of the last round of its innermost open loop (log 38). -/
def EngCtl.leaves (k : EngCtl) : Bool :=
  match k.loops with
  | [] => false
  | l :: _ => k.pc = l.stop && l.count ≤ 1

/-- Move an engine past a word that is not a taken control word.  An exit of a VLOOP costs two cycles, this one as that of a count of 0 (06
Table 6-3) (log 38). -/
def Team.step (t : Team) (e : Engine) : Team :=
  if e = .gq then t.gqNext
  else if e = .ve && t.ve.ctl.leaves then t.updCtl .ve fun k => { k.next with busy := t.cycle + 2 }
  else t.updCtl e EngCtl.next

/-! The Vermilion log and host notifications (17 R409, 19 R431, R441, R442). -/

def State.raiseMsix (s : State) (v : Nat) : State := { s with host := { s.host with msix := v :: s.host.msix } }

/-- Write a record.  The ring holds 4,096; overwriting a record not yet read raises vector 2,045 (log 10). -/
def State.logWrite (s : State) (typ : Nat) (payload : List Nat) : State :=
  let r : LogRec := { seq := s.logSeq, time := s.time, boot := BitVec.ofNat 16 s.start.boots.toNat, typ := typ,
                      sev := Config.severity typ, payload := payload }
  let s1 := { s with log := (r :: s.log).take 4096, logSeq := s.logSeq + 1 }
  let unread : Bool := match s.mgmt.lastRead with
    | some l => l + 4096 < s.logSeq
    | none => true
  if 4096 ≤ s.log.length && unread then s1.raiseMsix 2045 else s1

/-- Bytes of the payload's fields by type of record: the spec packs the fields in the order it lists them and gives no widths; unit and
queue numbers, slots and requester IDs take 2 bytes, KERNID, TAG, RESFUT and counts 4, addresses, granules, FAULT registers and AER status
8, the others 1 (DESIGN CHOICE, log 10). -/
def payloadWidths (typ : Nat) : List Nat :=
  if typ = 0x10 then [2, 2, 4, 4, 8, 8, 8]
  else if typ = 0x11 then [2, 2, 4, 4, 8, 8, 8, 1]
  else if typ = 0x20 ∨ typ = 0x40 then [2, 4, 4]
  else if typ = 0x21 then [2, 4, 2]
  else if typ = 0x22 then [2, 2, 4]
  else if typ = 0x30 then [2, 8, 8]
  else if typ = 0x31 ∨ typ = 0x42 then [2, 4]
  else if typ = 0x41 then [2, 1, 1]
  else if typ = 0x50 then [2, 2, 8]
  else if typ = 0x60 then [1, 2, 1]
  else if typ = 0x61 then [1]
  else if typ = 0x70 then [1, 2]
  else if typ = 0x71 then [1, 4]
  else if typ = 0x72 then [1, 1, 8]
  else if typ = 0x73 then [1, 2, 8, 1]
  else if typ = 0x74 then [2, 8, 1]
  else if typ = 0x7F then [1, 2, 4]
  else []

/-- CRC-32 of IEEE 802.3: reflected, polynomial 0x04C11DB7, initial value and final complement all ones. -/
def crcStep (c : Nat) : Nat := if c % 2 = 1 then (c / 2) ^^^ 0xEDB88320 else c / 2
def crcByte (c : Nat) (b : Byte) : Nat := (List.range 8).foldl (fun c _ => crcStep c) (c ^^^ b.toNat)
def crc32 (bs : List Byte) : Nat := bs.foldl crcByte 0xFFFFFFFF ^^^ 0xFFFFFFFF

/-- Bytes 0x00 to 0x3B of a record (19 Table 19-9) (log 10). -/
def LogRec.body (r : LogRec) : List Byte :=
  let fields := ((payloadWidths r.typ).zip r.payload).flatMap fun x => toBytes x.1 x.2
  toBytes 8 r.seq ++ toBytes 8 r.time.toNat ++ toBytes 2 r.boot.toNat ++ toBytes 1 r.typ ++ toBytes 1 r.sev ++
    (fields ++ List.replicate (40 - fields.length) 0).take 40

/-- The 64 bytes of a record (log 10). -/
def LogRec.bytes (r : LogRec) : List Byte := r.body ++ toBytes 4 (crc32 r.body ^^^ r.tear.toNat)

/-- The CRC of a record matches its bytes. -/
def LogRec.intact (r : LogRec) : Bool := r.tear = 0

/-- The second of device TIME (log 10). -/
def secondOf (t : DWord) : Nat := t.toNat / 1000000000

/-- Count a record held back (R441). -/
def heldAdd (typ src sec : Nat) : List (Nat × Nat × Nat × Nat) → List (Nat × Nat × Nat × Nat)
  | [] => [(typ, src, sec, 1)]
  | e :: r => if e.1 = typ ∧ e.2.1 = src then (typ, src, e.2.2.1, e.2.2.2 + 1) :: r else e :: heldAdd typ src sec r

/-- A record, or, beyond the first 64 of its type and source in one second, one more to summarise (R441, log 10). -/
def State.logRec (s : State) (typ : Nat) (payload : List Nat) : State :=
  let sec := secondOf s.time
  let same (r : LogRec) : Bool := r.typ = typ && r.payload.headD 0 = payload.headD 0 && secondOf r.time = sec
  if 64 ≤ (s.log.filter same).length then { s with logHeld := heldAdd typ (payload.headD 0) sec s.logHeld }
  else s.logWrite typ payload

/-! HBM, its poison marks, and the address map (11 R261, 17 R406, 19 R428). -/

/-- Where a physical address routes (19 Table 19-4). -/
inductive Dest where
  | hbm | nowhere
  | port (p : Nat)
deriving DecidableEq, Repr

def destOf (pa : Nat) : Dest :=
  if pa < 0x6000000000 then .hbm
  else if pa < 0x4000000000000 then .nowhere
  else if pa < 0x8000000000000 then .port 0
  else .port 1

/-- The HBM stack that is the home of a line, and the L2 slice of that stack's die that serves it (11 R261) (log 15). -/
def homeStack (pa : Nat) : Nat := bitsOf pa 12 3
def homeSlice (pa : Nat) : Nat := 8 * (homeStack pa / 2) + 4 * (homeStack pa % 2) + bitsOf pa 7 2

/-- A pseudo-channel of the stack retrains at this moment, for at most 1.2 us (19 R439). -/
def State.retraining (s : State) (stack : Nat) : Bool :=
  match (SMap.get {} s.hbm stack).busy with
  | some b => s.time.toNat < b.2
  | none => false

/-- A request to a line waits: its pseudo-channel retrains (19 R439).  Which pseudo-channel holds a line is open (log 36). -/
def State.lineWaits (s : State) (ln : Nat) : Bool :=
  match (SMap.get {} s.hbm (homeStack (128 * ln))).busy with
  | some b => s.time.toNat < b.2 && ln < 0xC0000000 && Config.channelOf ln % 64 = b.1
  | none => false

/-- The address a port sends: the offset within its range. -/
def portAddr (pa : Nat) : Nat := if pa < 0x8000000000000 then pa - 0x4000000000000 else pa - 0x8000000000000

/-- A byte that nothing has written reads as 0 (log 4). -/
def readByte (m : List Host.Cell) (a : Nat) : Byte := SMap.get 0 m a
def readBytes (m : List Host.Cell) (a n : Nat) : List Byte := SMap.getList 0 m a n
def writeBytes (m : List Host.Cell) (a : Nat) (bs : List Byte) : List Host.Cell := SMap.putList 0 m a bs

/-- The canonical form of memory: addresses strictly rising, no listed byte 0. -/
abbrev Memory.wf (m : List Host.Cell) : Bool := SMap.wf (0 : Byte) m

/-- A set of numbers as a rising list. -/
def setInsert (x : Nat) : List Nat → List Nat
  | [] => [x]
  | y :: r => if x < y then x :: y :: r else if x = y then y :: r else y :: setInsert x r

def setUnion (l m : List Nat) : List Nat := l.foldl (fun acc x => setInsert x acc) m

/-- The units of `g` bytes that `n` bytes from `a` touch. -/
def unitsOf (g a n : Nat) : List Nat := if n = 0 then [] else List.range' (a / g) ((a + n - 1) / g - a / g + 1)

/-- Marks after a write of `n` bytes at `a` (17 R406): a poisoned write marks every unit it touches, another clears the
marks of the units it covers whole. -/
def markWrite (g : Nat) (marks : List Nat) (a n : Nat) (poison : Bool) : List Nat :=
  if poison then setUnion (unitsOf g a n) marks
  else marks.filter fun u => !(a ≤ g * u && g * u + g ≤ a + n)

def markedRange (g : Nat) (marks : List Nat) (a n : Nat) : Bool := (unitsOf g a n).any marks.contains

/-- A write that lands in a watched line at its home slice wakes the queue manager (03 R53). -/
def wakeQueues (qs : SMap Queue) (a n : Nat) : SMap Queue :=
  SMap.mapVals {} qs fun q =>
    match q.watch with
    | some l => if (unitsOf 128 a n).contains l then { q with wake := true } else q
    | none => q

/-- A write performed at its home slices. -/
def State.performBytes (s : State) (pa : Nat) (bs : List Byte) (poison : Bool) : State :=
  { s with mem := writeBytes s.mem pa bs, marks := markWrite 64 s.marks pa bs.length poison,
           queues := wakeQueues s.queues pa bs.length,
           stamped := s.stamped.filter fun r => r.at_ + 64 ≤ pa || pa + bs.length ≤ r.at_ }

def State.readHbm (s : State) (pa n : Nat) : List Byte := readBytes s.mem pa n
def State.hbmMarked (s : State) (pa n : Nat) : Bool := markedRange 64 s.marks pa n
def State.read64 (s : State) (pa : Nat) : Nat := ofBytes (s.readHbm pa 8)

/-! Snapshot units (16). -/

def State.asid (s : State) (a : Nat) : AsidRegs := SMap.get {} s.asids a
def State.snap (s : State) (a r : Nat) : SnapRegion := SMap.get {} s.snaps (256 * a + r)
def State.setSnap (s : State) (a r : Nat) (v : SnapRegion) : State :=
  { s with snaps := SMap.put {} s.snaps (256 * a + r) v }

/-- Region `r` of an ASID, when its table entry is registered: base and length (16 R379, Table 16-4). -/
def State.region? (s : State) (asid r : Nat) : Option (Nat × Nat) :=
  let tab := (s.asid asid).snrtab.toNat
  if tab % 2 = 0 then none
  else
    let e := bitsOf tab 12 40 * 4096 + 16 * r
    let base := s.read64 e
    let span := s.read64 (e + 8)
    let len := bitsOf span 0 48
    if bitAt span 63 && bitsOf span 48 15 = 0 && bitsOf base 57 7 = 0 && bitsOf base 0 7 = 0 && len ≠ 0 && len % 128 = 0
    then some (base, len) else none

/-- The registered region that contains a virtual line address; the lowest-numbered one. -/
def State.regionOfLine (s : State) (asid va : Nat) : Option Nat :=
  if (s.asid asid).snrtab.toNat % 2 = 0 then none
  else (List.range 256).find? fun r =>
    match s.region? asid r with
    | some (b, l) => b ≤ va && va < b + l
    | none => false

/-- Slots of a pool: 28 per 4 KiB unit (R380). -/
def State.poolSlots (s : State) (asid : Nat) : Nat := 28 * bitsOf (s.asid asid).snpsize.toNat 12 28

/-- Reservations of every open level of the ASID. -/
def State.poolReserved (s : State) (asid : Nat) : Nat :=
  (s.snaps.filter fun p => p.1 / 256 = asid).foldl (fun n p => n + (p.2.levels.map (·.resv)).sum) 0

/-- Free unreserved slots of the ASID's pool (R391, R392); slots still being freed do not count. -/
def State.poolFree (s : State) (asid : Nat) : Nat :=
  s.poolSlots asid - (s.slots.filter fun p => p.2.asid = asid).length - s.poolReserved asid

/-- The oldest background work of the restorers completes: its slots are free (R456). -/
def State.restorerDone (s : State) : State :=
  match s.restWork with
  | [] => s
  | w :: r => { s with restWork := r, slots := s.slots.filter fun p => !w.slots.contains p.1 }

def restorersDone : Nat → State → State
  | 0, s => s
  | k + 1, s => restorersDone k s.restorerDone

/-- The innermost level with an unused reservation gives one up; none when every reservation is used (R395). -/
def chargeLevels : List SnapLevel → Option (List SnapLevel)
  | [] => none
  | l :: r =>
    match chargeLevels r with
    | some r' => some (l :: r')
    | none => if 0 < l.resv then some ({ l with resv := l.resv - 1 } :: r) else none

/-- TakeSlot of R384 and R395: a reservation, then a free unreserved slot, then a slot that the background is freeing
(the save waits for it) (log 34). -/
def State.takeSlot (s : State) (asid rg : Nat) : Option State :=
  let g := s.snap asid rg
  match chargeLevels g.levels with
  | some ls => some (s.setSnap asid rg { g with levels := ls })
  | none =>
    if 0 < s.poolFree asid then some s
    else
      let s1 := restorersDone s.restWork.length s
      if 0 < s1.poolFree asid then some s1 else none

/-- OnTaggedWrite of R384 up to the performing of the write; none when the save fails (log 34). -/
def State.saveLine (s : State) (asid rg line : Nat) : Option State :=
  let g := s.snap asid rg
  match g.levels.getLast? with
  | none => some s
  | some inner =>
    if (SMap.get? inner.vers line).isSome then some s
    else
      match s.takeSlot asid rg with
      | none => none
      | some s1 =>
        let g1 := s1.snap asid rg
        let data := BitVec.ofNat 1024 (ofBytes (s1.readHbm (128 * line) 128))
        let mk := BitVec.ofNat 2 ((if s1.marks.contains (2 * line) then 1 else 0) +
                                  (if s1.marks.contains (2 * line + 1) then 2 else 0))
        let id := s1.nextSlot
        let ls := g1.levels.map fun l =>
          if (SMap.get? l.vers line).isSome then l
          else { l with vers := SMap.insert l.vers line id, saved := l.saved + 1 }
        some { (s1.setSnap asid rg { g1 with levels := ls }) with
                 slots := SMap.insert s1.slots id { asid := asid, data := data, marks := mk }, nextSlot := id + 1 }

/-- The line that level `k` of a region sees: its version when it has one, the live contents otherwise (R385). -/
def State.viewLine (s : State) (asid rg k line : Nat) : List Byte × Bool × Bool :=
  let live := (s.readHbm (128 * line) 128, s.marks.contains (2 * line), s.marks.contains (2 * line + 1))
  match (s.snap asid rg).levels[k]? with
  | none => live
  | some l =>
    match SMap.get? l.vers line with
    | none => live
    | some id =>
      match SMap.get? s.slots id with
      | none => live
      | some v => (toBytes 128 v.data.toNat, bitAt v.marks.toNat 0, bitAt v.marks.toNat 1)

/-- A handle as its fields (Table 16-5); none for a stale handle of the ASID (R381). -/
def State.openHandle (s : State) (asid : Nat) (h : DWord) : Option (Nat × Nat) :=
  let v := h.toNat
  let rg := bitsOf v 0 8
  let k := bitsOf v 8 2
  if 2 ^ 32 ≤ v || bitsOf v 10 6 ≠ 0 || bitsOf v 16 16 = 0 then none
  else
    match s.region? asid rg, (s.snap asid rg).levels[k]? with
    | some _, some l => if l.gen.toNat = bitsOf v 16 16 then some (rg, k) else none
    | _, _ => none

/-- One mark set or cleared. -/
def setMark (on : Bool) (g : Nat) (marks : List Nat) : List Nat :=
  if on then setInsert g marks else marks.filter (· ≠ g)

/-- The reject point of R389: lines restored, levels n and inner closed, their slots freed in the background. -/
def State.rejectPoint (s : State) (asid rg n : Nat) : State :=
  let g := s.snap asid rg
  match g.levels[n]? with
  | none => s
  | some l =>
    let s1 := l.vers.foldl (fun (s : State) p =>
      match SMap.get? s.slots p.2 with
      | none => s
      | some v =>
        { s with mem := writeBytes s.mem (128 * p.1) (toBytes 128 v.data.toNat),
                 marks := setMark (bitAt v.marks.toNat 0) (2 * p.1)
                   (setMark (bitAt v.marks.toNat 1) (2 * p.1 + 1) s.marks),
                 queues := wakeQueues s.queues (128 * p.1) 128,
                 stamped := s.stamped.filter fun r => r.at_ / 128 ≠ p.1 }) s
    let kept := g.levels.take n
    let freed := (g.levels.drop n).foldl (fun acc l => setUnion (l.vers.map (·.2)) acc) []
    let still := kept.foldl (fun acc l => setUnion (l.vers.map (·.2)) acc) []
    { (s1.setSnap asid rg { g with levels := kept }) with
        restWork := s1.restWork ++ [{ asid := asid, slots := freed.filter fun i => !still.contains i }] }

/-- The accept point of R390 for the innermost level n. -/
def State.acceptPoint (s : State) (asid rg n : Nat) : State :=
  let g := s.snap asid rg
  match g.levels[n]? with
  | none => s
  | some l =>
    let kept := (g.levels.take n).mapIdx fun i v => if i + 1 = n then { v with resv := v.resv + l.resv } else v
    let still := kept.foldl (fun acc l => setUnion (l.vers.map (·.2)) acc) []
    { (s.setSnap asid rg { g with levels := kept }) with
        restWork := s.restWork ++ [{ asid := asid, slots := (l.vers.map (·.2)).filter fun i => !still.contains i }] }

/-! Reads on the ports (19 R428, R429). -/

def State.linkUp (s : State) (p : Nat) : Bool := if p = 0 then s.host.linkH else s.host.linkP

/-- The AER status bit of a report: 1 Unsupported Request, 4 Completer Abort, 5 poisoned TLP, 7 Completion Timeout, 8 ECRC error, 9 link
down, uncorrectable; 16 + b the correctable error of bit b.  The bits are those of the PCIe standard (PRESUMED, log 10). -/
def aerBit (kind : Nat) : BitVec 32 :=
  BitVec.ofNat 32 (if kind = 1 then 2 ^ 20 else if kind = 4 then 2 ^ 15 else if kind = 5 then 2 ^ 12 else if kind = 7 then 2 ^ 14
    else if kind = 8 then 2 ^ 19 else if kind = 9 then 2 ^ 5 else 2 ^ (kind - 16))

/-- An AER report (R426, 17 R406): a status bit is set, and the report goes out (log 10). -/
def State.report (s : State) (port kind : Nat) : State :=
  let h := s.host
  let b := aerBit kind
  { s with host := { h with
      aer := (port, kind) :: h.aer,
      uncH := if port = 0 ∧ kind < 16 then h.uncH ||| b else h.uncH, uncP := if port ≠ 0 ∧ kind < 16 then h.uncP ||| b else h.uncP,
      corH := if port = 0 ∧ 16 ≤ kind then h.corH ||| b else h.corH, corP := if port ≠ 0 ∧ 16 ≤ kind then h.corP ||| b else h.corP } }

/-- A non-posted request that cannot be served completes with all ones and a poison mark; it is reported (R429).  `status`
is the PCIe completion status, 7 where there is none (log 10). -/
def State.portFailed (s : State) (p slot addr status : Nat) : State :=
  (s.report p (if status = 7 ∧ !s.linkUp p then 9 else status)).logRec 0x73 [p, slot, addr, status]

/-- The port holds all the non-posted requests that it may have outstanding (Table 19-1). -/
def State.portFull (s : State) (p : Nat) : Bool := 4096 ≤ (s.host.outReqs.filter (·.port = p)).length

/-- A request for a physical address would go out on such a port. -/
def State.atPortFull (s : State) (pa : Nat) : Bool :=
  match destOf pa with
  | .port p => s.portFull p
  | _ => false

def onesBytes (n : Nat) : List Byte := List.replicate n 0xFF

/-- How an outbound read ends: the completer's data, or all ones with a poison mark and the status that is reported (19 R429) (log 14). -/
def portAnswer (p addr k name : Nat) : List Byte × Option Nat :=
  match (Config.portEnd p addr name).toNat with
  | 1 => (onesBytes k, some 1)
  | 2 => (onesBytes k, some 4)
  | 3 => (onesBytes k, some 5)
  | 4 => (onesBytes k, some 7)
  | _ => ((List.range k).map fun i => Config.portByte p (addr + i) name, none)

/-- The number by which a log record names a core, a gather core (64-79) or the device engine at a ring stop (128 and up) (01 Table 1-2);
the CMU and the list builder, of which there is one each, go by their ring stop (log 10). -/
def unitNum (u : Nat) : Nat :=
  if u < 64 then u else if u < 128 then u - 64 else if u < 142 then u - 128 else if u < 150 then u - 142 else u - 150

/-- A read that a job or a unit of the device makes at a physical address of one destination (19 R428, R429).  `fresh` says that it is a
request of its own, not a part of the line requested before.  A hole reads ones, poisoned, and is logged under `unit`: which unit a record
of type 0x30 names for an access that no store holds is the model's choice, the core or gather core of a team's job, 0 for another
(log 10).  A record of type 0x73 names `agent` (log 14). -/
def State.unitRead (s : State) (unit agent pa k : Nat) (fresh : Bool) : State × List Byte × Bool :=
  match destOf pa with
  | .hbm => (s, s.readHbm pa k, s.hbmMarked pa k)
  | .nowhere => (if fresh then s.logRec 0x30 [unitNum unit, pa, pa / 64] else s, onesBytes k, true)
  | .port p =>
    let a := portAddr pa
    if s.linkUp p then
      let s1 : State := if fresh then
        { s with free := s.free + 1, host := { s.host with out := .portRead p a k :: s.host.out } } else s
      match portAnswer p a k s1.free with
      | (bs, none) => (s1, bs, false)
      | (bs, some st) => (if fresh then s1.portFailed p agent a st else s1, bs, true)
    else (if fresh then s.portFailed p agent a 7 else s, onesBytes k, true)

/-! Performing writes (15 R359, 16 R384, R395). -/

/-- Handle of the innermost open level of a region. -/
def State.innerHandle (s : State) (asid rg : Nat) : Nat :=
  match (s.snap asid rg).levels.getLast? with
  | none => 0
  | some l => l.gen.toNat * 65536 + ((s.snap asid rg).levels.length - 1) * 256 + rg

def setLost : List SnapLevel → List SnapLevel
  | [] => []
  | [l] => [{ l with lost := true }]
  | l :: r => l :: setLost r

/-- Record a fault that a team has reached; one that comes while another is pending sets MULTI, and of two reached in one cycle the
record names the first in the order SQ, VE, ME, TU0, TU1, GQ (17 R398, R404) (log 20). -/
def Team.pendFault (t : Team) (f : PendFault) : Team :=
  let f1 := { f with cyc := t.cycle }
  match t.pend with
  | none => { t with pend := some f1 }
  | some p =>
    if p.cyc = f1.cyc && !f1.async && (p.async || f1.eng < p.eng) then { t with pend := some { f1 with multi := true } }
    else { t with pend := some { p with multi := true } }

/-- A tagged write that found no slot is dropped (R395): LOST is set and the team's SHADOWFULL is pending; a later one to the same
region is dropped and counted (log 34). -/
def State.dropWrite (s : State) (asid rg : Nat) (team : Option Nat) (f : PendFault) : State :=
  let g := s.snap asid rg
  let s1 := s.setSnap asid rg { g with levels := setLost g.levels }
  match team with
  | none => s1
  | some n => s1.updTeam n fun t =>
      let cnt := min (t.dropping + 1) (2 ^ 32 - 1)
      if t.dropping ≠ 0 && t.dropRg = rg then { t with dropping := cnt }
      else
        ({ t with dropping := cnt, dropRg := rg } : Team).pendFault
          { f with cause := .shadowfull, operand := 8, async := true, info := s.innerHandle asid rg }

/-- Whether the team is dropping its tagged writes to the region (R395): from the first dropped write until its handler begins (log 34). -/
def State.isDropping (s : State) (team : Option Nat) (rg : Nat) : Bool :=
  match team.bind s.team? with
  | none => false
  | some t => t.dropping ≠ 0 && t.dropRg = rg

/-- Save the line that a write of the region's tag falls in, or drop the write.  The flag says whether to perform it. -/
def State.tagLine (s : State) (asid va line : Nat) (tagged : Bool) (team : Option Nat) (f : PendFault) : State × Bool :=
  if !tagged then (s, true)
  else
    match s.regionOfLine asid (va / 128 * 128) with
    | none => (s, true)
    | some rg =>
      if s.isDropping team rg then (s.dropWrite asid rg team f, false)
      else
        match s.saveLine asid rg line with
        | some s1 => (s1, true)
        | none => (s.dropWrite asid rg team f, false)

/-- The slot of the team that made a write, while that team still holds it. -/
def State.writer (s : State) (slot : Option Nat) (tid tix : Nat) : Option Nat :=
  slot.filter fun n => match s.team? n with
    | some t => t.tid = tid && t.teamix = tix
    | none => false

/-- Perform a write of at most one line at its home slice, or send it on its port. -/
def State.performWrite (s : State) (w : PWrite) : State :=
  match destOf w.pa with
  | .hbm =>
    let f : PendFault := { cause := .shadowfull, eng := w.eng, pc := w.pc, addr := BitVec.ofNat 64 w.va, seq := w.seq }
    let (s1, go) := s.tagLine w.asid w.va (w.pa / 128) w.tagged (s.writer w.slot w.tid w.tix) f
    if go then s1.performBytes w.pa w.bytes w.mark else s1
  | .nowhere => s.logRec 0x30 [unitNum ((w.slot.map coreOfSlot).getD 0), w.pa, w.pa / 64]
  | .port p =>
    if s.linkUp p then
      let s1 := { s with host := { s.host with out := .portWrite p (portAddr w.pa) w.bytes w.mark :: s.host.out } }
      match w.slot with
      | some n => s1.updTeam n fun t => if t.tid = w.tid then { t with posted := setInsert p t.posted } else t
      | none => s1
    else s.portFailed p (w.slot.getD 0xFFFF) (portAddr w.pa) 7

/-- Perform every write on its way that `p` selects, oldest first. -/
def State.performWrites (s : State) (p : PWrite → Bool) : State :=
  (s.fabric.filter p).foldl State.performWrite { s with fabric := s.fabric.filter fun w => !p w }

/-- Cut bytes at a physical address where lines end. -/
def lineCuts : Nat → Nat → List Byte → List (Nat × List Byte)
  | 0, _, _ => []
  | _, _, [] => []
  | k + 1, pa, bs =>
    let n := 128 - pa % 128
    (pa, bs.take n) :: lineCuts k (pa + n) (bs.drop n)

/-- Send a write on its way: one entry per line (16 R384: the bytes of a write in one line are one unit). -/
def State.sendWrite (s : State) (w : PWrite) : State :=
  { s with fabric := s.fabric ++ (lineCuts (w.bytes.length / 128 + 2) w.pa w.bytes).map fun c =>
      { w with pa := c.1, va := w.va + (c.1 - w.pa), bytes := c.2 } }

/-! The L1 data cache (11 R260, 15 R364, R365). -/

/-- Whether an access through an entry allocates in the L1: RC or UO with L1C = 1, wherever the page lies (09 R198, 11 R260). -/
def cacheable (order : Nat) (l1c : Bool) (c : Nat) : Bool := order ≠ 2 && l1c && c < 64

/-- Runs of set bits of a mask among `n`, as (first, length) pairs. -/
def maskRuns (mask : Nat) : Nat → Nat → List (Nat × Nat)
  | 0, _ => []
  | k + 1, i =>
    match maskRuns mask k (i + 1) with
    | (j, m) :: r => if bitAt mask i then (if j = i + 1 then (i, m + 1) :: r else (i, 1) :: (j, m) :: r) else (j, m) :: r
    | [] => if bitAt mask i then [(i, 1)] else []

/-- The tags of one write, one after another (16 R384); the flag says whether to perform it. -/
def State.tagAll (s : State) (ln : Nat) (tags : List (Nat × Nat)) (team : Option Nat) (f : PendFault) : State × Bool :=
  tags.foldl (fun (acc : State × Bool) g =>
    let (s1, go) := acc.1.tagLine g.1 g.2 ln true team f
    (s1, acc.2 && go)) (s, true)

/-- Write back the dirty bytes of a line, with the marks of its granules (17 R406): the line becomes clean and its owner set empty
(R364).  One tagged unit. -/
def State.l1WriteBack (s : State) (c ln : Nat) : State :=
  match SMap.get? (s.core c).l1 ln with
  | none => s
  | some l =>
    if l.dirty = 0 then s
    else
      let owner := l.owners.head?
      let f : PendFault := { cause := .shadowfull, eng := 0, addr := BitVec.ofNat 64 (2 ^ 63 + 128 * ln) }
      let s1 := s.updCore c fun k =>
        { k with l1 := SMap.insert k.l1 ln { l with dirty := 0, owners := [], writes := [], tags := [] } }
      let bs := toBytes 128 l.data.toNat
      let hit (g : Nat) : Bool := bitAt l.marks.toNat g
      if destOf (128 * ln) = .hbm then
        let (s2, go) := s1.tagAll ln l.tags owner f
        if go then
          let s3 := (maskRuns l.dirty.toNat 128 0).foldl (fun (s : State) r =>
            s.performBytes (128 * ln + r.1) ((bs.drop r.1).take r.2) false) s2
          { s3 with marks := setUnion ((if hit 0 then [2 * ln] else []) ++ (if hit 1 then [2 * ln + 1] else [])) s3.marks }
        else s2
      else
        -- a port sends the writes of an agent in the order it issued them (19 R428)
        (maskRuns l.dirty.toNat 128 0).foldl (fun (s : State) r =>
          s.performWrite { slot := owner, tid := ((owner.bind s.team?).map (·.tid)).getD 0, eng := 0, pc := 0, seq := 0, asid := l.asid,
                           va := l.va, pa := 128 * ln + r.1, bytes := (bs.drop r.1).take r.2,
                           mark := (unitsOf 64 r.1 r.2).any hit })
          (s1.performWrites fun w => owner.isSome && w.slot = owner && w.eng = 0 && destOf w.pa = destOf (128 * ln))

/-- A line leaves the L1; the flag of a block that held it is cleared (R211). -/
def Team.blockDrop (t : Team) (ln : Nat) : Team :=
  { t with blocks := t.blocks.map fun b =>
      if (b.2.lines.map (·.1)).contains ln then (b.1, { b.2 with flag := false }) else b }

/-- Team slots of a core. -/
def slotsOf (c : Nat) : List Nat := List.range' (16 * c) 16

def State.l1Drop (s : State) (c ln : Nat) : State :=
  (slotsOf c).foldl (fun (s : State) n => s.updTeam n (·.blockDrop ln))
    (s.updCore c fun k => { k with l1 := SMap.erase k.l1 ln })

/-- Lines of the blocks that the core's teams hold (log 15). -/
def State.blockLines (s : State) (c : Nat) (p : Nat → Block → Bool) : List Nat :=
  (slotsOf c).foldl (fun acc n =>
    match s.team? n with
    | none => acc
    | some t => t.blocks.foldl (fun acc b => if p n b.2 then setUnion (b.2.lines.map (·.1)) acc else acc) acc) []

/-- Make room for one line in a full L1: the lowest ordinary line, else the whole earliest block of a team that is not
issuing (R211; which ordinary line goes is open, log 15). -/
def State.l1Room (s : State) (c : Nat) : State :=
  let k := s.core c
  if k.l1.length < 12288 then s
  else
    let blk := s.blockLines c fun _ _ => true
    match k.l1.find? fun p => !blk.contains p.1 with
    | some p => (s.l1WriteBack c p.1).l1Drop c p.1
    | none =>
      let cand := (slotsOf c).foldl (fun (acc : Option (Nat × Nat × Block)) n =>
        if k.issuing = some n then acc
        else
          match s.team? n with
          | none => acc
          | some t => t.blocks.foldl (fun acc b =>
              if b.2.evicted then acc
              else
                match acc with
                | none => some (n, b.1, b.2)
                | some a => if b.2.decl < a.2.2.decl then some (n, b.1, b.2) else some a) acc) none
      match cand with
      | none => s
      | some (n, f, b) =>
        let s1 := b.lines.foldl (fun (s : State) l => (s.l1WriteBack c l.1).l1Drop c l.1) s
        s1.updTeam n fun t => { t with blocks := SMap.insert t.blocks f { b with evicted := true, flag := false } }

/-- The contents of a line where it has its home, with the marks of its granules: the home slice, or a read on a port (17 R406). -/
def State.lineHome (s : State) (c ln : Nat) : State × BitVec 1024 × BitVec 2 :=
  if destOf (128 * ln) = .hbm then
    (s, BitVec.ofNat 1024 (ofBytes (s.readHbm (128 * ln) 128)),
     BitVec.ofNat 2 ((if s.marks.contains (2 * ln) then 1 else 0) + (if s.marks.contains (2 * ln + 1) then 2 else 0)))
  else
    let (s1, bs, m) := s.unitRead c c (128 * ln) 128 true
    (s1, BitVec.ofNat 1024 (ofBytes bs), if m then 3 else 0)

/-- Bring a line into the L1 from its home with its granule marks (17 R406). -/
def State.l1Fill (s : State) (c ln asid va order : Nat) : State :=
  match SMap.get? (s.core c).l1 ln with
  | some _ => s
  | none =>
    let (s1, data, marks) := (s.l1Room c).lineHome c ln
    let l : L1Line := { data := data, marks := marks, order := order, asid := asid, va := va }
    s1.updCore c fun k => { k with l1 := SMap.insert k.l1 ln l }

/-- A clean line that the L1 holds takes the contents of its home slice; one of a port takes the bytes written. -/
def State.l1Refresh (s : State) (c ln off : Nat) (bs : List Byte) : State :=
  s.updCore c fun k =>
    match SMap.get? k.l1 ln with
    | none => k
    | some l =>
      if destOf (128 * ln) = .hbm then
        let (_, data, marks) := s.lineHome c ln
        { k with l1 := SMap.insert k.l1 ln { l with data := data, marks := marks } }
      else
        let data := BitVec.ofNat 1024 (setBits l.data.toNat (8 * off) (8 * bs.length) (ofBytes bs))
        { k with l1 := SMap.insert k.l1 ln { l with data := data } }

/-- Write back every line of the core that `p` selects. -/
def State.l1WriteBackAll (s : State) (c : Nat) (p : Nat → L1Line → Bool) : State :=
  ((s.core c).l1.filter fun e => p e.1 e.2).foldl (fun (s : State) e => s.l1WriteBack c e.1) s

/-- A team's dirty lines on pages of the kinds `ords` are written back (R364, R365). -/
def State.writeBackTeam (s : State) (n : Nat) (ords : List Nat) : State :=
  s.l1WriteBackAll (coreOfSlot n) fun _ l => l.owners.contains n && ords.contains l.order

/-- Invalidate the lines of a core that `p` selects, but for those of `keep`; dirty bytes are written back first (R364). -/
def State.invalidateBut (s : State) (c : Nat) (keep : List Nat) (p : Nat → L1Line → Bool) : State :=
  ((s.core c).l1.filter fun e => p e.1 e.2 && !keep.contains e.1).foldl
    (fun (s : State) e => (s.l1WriteBack c e.1).l1Drop c e.1) s

/-- Invalidate the clean lines of a core that `p` selects, but for lines of load blocks whose flag is set (R365). -/
def State.invalidateClean (s : State) (c : Nat) (p : Nat → L1Line → Bool) : State :=
  s.invalidateBut c (s.blockLines c fun _ b => b.flag) p

def State.invalidateKinds (s : State) (n : Nat) (ords : List Nat) : State :=
  s.invalidateClean (coreOfSlot n) fun _ l => ords.contains l.order

/-! The write-drain count (03 R57, 15 R368). -/

/-- Whether a write of the team numbered at most `k` has not drained to device scope (log 23). -/
def State.undrained (s : State) (n k : Nat) : Bool :=
  s.fabric.any (fun w => w.slot = some n && w.num ≤ k) ||
  s.atomq.any (fun a => a.slot = n && a.num ≤ k) ||
  (s.core (coreOfSlot n)).l1.any (fun e => e.2.writes.any fun w => w.1 = n && w.2 ≤ k)

/-! The kernel translation table (05 R106-R110). -/

/-- What an access needs of its entry. -/
inductive Acc where
  | r | w | rw
deriving DecidableEq, Repr

def Acc.ok (a : Acc) (e : KttEntry) : Bool :=
  match a with
  | .r => e.r
  | .w => e.w
  | .rw => e.r && e.w

def KttEntry.covers (e : KttEntry) (va : Nat) : Bool := e.va ≤ va && va < e.va + 2 ^ e.log2

/-- The team's kernel slot. -/
def State.kslot (s : State) (n : Nat) (t : Team) : KSlot :=
  let k := s.core (coreOfSlot n)
  match k.ks0, k.ks1 with
  | some a, b => if a.tid = t.tid then a else b.getD { tid := t.tid }
  | none, b => b.getD { tid := t.tid }

/-- A failed lookup: cause, index of the entry (0 for KTTMISS), failing address. -/
structure KttFail where
  cause : Cause
  idx : Nat
  addr : Nat
deriving DecidableEq, Repr

/-- The lookup of R109 for one address. -/
def kttLookup (ks : KSlot) (va : Nat) (a : Acc) : Except KttFail KttEntry :=
  match ks.ktt.findIdx? (·.covers va) with
  | none => .error ⟨.kttmiss, 0, va⟩
  | some i =>
    match ks.ktt[i]? with
    | none => .error ⟨.kttmiss, 0, va⟩
    | some e =>
      if ks.bad.contains (6, i) then .error ⟨.poison, 0, va⟩
      else if e.rev then .error ⟨.kttrevoked, i, va⟩
      else if a.ok e then .ok e
      else .error ⟨.kttperm, i, va⟩

/-- One part of an access: physical and virtual address, length, entry. -/
structure Part where
  pa : Nat
  va : Nat
  len : Nat
  e : KttEntry
deriving DecidableEq, Repr

/-- An access split where entries end (R109, 09 R198): any failing part fails it whole. -/
def kttParts (ks : KSlot) (a : Acc) : Nat → Nat → Nat → Except KttFail (List Part)
  | 0, _, _ => .ok []
  | k + 1, va, len =>
    if len = 0 then .ok []
    else
      match kttLookup ks va a with
      | .error f => .error f
      | .ok e =>
        let m := min len (e.va + 2 ^ e.log2 - va)
        match kttParts ks a k ((va + m) % 2 ^ 64) (len - m) with
        | .error f => .error f
        | .ok r => .ok (⟨e.pa + (va - e.va), va, m, e⟩ :: r)

/-! Scratchpad and the tile directory (11 R255-R258, 14 R344-R350). -/

def Team.bankCount (t : Team) : Nat := if t.gather && t.k.kind = 2 then t.k.gnbank else t.k.nbank
/-- End of the team's local addresses (02 R34). -/
def Team.spEnd (t : Team) : Nat := t.bankCount * 0x20000

/-- The bank that holds a local byte. -/
def bankOf (la : Nat) : Nat := la / 0x20000
/-- The banks of the 64-byte beats of some ranges, in order (06 R130). -/
def beatsOf (ps : List (Nat × Nat)) : List Nat := ps.flatMap fun p => (unitsOf 64 p.1 p.2).map fun u => bankOf (64 * u)

def Team.spByte (t : Team) (la : Nat) : Byte := SMap.get 0 t.sp la
def Team.spRead (t : Team) (la n : Nat) : List Byte := SMap.getList 0 t.sp la n
def Team.spMarked (t : Team) (la n : Nat) : Bool := markedRange 64 t.spMarks la n

def Team.fmtReg (t : Team) (bank : Nat) : Nat := (SMap.get 0 t.fmts bank).toNat
def Team.fmt (t : Team) (la : Nat) : Nat := bitsOf (t.fmtReg (la / 0x20000)) 0 4
def Team.layout (t : Team) (la : Nat) : Nat := bitsOf (t.fmtReg (la / 0x20000)) 4 2
def Team.planes (t : Team) (la : Nat) : Nat := bitsOf (t.fmtReg (la / 0x20000)) 6 4 + 1
def Team.rowsL2 (t : Team) (la : Nat) : Nat := bitsOf (t.fmtReg (la / 0x20000)) 10 8
def Team.colsL2 (t : Team) (la : Nat) : Nat := bitsOf (t.fmtReg (la / 0x20000)) 18 8

/-- Bits of an element as the directory reads a dtile (14 Table 14-1). -/
def Team.dirBits (t : Team) (la : Nat) : Nat := if t.layout la = 1 then 1 else fmtBits (t.fmt la)

/-- The elements of a dtile. -/
def Team.dtileElems (t : Team) (dt : Nat) : List Nat :=
  let w := t.dirBits (4096 * dt)
  (t.spRead (4096 * dt) 4096).flatMap fun b =>
    if w < 8 then (List.range (8 / w)).map fun i => bitsOf b.toNat (w * i) w else [b.toNat]

/-- Group single bytes into elements of `n` bytes. -/
def joinBytes (n : Nat) (l : List Nat) : List Nat :=
  if n ≤ 1 then l else (chunksOf n l.length l).map fun c => c.foldr (fun b acc => b + 256 * acc) 0

/-- DirectoryClass of R346 on a dtile's contents. -/
def Team.classify (t : Team) (dt : Nat) : DClass × Nat :=
  let la := 4096 * dt
  let w := t.dirBits la
  let es := joinBytes (w / 8) (t.dtileElems dt)
  let x0 := es.headD 0
  let fmt := t.fmt la
  let eb := w / 8
  let one := if fmt = 7 then 0x3F80 else 1
  let rows := 2 ^ t.rowsL2 la
  let cols := 2 ^ t.colsL2 la
  if es.all (· = 0) then (.zero, 0)
  else if es.all (· = x0) then (.const, x0)
  else if t.layout la = 0 && (fmt = 2 || fmt = 4 || fmt = 7) &&
      (es.zipIdx.all fun p =>
        let i := (la + p.2 * eb) % (rows * cols * eb) / eb
        p.1 = (if i / cols = i % cols then one else 0)) then (.ident, 0)
  else (.gen, 0)

/-- Whether the elements of a dtile are special in a row-major bank. -/
def Team.dtileSpecial (t : Team) (dt : Nat) : Bool :=
  t.layout (4096 * dt) = 0 && (joinBytes (t.dirBits (4096 * dt) / 8) (t.dtileElems dt)).any (fmtSpecial (t.fmt (4096 * dt)))

def Team.dir (t : Team) (dt : Nat) : DEntry := SMap.get {} t.dirs dt
def Team.setDir (t : Team) (dt : Nat) (e : DEntry) : Team := { t with dirs := SMap.put {} t.dirs dt e }

/-- The patterns of the elements of a dtile that bytes at the addresses `as` touch. -/
def Team.touched (t : Team) (dt : Nat) (as : List Nat) : List Nat :=
  let w := t.dirBits (4096 * dt)
  let la := as.filter fun a => a / 4096 = dt
  if w < 8 then la.flatMap fun a => (List.range (8 / w)).map fun i => bitsOf (t.spByte a).toNat (w * i) w
  else
    let n := w / 8
    ((la.map fun a => a / n * n).eraseDups).map fun a => ofBytes (t.spRead a n)

/-- A write lands in a dtile: one that a TDSCAN is reading ends as GEN (09 R224). -/
def Team.scanNote (t : Team) (dt : Nat) : Team :=
  match t.scanDt with
  | some (d, _) => if d = dt then { t with scanDt := some (d, true) } else t
  | none => t

/-- A write lands in a dtile: what jobs were covering of it is interrupted (R348). -/
def Team.coverBreak (t : Team) (dt : Nat) : Team := { t with covers := t.covers.filter (·.dt ≠ dt) }

/-- A partial write's update of an entry (R349), after the bytes have been written. -/
def Team.dirPartial (t : Team) (dt : Nat) (as : List Nat) (poison special : Bool) : Team :=
  let e := t.dir dt
  let es := t.touched dt as
  let sp := special || (t.layout (4096 * dt) = 0 && es.any (fmtSpecial (t.fmt (4096 * dt))))
  let cls :=
    match e.cls with
    | .zero => if es.all (· = 0) then DClass.zero else .gen
    | .const => if es.all (· = e.value.toNat) then DClass.const else .gen
    | _ => .gen
  ((t.scanNote dt).coverBreak dt).setDir dt { cls := cls, value := if cls = .const then e.value else 0, special := e.special || sp,
                                              poison := e.poison || poison }

/-- A whole-dtile write's setting of an entry (R346, R348). -/
def Team.dirWhole (t : Team) (dt : Nat) (special poison : Bool) : Team :=
  let (cls, v) := t.classify dt
  ((t.scanNote dt).coverBreak dt).setDir dt
    { cls := cls, value := BitVec.ofNat 32 (if cls = .const then v else 0), special := special || t.dtileSpecial dt, poison := poison }

/-- TDSCAN has read the dtile it was at: its entry is set as a whole-dtile write of its contents would set it, or to GEN when a
write landed in it meanwhile (09 R224) (log 32). -/
def Team.scanEnd (t : Team) : Team :=
  match t.scanDt with
  | none => t
  | some (dt, hit) =>
    let t1 := ({ t with scanDt := none, scan := some (t.scan.getD 0 + 1) } : Team).dirWhole dt false (markedRange 64 t.spMarks (4096 * dt) 4096)
    if hit then t1.setDir dt { t1.dir dt with cls := .gen, value := 0 } else t1

/-- Write bytes into scratchpad: beats that a poisoned write touches are marked, beats covered whole by others lose
their marks. -/
def Team.spPut (t : Team) (la : Nat) (bs : List Byte) (poison : Bool) : Team :=
  { t with sp := SMap.putRun 0 t.sp la bs, spMarks := markWrite 64 t.spMarks la bs.length poison }

/-- A partial write: an SQ or VE store, a barrier unit's write, part of a job. -/
def Team.spStore (t : Team) (la : Nat) (bs : List Byte) : Team :=
  let t1 := t.spPut la bs false
  (unitsOf 4096 la bs.length).foldl (fun (t : Team) dt => t.dirPartial dt (List.range' la bs.length) false false) t1

/-- One run of bytes that a job lands: address, bytes, poison. -/
structure SpWrite where
  la : Nat
  bs : List Byte
  poison : Bool := false
  special : Bool := false
deriving DecidableEq, Repr

/-- The name of a job among those that cover dtiles: its team, engine and number (14 R348). -/
def Team.jobKey (t : Team) (n : Nat) (e : Engine) (seq : Nat) : Nat × Nat × Nat := (n + 2048 * t.tid, e.num, seq)

/-- Add a run of bytes to rising disjoint runs. -/
def addRun (lo hi : Nat) : List (Nat × Nat) → List (Nat × Nat)
  | [] => [(lo, hi)]
  | (a, b) :: r =>
    if hi < a then (lo, hi) :: (a, b) :: r
    else if b < lo then (a, b) :: addRun lo hi r
    else addRun (min a lo) (max b hi) r

/-- What a job has covered of a dtile after one more of its writes. -/
def Cover.add (c : Cover) (w : SpWrite) : Cover :=
  let lo := max w.la (4096 * c.dt)
  let hi := min (w.la + w.bs.length) (4096 * c.dt + 4096)
  let beats := unitsOf 64 lo (hi - lo)
  { c with runs := addRun lo hi c.runs, special := c.special || w.special,
           bad := if w.poison then setUnion beats c.bad
                  else c.bad.filter fun u => !(lo ≤ 64 * u && 64 * u + 64 ≤ hi) }

/-- Writes of one job, drain or fill into scratchpad, in order, with the directory's update of each dtile (R348, R349): whole when the
job has now written all its 4,096 bytes and no other write came between, which leaves the marks and POISON of what it wrote alone;
partial until then.  `key` names the job. -/
def Team.spJob (t : Team) (key : Nat × Nat × Nat) (ws : List SpWrite) : Team :=
  let t1 := ws.foldl (fun (t : Team) w => t.spPut w.la w.bs w.poison) t
  let dts := (ws.flatMap fun w => unitsOf 4096 w.la w.bs.length).eraseDups
  dts.foldl (fun (t : Team) dt =>
    let mine := ws.filter fun w => (unitsOf 4096 w.la w.bs.length).contains dt
    let c0 : Cover := (t.covers.find? fun c => c.key = key && c.dt = dt).getD { key := key, dt := dt, runs := [] }
    let c1 := mine.foldl Cover.add c0
    if c1.runs = [(4096 * dt, 4096 * dt + 4096)] then
      ({ t with spMarks := setUnion c1.bad (t.spMarks.filter fun u => u / 64 ≠ dt) } : Team).dirWhole dt c1.special (c1.bad ≠ [])
    else
      let as := (mine.flatMap fun w => (List.range' w.la w.bs.length).filter fun a => a / 4096 = dt).eraseDups
      let u := t.dirPartial dt as (mine.any (·.poison)) (mine.any (·.special))
      { u with covers := u.covers ++ [c1] }) t1

/-! STATUS flags (07 Table 7-13). -/

def Team.setFlag (t : Team) (i : Nat) : Team := { t with status := t.status ||| (1#64 <<< i) }

/-! Channels (06 R131-R133). -/

/-- The channel's declaration for the team's kind (02 R35, R36). -/
def Team.chanDecl (t : Team) (i : Nat) : Option ChanDecl :=
  match t.k.chans[i]? with
  | none => none
  | some d => if (if t.gather then d.gt else d.ct) then some d else none

def Team.chan (t : Team) (i : Nat) : Chan := SMap.get {} t.chans i
def Team.setChan (t : Team) (i : Nat) (c : Chan) : Team := { t with chans := SMap.put {} t.chans i c }

/-- Whether slots `from … from + n - 1`, modulo the count, are all full, or all empty, at the end of the previous cycle (R133). -/
def Chan.allFull (c : Chan) (slots start n : Nat) : Bool :=
  (List.range n).all fun i => c.shown.contains ((start + i) % slots)
def Chan.allEmpty (c : Chan) (slots start n : Nat) : Bool :=
  (List.range n).all fun i => !c.shown.contains ((start + i) % slots)

/-- Producer and consumer advances (Table 6-6). -/
def Chan.produce (c : Chan) (slots n : Nat) : Chan :=
  { c with full := setUnion ((List.range n).map fun i => (c.p + i) % slots) c.full, p := (c.p + n) % slots }
def Chan.consume (c : Chan) (slots n : Nat) : Chan :=
  { c with full := c.full.filter fun j => !((List.range n).map fun i => (c.c + i) % slots).contains j,
           c := (c.c + n) % slots }

/-! Barrier objects: 16 bytes of scratchpad (02 R37, 06 R134-R136). -/

def Team.barDecl (t : Team) (b : Nat) : Option BarDecl :=
  match t.k.bars[b]? with
  | none => none
  | some d => if (if t.gather then d.gt else d.ct) then some d else none

/-- The fields of an object (Table 6-7). -/
structure Bar where
  exp : Nat
  phase : Bool
  arrover : Bool
  byteover : Bool
  pend : Nat
  pbytes : Nat
  count : Nat
deriving DecidableEq, Repr

def Team.bar (t : Team) (d : BarDecl) : Bar :=
  let w0 := ofBytes (t.spRead d.addr 4)
  let w1 := ofBytes (t.spRead (d.addr + 4) 4)
  { exp := bitsOf w0 16 16, phase := bitAt w0 0, arrover := bitAt w1 17, byteover := bitAt w1 16, pend := bitsOf w1 0 16,
    pbytes := ofBytes (t.spRead (d.addr + 8) 4), count := ofBytes (t.spRead (d.addr + 12) 4) }

def Team.setBar (t : Team) (d : BarDecl) (b : Bar) : Team :=
  let w0 := b.exp * 65536 + (if b.phase then 1 else 0)
  let w1 := (if b.arrover then 2 ^ 17 else 0) + (if b.byteover then 2 ^ 16 else 0) + b.pend
  t.spStore d.addr (toBytes 4 w0 ++ toBytes 4 w1 ++ toBytes 4 b.pbytes ++ toBytes 4 b.count)

/-- Step 4 of R135: the phase completes when nothing is pending. -/
def Bar.test (b : Bar) : Bar :=
  if b.pend = 0 && b.pbytes = 0 then
    { b with phase := !b.phase, pend := b.exp, count := (b.count + 1) % 2 ^ 32 }
  else b

/-- Step 1 of R135. -/
def Bar.expect (b : Bar) (n : Int) : Bar := { b with pbytes := wrap ((b.pbytes : Int) + n) 32 }

/-- Step 2 of R135, with whether it overruns. -/
def Bar.land (b : Bar) (n : Nat) : Bar × Bool :=
  let p := wrap ((b.pbytes : Int) - n) 32
  let above := b.pend = 0 && 2 ^ 31 ≤ p
  ({ b with pbytes := p, byteover := b.byteover || above }, above)

/-- Step 3 of R135, with whether it overruns. -/
def Bar.arrive (b : Bar) : Bar × Bool :=
  if 0 < b.pend then ({ b with pend := b.pend - 1 }, false) else ({ b with arrover := true }, true)

/-- The cycle under way asks something of an object. -/
def Team.barStep (t : Team) (d : BarDecl) (b : BarStep) : Team := { t with barSteps := t.barSteps ++ [(d, b)] }
def Team.barExpect (t : Team) (d : BarDecl) (n : Int) : Team := t.barStep d (.expect n)
def Team.barLand (t : Team) (d : BarDecl) (n : Nat) : Team := t.barStep d (.land n)
def Team.barArrive (t : Team) (d : BarDecl) : Team := t.barStep d .arrive
/-- BINIT (09 R213). -/
def Team.barInit (t : Team) (d : BarDecl) : Team := t.barStep d .init

/-- Step 1, 2 or 3 of R135 for one operation, with whether it overruns; a reset comes after step 4. -/
def Bar.apply (b : Bar) : BarStep → Bar × Bool
  | .expect n => (b.expect n, false)
  | .land n => b.land n
  | .arrive => b.arrive
  | .init => ({ exp := b.exp, phase := false, arrover := false, byteover := false, pend := b.exp, pbytes := 0, count := 0 }, false)

/-- Which step of R135 an operation belongs to; a reset follows the test. -/
def BarStep.rank : BarStep → Nat
  | .expect _ => 1 | .land _ => 2 | .arrive => 3 | .init => 5

/-- The operations of one rank, in order. -/
def Bar.applyRank (r : Nat) (bo : Bar × Bool) (l : List BarStep) : Bar × Bool :=
  (l.filter (·.rank = r)).foldl (fun x b => ((x.1.apply b).1, x.2 || (x.1.apply b).2)) bo

/-- One cycle of an object: R135's four steps, then a reset (log 33). -/
def Bar.cycle (b : Bar) (l : List BarStep) : Bar × Bool :=
  let x := Bar.applyRank 3 (Bar.applyRank 2 (Bar.applyRank 1 (b, false) l) l) l
  Bar.applyRank 5 (x.1.test, x.2) l

/-- The cycle ends: each object takes what was asked of it, and the full bits as they now stand are those that the next
cycle's waits and advances see (06 R133, R135) (log 33). -/
def Team.settle (t : Team) : Team :=
  let t1 := (t.barSteps.map (·.1)).eraseDups.foldl (fun (t : Team) d =>
    let (b, above) := (t.bar d).cycle ((t.barSteps.filter (·.1 = d)).map (·.2))
    (if above then t.setFlag 1 else t).setBar d b) t
  { t1 with barSteps := [], chans := SMap.mapVals {} t1.chans fun c =>
    { c with shown := c.full, shownP := c.p, shownC := c.c } }

/-! Registers of the SQ (09 R190). -/

/-- s[n]; s0 reads zero. -/
def Team.s (t : Team) (r : BitVec 6) : DWord := if r = 0 then 0 else SMap.get 0 t.sq.s r.toNat

/-- WriteReg(n, v): writes to s0 are discarded; a write clears the register's poison mark (R200). -/
def Team.setS (t : Team) (r : BitVec 6) (v : DWord) : Team :=
  if r = 0 then t
  else { t with sq := { t.sq with s := SMap.put 0 t.sq.s r.toNat v, marks := SMap.erase t.sq.marks r.toNat } }

/-- Write a loaded value, with its poison mark and the load's word index. -/
def Team.loadS (t : Team) (r : Nat) (v : DWord) (mark : Bool) (pc : Nat) : Team :=
  let t1 := t.setS (BitVec.ofNat 6 r) v
  if mark && r ≠ 0 then { t1 with sq := { t1.sq with marks := SMap.insert t1.sq.marks r pc } } else t1

/-! Switching (04 R87-R89). -/

def State.loaded (s : State) (n : Nat) (t : Team) : Bool := (s.kslot n t).loaded

/-- Every member of the team's gang that still holds its slot is resident (04 R86). -/
def State.gangResident (s : State) (n : Nat) (t : Team) : Bool :=
  t.gang.all fun m =>
    match s.team? m with
    | some u => u.res = .resident || u.tid ≠ t.tid || !u.gang.contains n
    | none => true

/-- A team is ready (04 R87): resident with its gang, banks cleared, kernel slot loaded, neither parked nor halted. -/
def State.ready (s : State) (n : Nat) : Bool :=
  match s.team? n with
  | none => false
  | some t =>
    t.res = .resident && s.gangResident n t && t.banksReady && s.loaded n t && t.park.isNone && !t.halted && !t.preempt

/-- The next ready team after a slot of the core, cyclically; the slot itself comes last. -/
def State.nextReady (s : State) (c after : Nat) : Option Nat :=
  ((List.range 16).map fun i => 16 * c + (after + 1 + i) % 16).find? s.ready

/-- An error in the saved context of a team is an asynchronous POISON at its restoration (17 Table 17-6). -/
def Team.restored (t : Team) : Team :=
  if t.tdSlot then
    ({ t with tdSlot := false } : Team).pendFault { cause := .poison, eng := 6, operand := 13, async := true }
  else t

/-- A nest whose validation is under way ends it (13 Table 13-9). -/
def MeItem.halt : MeItem → MeItem
  | .nest n => .nest { n with vcyc := 8 }
  | i => i

/-- The ME halts (13 Table 13-9, 14 R355): rows that have not been finished are done again, a B load is discarded, a pass that is one
array step runs to its end.  With a switch the shadow cells are lost. -/
def MeState.halt (m : MeState) (switch : Bool) : MeState :=
  let m1 := { m with load := none, queue := m.queue.map MeItem.halt, next := if switch then none else m.next }
  if m.begun && m.el.single then { m1 with at_ := m.dur } else { m1 with begun := false, at_ := 0, dur := 0, el := {} }

/-- A team begins to issue on its core.  Its time of issue starts, and it holds the ME's part of the switch.  A turn of the core that a
team before it began starts anew. -/
def State.startIssue (s : State) (n : Nat) (hold : Bool) : State :=
  ({ s with sel := if s.sel.core = coreOfSlot n then { core := s.sel.core } else s.sel }.updCore (coreOfSlot n) fun k =>
    { k with issuing := some n, incoming := none, last := n % 16, at_ := max k.at_ s.time.toNat }).updTeam n fun t =>
    ({ t.settle with issuedAt := s.time.toNat, lastCharge := s.time.toNat, me := { t.me with hold := if hold then some 1792 else none } } : Team).restored

/-- Occupancy of the team up to now is charged to its queue and its quantum (03 R67). -/
def State.charge (s : State) (n : Nat) : State :=
  match s.team? n with
  | none => s
  | some t =>
    let d := s.time.toNat - t.lastCharge
    (s.setTeam n { t with lastCharge := s.time.toNat, issueTime := t.issueTime + d }).updQueue t.queue fun q =>
      { q with dc := q.dc - d }

/-- The outgoing team stops issuing; the next ready team, if any, comes in through a switch (R88). -/
def State.switchOut (s : State) (c n : Nat) : State :=
  let s1 := ((s.charge n).updTeam n fun t => { t.settle.scanEnd with leaving := false, me := t.settle.scanEnd.me.halt true }).updCore c fun k =>
    { k with issuing := none, last := n % 16 }
  s1.updCore c fun k => { k with incoming := s1.nextReady c (n % 16) }

/-- Every read in flight has landed and no reply is outstanding (R94) (log 41). -/
def State.landed (s : State) (n : Nat) (t : Team) : Bool :=
  (t.sq.landing.all fun l => l.arrived) && t.sq.replies.isEmpty && !(s.atomq.any fun a => a.slot = n && a.d.isSome) &&
  !(s.host.outReqs.any fun q => q.slot = n && q.op ≠ 98)

/-- A team that leaves its core once its reads have landed (R87, R89): a parked team always; another one only when a different
team is ready, otherwise it goes on and its quantum starts anew (log 41). -/
def State.leaveCore (s : State) (n : Nat) : State :=
  match s.team? n with
  | none => s
  | some t =>
    if !t.leaving ∨ !s.landed n t then s
    else if t.park.isSome ∨ ((s.nextReady (coreOfSlot n) (n % 16)).getD n) ≠ n then s.switchOut (coreOfSlot n) n
    else s.setTeam n { t with leaving := false, issuedAt := s.time.toNat }

/-- The issuing team is to leave its core (Table 4-2): at once, or when its reads in flight have landed (R89) (log 41). -/
def State.leave (s : State) (n : Nat) : State := (s.updTeam n fun t => { t with leaving := true }).leaveCore n

/-- A team that does not issue takes at once what the jobs of other teams ask of its objects and channels. -/
def State.settleIdle (s : State) (n : Nat) : State :=
  if (s.core (coreOfSlot n)).issuing = some n then s else s.updTeam n Team.settle

/-- A core with no issuing team lets the first ready team issue without a switch cost (R87). -/
def State.wakeCore (s : State) (c : Nat) : State :=
  let k := s.core c
  if k.issuing.isNone && k.incoming.isNone && !k.fenced then
    match s.nextReady c k.last with
    | some n => s.startIssue n false
    | none => s
  else s

/-- Release a team slot: the team's blocks become ordinary lines, its kernel slots are freed when it was their last
team, and the core switches (04 R85, R87). -/
def State.releaseSlot (s : State) (n : Nat) : State :=
  let c := coreOfSlot n
  match s.team? n with
  | none => s
  | some t =>
    let issuing := (s.core c).issuing = some n
    let s0 := if issuing then s.charge n else s
    let s1 := s0.eraseTeam n
    let others := (slotsOf c).any fun m => match s1.team? m with
      | some u => u.tid = t.tid
      | none => false
    let free (o : Option KSlot) : Option KSlot := o.bind fun a => if a.tid = t.tid && !others then none else some a
    let s2 := s1.updCore c fun k => { k with ks0 := free k.ks0, ks1 := free k.ks1 }
    if issuing then
      let s3 := s2.updCore c fun k => { k with issuing := none, last := n % 16 }
      s3.updCore c fun k => { k with incoming := s3.nextReady c (n % 16) }
    else s2.updCore c fun k => { k with incoming := if k.incoming = some n then s2.nextReady c k.last else k.incoming }

/-! Killing (17 R403). -/

/-- Whether a write that the stamp of a team counts has not drained: the team's slot, task and TEAMIX name it.  A stamp is the
low 32 bits of a count (03 R57). -/
def State.unstamped (s : State) (n tid tix cnt : Nat) : Bool :=
  let early (k : Nat) : Bool := (cnt + 2 ^ 32 - k % 2 ^ 32) % 2 ^ 32 < 2 ^ 31
  let here : Bool := match s.team? n with
    | some t => t.tid = tid && t.teamix = tix
    | none => false
  s.fabric.any (fun w => w.slot = some n && w.tid = tid && w.tix = tix && early w.num) ||
  s.atomq.any (fun a => a.slot = n && a.tid = tid && a.tix = tix && early a.num) ||
  (here && (s.core (coreOfSlot n)).l1.any fun e => e.2.writes.any fun w => w.1 = n && early w.2)

/-- Tasks, and records not yet admitted, stamped by a team that is killed before the stamped writes drained are cancelled (03
R58) (log 39). -/
def State.cancelStamped (s : State) (n : Nat) (t : Team) : State :=
  { s with
    tasks := s.tasks.map fun k =>
      match k.stamp with
      | some (m, cnt) =>
        if m = n && k.stampTid = t.tid && k.stampIx = t.teamix && s.unstamped n t.tid t.teamix cnt && !k.started
        then { k with cancelled := some (BitVec.ofNat 32 (0x08000000 + n)) } else k
      | none => k,
    stamped := s.stamped.map fun r =>
      if r.slot = n && r.tid = t.tid && r.tix = t.teamix && s.unstamped n t.tid t.teamix r.cnt then { r with dead := true } else r }

/-- Discard one team.  Its writes already issued drain; its task notes the first failure. -/
def State.discardTeam (s : State) (n : Nat) (fail : BitVec 32) : State :=
  match s.team? n with
  | none => s
  | some t =>
    let s1 := (s.cancelStamped n t).writeBackTeam n [0, 1, 2]
    let s2 := s1.updTask t.tid fun k =>
      { k with exited := setInsert t.teamix k.exited, slots := k.slots.filter (· ≠ n),
               fail := if k.fail.isSome then k.fail else some fail }
    s2.releaseSlot n

/-- Kill a team, with every member of its gang. -/
def State.killTeam (s : State) (n : Nat) (fail : BitVec 32) : State :=
  match s.team? n with
  | none => s
  | some t =>
    let here (m : Nat) : Bool := match s.team? m with
      | some u => u.tid = t.tid
      | none => false
    (if t.gang.contains n then t.gang.filter here else [n]).foldl (fun (s : State) m => s.discardTeam m fail) s

/-! Taking a fault (17 R397-R404). -/

/-- FAULT0-FAULT7 for a fault taken with the SQ at word `sqpc` (17 Tables 17-2 to 17-4) (log 21). -/
def faultRecord (f : PendFault) (sqpc : Nat) (time : DWord) (tag : BitVec 32) : List DWord :=
  let ix (i : Nat) : Nat := f.idx.getD i 0 % 65536
  [BitVec.ofNat 64 (f.code % 65536 * 2 ^ 32 + f.field % 256 * 2 ^ 24 + f.operand % 256 * 2 ^ 16 +
     (if f.multi then 2 ^ 13 else 0) + (if f.async then 2 ^ 12 else 0) + 2 ^ 11 + f.eng % 8 * 2 ^ 8 + f.cause.code),
   BitVec.ofNat 64 (sqpc % 2 ^ 32 * 2 ^ 32 + f.pc % 2 ^ 32),
   f.addr,
   BitVec.ofNat 64 (f.info % 2 ^ 32 * 2 ^ 32 + f.seq % 2 ^ 32),
   BitVec.ofNat 64 (ix 0 + ix 1 * 2 ^ 16 + ix 2 * 2 ^ 32 + ix 3 * 2 ^ 48),
   BitVec.ofNat 64 (f.row % 65536 * 2 ^ 32 + ix 4 + ix 5 * 2 ^ 16),
   time,
   BitVec.ofNat 64 (tag.toNat * 2 ^ 32 + f.count % 2 ^ 32)]

/-- A write that an L1 write-back dropped carries the line's physical address and names SQPC as its word (16 R395). -/
def PendFault.atStop (f : PendFault) (sqpc : Nat) : PendFault :=
  if f.cause = .shadowfull && 2 ^ 63 ≤ f.addr.toNat then { f with pc := sqpc } else f

/-- The value a load writes and its poison mark; none while a port still owes a part. -/
def Landing.value (l : Landing) : Option (DWord × Bool) :=
  if l.parts.any (·.req.isSome) then none
  else
    let v := ofBytes (l.parts.flatMap (·.bytes))
    some (if l.sgn then BitVec.ofInt 64 (signExt v (8 * l.size)) else BitVec.ofNat 64 v, l.parts.any (·.mark))

/-- Loads outstanding when a team stops on a fault land whenever they arrive, whatever cycle they name (R398 step 3) (log 20). -/
def Team.landAll (t : Team) : Team :=
  t.sq.landing.foldl (fun (t : Team) l =>
    match l.arrived, l.value with
    | true, some (v, m) => t.loadS l.d v m l.pc
    | _, _ => { t with sq := { t.sq with landing := t.sq.landing ++ [{ l with named := none }] } })
    { t with sq := { t.sq with landing := [] } }

/-- Every engine has halted: the pending fault is recorded (R398, R399).  A fault in the handler leaves the record (log 20).  FAULT7 takes
the count of dropped writes when the handler begins. -/
def State.faultHalt (s : State) (n : Nat) : State :=
  match s.team? n with
  | none => s
  | some t =>
    match t.pend with
    | none => s
    | some f =>
      let t1 := { t.landAll.scanEnd with me := t.landAll.scanEnd.me.halt false, pend := none, halting := some f, waitDrain := none, exiting := none, flushSent := false }
      s.setTeam n (if t.inHandler then t1
        else { t1 with faults := faultRecord (f.atStop t.sq.ctl.pc) t.sq.ctl.pc s.time t.tag, errored := true })

/-- The SQ word at which ERET resumes (R401): the faulting word of a precise SQ fault, the word after TRAP or BRK,
otherwise the word at which the SQ stopped. -/
def resumePc (f : PendFault) (sqpc : Nat) : Nat :=
  if f.cause = .trap || f.cause = .brk then f.pc + 1 else sqpc

/-- The kernel's value for a team killed by a trap cause: class 0x04 (03 Table 3-7) (log 21). -/
def trapFail (c : Cause) : BitVec 32 := BitVec.ofNat 32 (0x04000000 + c.code)

/-- Log the kill of a team: type 0x10, or 0x11 for a fault in its handler (17 Table 17-7). -/
def State.logKill (s : State) (n : Nat) (t : Team) (second : Option Cause) : State :=
  let base := [unitNum (coreOfSlot n), n, t.k.kernid.toNat, t.tag.toNat, (t.faults.getD 0 0).toNat, (t.faults.getD 1 0).toNat,
               (t.faults.getD 2 0).toNat]
  match second with
  | none => s.logRec 0x10 base
  | some c => s.logRec 0x11 (base ++ [c.code])

/-- The halted team enters its handler, or is killed when it has none, when the fault came in the handler, or for
WATCHDOG (R401-R403) (log 20). -/
def State.handlerEntry (s : State) (n : Nat) : State :=
  match s.team? n with
  | none => s
  | some t =>
    match t.halting with
    | none => s
    | some f =>
      if t.inHandler then (s.logKill n t (some f.cause)).killTeam n (trapFail f.cause)
      else if t.k.hnd && f.cause ≠ .watchdog then
        let ctl := t.sq.ctl
        s.setTeam n { t with
          faults := if f.cause = .shadowfull then t.faults.set 7 (BitVec.ofNat 64 (t.tag.toNat * 2 ^ 32 + t.dropping)) else t.faults,
          aside := some { pc := ctl.pc, scan := t.scan, woke := t.woke }, scan := none, woke := none,
          halting := none, dropping := 0, inHandler := true, epc := BitVec.ofNat 64 (resumePc f ctl.pc),
          sq := { t.sq with setAside := ctl.loops, ctl := { ctl with pc := t.k.handler, loops := [], swpt := none } } }
      else (s.logKill n t none).killTeam n (trapFail f.cause)

/-- The fault that pends is taken: recorded, and the team enters its handler or is killed.  A kill request supersedes it; a team that is
to halt, or to leave its core, records it and enters the handler when it next issues (R404) (log 20). -/
def State.takeFault (s : State) (n : Nat) : State :=
  match s.team? n with
  | none => s
  | some t =>
    if t.kill.isSome || (s.core (coreOfSlot n)).issuing ≠ some n then s
    else
      let s1 := s.faultHalt n
      if t.preempt || t.leaving then s1 else s1.handlerEntry n

/-- A fault that a team reaches.  One that an SQ word raises is taken at once, the SQ being the last engine of the cycle; one of another
engine is taken at the end of the cycle, when every engine has halted (R398).  A team that does not issue holds it until it next
issues (R404) (log 20). -/
def State.raise (s : State) (n : Nat) (f : PendFault) : State :=
  let s1 := s.updTeam n (·.pendFault f)
  if f.eng = 0 && !f.async then s1.takeFault n else s1

/-- A fault of a word of engine `e` of the issuing team: the word has no other effect (log 20). -/
def State.trap (s : State) (n : Nat) (t : Team) (e : Engine) (c : Cause) (operand addr info : Nat) : State :=
  s.raise n { cause := c, eng := e.num, pc := (t.ctl e).pc, operand := operand, addr := BitVec.ofNat 64 addr,
              info := info }

def State.illop (s : State) (n : Nat) (t : Team) (e : Engine) : State := s.trap n t e .illop 0 0 0

/-- A failed KTT lookup at a word (R109, 17 Table 17-3): the address, and the entry's index but for KTTMISS (log 21). -/
def State.kttTrap (s : State) (n : Nat) (t : Team) (e : Engine) (operand : Nat) (f : KttFail) : State :=
  s.trap n t e f.cause (if f.cause = .poison then 0 else operand) f.addr f.idx

/-- ERET in the handler (R402): the loop stack comes back, the SQ resumes at EPC, the engines are released.  An interrupted word
that EPC names goes on from where it stopped (09 R224, R225) (log 20). -/
def Team.eret (t : Team) : Team :=
  let back := t.aside.filter fun a => a.pc = t.epc.toNat
  { t with inHandler := false, aside := none, scan := back.bind (·.scan), woke := back.bind (·.woke),
           sq := { t.sq with setAside := [],
                             ctl := { t.sq.ctl with pc := t.epc.toNat, loops := t.sq.setAside } } }

/-- A word of the SQ that reads the registers `srcs`: the first marked one raises POISON with the load's word index
(09 R200). -/
def State.sqWord (s : State) (srcs : List (BitVec 6)) (f : Nat → Team → State) : Out :=
  s.onTeam fun n t =>
    match srcs.find? fun r => r ≠ 0 && (SMap.get? t.sq.marks r.toNat).isSome with
    | some r => s.trap n t .sq .poison 0 0 ((SMap.get? t.sq.marks r.toNat).getD 0)
    | none => f n t

/-- A word that only changes the team and moves on. -/
def State.sqStep (s : State) (srcs : List (BitVec 6)) (f : Team → Team) : Out :=
  s.sqWord srcs fun n t => s.setTeam n ((f t).step .sq)

end Sys2Proof.Machine
end

