-- ==== Sys2Proof/Machine/Flags.lean ====
section
/-!
DEFINITION. Sys2Proof/Machine/Flags.lean: the sticky flags of STATUS (07 Table 7-13): PWOOB bit 0, OVERRUN bit 1, CONVSAT
bit 2, CONVINF bit 3.  Setting is `Team.setFlag`; a write of ones clears.
-/
namespace Sys2Proof.Machine

/-- PWOOB: LDP read at or beyond SIZE (09 Table 9-3). -/
def Team.flagPwoob (t : Team) : Team := t.setFlag 0

/-- CONVSAT and CONVINF: a conversion saturated, or made an infinity (08 R180, 10). -/
def Team.flagConv (t : Team) (sat inf : Bool) : Team :=
  let t1 := if sat then t.setFlag 2 else t
  if inf then t1.setFlag 3 else t1

/-- A write of ones clears the flags (07 R155). -/
def Team.clearFlags (t : Team) (v : DWord) : Team := { t with status := t.status &&& ~~~v }

end Sys2Proof.Machine
end

