-- ==== Sys2Proof/Machine/Operands.lean ====
section
/-!
DEFINITION. Sys2Proof/Machine/Operands.lean: operand forms: the addresses of M-format and local accesses, the
special registers, and the vector engine's shape, masks, selectors, destinations and operand ring.
-/
namespace Sys2Proof.Machine

/-- ea of an M-format access (09 R198): base plus displacement times size, modulo 2^64. -/
def Team.eaM (t : Team) (b : BitVec 6) (p : BitVec 8) (size : Nat) : Nat :=
  (t.s b + BitVec.ofInt 64 (p.toInt * size)).toNat

/-- Local address of LDS and STS (09 R202). -/
def Team.eaLocal (t : Team) (a : BitVec 6) (o : BitVec 12) : Nat := (t.s a + o.signExtend 64).toNat

/-- The checks of a local access of `size` bytes, in order (09 R202). -/
def Team.localFault (t : Team) (la size : Nat) : Option Cause :=
  if la % size ≠ 0 then some .align
  else if t.spEnd < la + size then some .spoob
  else none

/-- A special register's value as MFS and KMFS read it (07 Table 7-13); none for a number not listed. -/
def State.special (s : State) (n : Nat) (t : Team) (num : Nat) : Option DWord :=
  if num = 0x000 then some t.wid
  else if num = 0x001 then some (BitVec.ofNat 64 t.teamix)
  else if num = 0x002 then some (BitVec.ofNat 64 t.gangix)
  else if num = 0x003 then some (t.k.kernid.setWidth 64)
  else if num = 0x004 then some (BitVec.ofNat 64 t.cycle)
  else if num = 0x005 then some (s.clk (domainOf (coreOfSlot n))).freeze
  else if num = 0x006 then some s.time
  else if num = 0x008 then some t.status
  else if 0x010 ≤ num ∧ num ≤ 0x017 then some (t.faults.getD (num - 0x010) 0)
  else if num = 0x020 then some (BitVec.ofNat 64 t.variant)
  else if num = 0x021 then some (t.boost.setWidth 64)
  else if num = 0x030 then some (BitVec.ofNat 64 (if t.k.hnd then t.k.handler else 0))
  else if num = 0x031 then some t.epc
  else none

/-! The shape of the vector engine (07 R148, 10 R228). -/

/-- Element width of a TYPE code. -/
def typeW : Nat → Nat
  | 0 | 1 => 4
  | 2 | 3 => 8
  | 4 | 5 | 8 | 9 => 16
  | _ => 32

/-- The integer type of a TYPE code. -/
def typeInt : Nat → Option IntTy
  | 0 => some ⟨4, true⟩ | 1 => some ⟨4, false⟩ | 2 => some ⟨8, true⟩ | 3 => some ⟨8, false⟩ | 4 => some ⟨16, true⟩
  | 5 => some ⟨16, false⟩ | 6 => some ⟨32, true⟩ | 7 => some ⟨32, false⟩ | _ => none

/-- The floating format of a TYPE code. -/
def typeFlt : Nat → Option FFmt
  | 8 => some BF16 | 9 => some F16 | 10 => some F32 | _ => none

def Team.vtype (t : Team) : Nat := bitsOf t.ve.vshape.toNat 0 4
def Team.vw (t : Team) : Nat := typeW t.vtype
def Team.vn (t : Team) : Nat := 4096 / t.vw
def Team.vround (t : Team) : RMode := RMode.ofCode (bitsOf t.ve.vshape.toNat 7 2)
def Team.vpol (t : Team) : Nat := bitsOf t.ve.vshape.toNat 9 2

/-- m[n]; m0 reads all ones (06 R120). -/
def Team.m (t : Team) (r : BitVec 3) : BitVec 1024 := if r = 0 then BitVec.allOnes 1024 else SMap.get 0 t.ve.m r.toNat

/-- Write m[n]; a write of m0 is discarded.  A write clears the register's poison mark. -/
def Team.setM (t : Team) (r : BitVec 3) (v : BitVec 1024) : Team :=
  if r = 0 then t
  else { t with ve := { t.ve with m := SMap.put 0 t.ve.m r.toNat v, mMarks := t.ve.mMarks.filter (· ≠ r.toNat) } }

def Team.vmaskReg (t : Team) : BitVec 3 := BitVec.ofNat 3 (bitsOf t.ve.vshape.toNat 4 3)
/-- The active mask of VSHAPE. -/
def Team.vmask (t : Team) : BitVec 1024 := t.m t.vmaskReg
def Team.active (t : Team) (i : Nat) : Bool := t.vmask.getLsbD i

/-- k[n] (the field `Team.k` is the team's kernel). -/
def Team.kreg (t : Team) (r : BitVec 4) : DWord := SMap.get 0 t.ve.k r.toNat
def Team.setK (t : Team) (r : BitVec 4) (v : DWord) : Team :=
  { t with ve := { t.ve with k := SMap.put 0 t.ve.k r.toNat v, kMarks := t.ve.kMarks.filter (· ≠ r.toNat) } }
def Team.x (t : Team) (r : BitVec 4) : BitVec 23 := SMap.get 0 t.ve.x r.toNat
def Team.setX (t : Team) (r : BitVec 4) (v : BitVec 23) : Team :=
  { t with ve := { t.ve with x := SMap.put 0 t.ve.x r.toNat v, xMarks := t.ve.xMarks.filter (· ≠ r.toNat) } }
def Team.v (t : Team) (r : Nat) : VReg := SMap.get 0 t.ve.v r

/-- The elements of a vector of `w`-bit elements, element 0 first (08 R165). -/
def elemsOf (w : Nat) (v : VReg) : List Nat := (List.range (4096 / w)).map fun i => bitsOf v.toNat (w * i) w

/-- The vector of a list of elements. -/
def packElems (w : Nat) (l : List Nat) : VReg := BitVec.ofNat 4096 (l.foldr (fun x acc => x % 2 ^ w + 2 ^ w * acc) 0)

/-! Selectors (07 Table 7-7, 10 R230, R231). -/

/-- What a selector names. -/
inductive VSel where
  | v (n : Nat) | zero | ring (n : Nat) | chunk (j : Nat) | k (n : Nat) | bad
deriving DecidableEq, Repr

def selOf (x : BitVec 8) : VSel :=
  let n := x.toNat
  if n < 0x80 then .v n
  else if n = 0x80 then .zero
  else if n ≤ 0x88 then .ring (n - 0x80)
  else if 0x90 ≤ n ∧ n ≤ 0x97 then .chunk (n - 0x90)
  else if 0xA0 ≤ n ∧ n ≤ 0xAF then .k (n - 0xA0)
  else .bad

/-- A vector operand: its selector and how many registers it names (1, 2 or 4). -/
structure VOp where
  sel : BitVec 8
  cnt : Nat := 1
deriving DecidableEq, Repr

/-- The encoding check of a source (R147, R231): a group is aligned registers; no register reaches VREGS. -/
def Team.srcBad (t : Team) (o : VOp) : Bool :=
  match selOf o.sel with
  | .v n => n % o.cnt ≠ 0 || t.k.vregs < n + o.cnt
  | .bad => true
  | _ => o.cnt ≠ 1

/-- The encoding check of a destination; one that is also read may not be a chunk (R231). -/
def Team.dstBad (t : Team) (o : VOp) (reads : Bool) : Bool :=
  match selOf o.sel with
  | .v n => n % o.cnt ≠ 0 || t.k.vregs < n + o.cnt
  | .zero => false
  | .chunk _ => reads
  | _ => true

/-- The mapping of a chunk register. -/
def Team.chunkMap (t : Team) (j : Nat) : Option ChunkMap := SMap.get? t.ve.chunks j

/-- How many earlier sources of the word name the same chunk register (R230). -/
def earlier (sel : BitVec 8) (before : List VOp) : Nat := (before.filter (·.sel = sel)).length

/-- Declaration and local address of a chunk access of `cnt` chunks, `skip` chunks on; none is CHBAD (R233). -/
def Team.chunkAt (t : Team) (j : Nat) (producer : Bool) (skip cnt : Nat) : Option (Nat × Nat) :=
  match t.chunkMap j with
  | none => none
  | some c =>
    match t.chanDecl c.chan with
    | none => none
    | some d =>
      if c.producer ≠ producer ∨ d.slotBytes < 512 * (c.ptr + skip + cnt) then none
      else
        let ch := t.chan c.chan
        some (c.chan, d.base + (if producer then ch.p else ch.c) * d.slotBytes + 512 * (c.ptr + skip))

/-- Every source with the sources before it. -/
def withEarlier : List VOp → List VOp → List (VOp × List VOp)
  | _, [] => []
  | pre, o :: r => (o, pre) :: withEarlier (pre ++ [o]) r

/-- What reading a word's operands answers. -/
inductive VRead where
  | trap (c : Cause) (addr : Nat)
  | block
  | ok (vals : List (List VReg))
deriving DecidableEq, Repr

/-- A 512-byte vector from scratchpad. -/
def Team.spVec (t : Team) (la : Nat) : VReg := BitVec.ofNat 4096 (ofBytes (t.spRead la 512))

/-- The value of a source: one register for each of its count. -/
def Team.srcVal (t : Team) (o : VOp) (before : List VOp) : List VReg :=
  match selOf o.sel with
  | .v n => (List.range o.cnt).map fun i => t.v (n + i)
  | .ring i => [t.ve.ring.getD (i - 1) 0]
  | .chunk j => (match t.chunkAt j false (earlier o.sel before) 1 with
      | some (_, la) => [t.spVec la]
      | none => [0])
  | .k n => [packElems t.vw (List.replicate t.vn ((t.kreg (BitVec.ofNat 4 n)).toNat % 2 ^ t.vw))]
  | _ => [0]

/-- Poison that reading a source meets (17 R405, R407), with the failing local address. -/
def Team.srcPoison (t : Team) (o : VOp) (before : List VOp) : Option Nat :=
  match selOf o.sel with
  | .v n => if (List.range o.cnt).any fun i => t.ve.vMarks.contains (n + i) then some 0 else none
  | .k n => if t.ve.kMarks.contains n then some 0 else none
  | .chunk j => (match t.chunkAt j false (earlier o.sel before) 1 with
      | some (_, la) => if t.spMarked la 512 then some la else none
      | none => none)
  | _ => none

/-- What a VE word reads, writes and checks. -/
structure VWord where
  srcs : List VOp := []
  dst : Option VOp := none
  /-- the destination is a third source -/
  readsDst : Bool := false
  ks : List (BitVec 4) := []
  xs : List (BitVec 4) := []
  ms : List (BitVec 3) := []
  /-- the shape check of its description holds -/
  shape : Bool := true
  /-- the failure of its address checks, with the address -/
  addr : Option (Cause × Nat) := none
  /-- scratchpad ranges it reads -/
  beats : List (Nat × Nat) := []
deriving DecidableEq, Repr

/-- The checks of R234 up to step 6, in order, and the values of the sources. -/
def Team.vread (t : Team) (w : VWord) : VRead :=
  let src := withEarlier [] w.srcs
  let chunkOk : Bool := (src.all fun p => match selOf p.1.sel with
      | .chunk j => (t.chunkAt j false (earlier p.1.sel p.2) 1).isSome
      | _ => true) &&
    (match w.dst with
     | some d => (match selOf d.sel with
        | .chunk j => (t.chunkAt j true 0 d.cnt).isSome
        | _ => true)
     | none => true)
  let blocked : Bool := (src.any fun p => match selOf p.1.sel with
      | .chunk j => (match t.chunkAt j false 0 1 with
          | some (c, _) => !(t.chan c).shown.contains (t.chan c).c
          | none => false)
      | _ => false) ||
    (match w.dst with
     | some d => (match selOf d.sel with
        | .chunk j => (match t.chunkAt j true 0 d.cnt with
            | some (c, _) => (t.chan c).shown.contains (t.chan c).p
            | none => false)
        | _ => false)
     | none => false)
  let poison : Option Nat :=
    match src.findSome? fun p => t.srcPoison p.1 p.2 with
    | some a => some a
    | none =>
      match w.dst with
      | some d =>
        if w.readsDst && (t.srcPoison d []).isSome then some 0
        else if w.ks.any fun r => t.ve.kMarks.contains r.toNat then some 0
        else if w.xs.any fun r => t.ve.xMarks.contains r.toNat then some 0
        else if w.ms.any fun r => t.ve.mMarks.contains r.toNat then some 0
        else (w.beats.find? fun b => t.spMarked b.1 b.2).map (·.1)
      | none =>
        if w.ks.any fun r => t.ve.kMarks.contains r.toNat then some 0
        else if w.xs.any fun r => t.ve.xMarks.contains r.toNat then some 0
        else if w.ms.any fun r => t.ve.mMarks.contains r.toNat then some 0
        else (w.beats.find? fun b => t.spMarked b.1 b.2).map (·.1)
  if w.srcs.any t.srcBad || (match w.dst with
      | some d => t.dstBad d w.readsDst
      | none => false) then .trap .illop 0
  else if !w.shape then .trap .shapebad 0
  else if !chunkOk then .trap .chbad 0
  else
    match w.addr with
    | some (c, a) => .trap c a
    | none =>
      if blocked then .block
      else
        match poison with
        | some a => .trap .poison a
        | none => .ok (src.map fun p => t.srcVal p.1 p.2)

/-- Advance the pointers of the chunk registers that a word read (R233). -/
def Team.advanceChunks (t : Team) (srcs : List VOp) : Team :=
  srcs.foldl (fun (t : Team) o =>
    match selOf o.sel with
    | .chunk j => { t with ve := { t.ve with chunks :=
        (match SMap.get? t.ve.chunks j with
         | some c => SMap.insert t.ve.chunks j { c with ptr := c.ptr + 1 }
         | none => t.ve.chunks) } }
    | _ => t) t

/-- Write a vector result, lowest register first, and push it into the operand ring (R229, R231, R232). -/
def Team.putVec (t : Team) (d : VOp) (vals : List VReg) : Team :=
  let t1 := { t with ve := { t.ve with ring := (vals.reverse ++ t.ve.ring).take 8 } }
  match selOf d.sel with
  | .v n => vals.zipIdx.foldl (fun (t : Team) p =>
      { t with ve := { t.ve with v := SMap.put 0 t.ve.v (n + p.2) p.1, vMarks := t.ve.vMarks.filter (· ≠ n + p.2) } }) t1
  | .chunk j =>
    match t1.chunkAt j true 0 d.cnt with
    | none => t1
    | some (_, la) =>
      let t2 := t1.spStore la (vals.flatMap fun v => toBytes 512 v.toNat)
      { t2 with ve := { t2.ve with chunks :=
          (match SMap.get? t2.ve.chunks j with
           | some c => SMap.insert t2.ve.chunks j { c with ptr := c.ptr + d.cnt }
           | none => t2.ve.chunks) } }
  | _ => t1

/-- The old elements of a destination: a register's, zero for ZERO and chunks (R229). -/
def Team.oldElems (t : Team) (d : VOp) (wd : Nat) : List Nat :=
  (List.range d.cnt).flatMap fun i =>
    match selOf d.sel with
    | .v n => elemsOf wd (t.v (n + i))
    | _ => List.replicate (4096 / wd) 0

/-- What a conversion leaves: its value, and whether it sets CONVSAT, sets CONVINF or traps. -/
def Conv.parts : Conv → Nat × Bool × Bool × Bool
  | .val x => (x, false, false, false)
  | .sat x => (x, true, false, false)
  | .inf x => (x, false, true, false)
  | .trap => (0, false, false, true)

/-- Write element results of width `wd` to a vector destination: inactive elements keep the old ones unless `full`; flags
of active elements are set; an active overflowing element under policy 3 raises CONVTRAP (none). -/
def Team.putElems (t : Team) (d : VOp) (wd : Nat) (full : Bool) (res : List Conv) : Option Team :=
  let act := res.zipIdx.filter fun p => full || t.active p.2
  if act.any fun p => p.1.parts.2.2.2 then none
  else
    let sat := act.any fun p => p.1.parts.2.1
    let inf := act.any fun p => p.1.parts.2.2.1
    let vals := (res.zip (t.oldElems d wd)).zipIdx.map fun p => if full || t.active p.2 then p.1.1.parts.1 else p.1.2
    -- a register that keeps an old element keeps its mark (17 R405)
    let kept : List Nat := match selOf d.sel with
      | .v n => (t.ve.vMarks.filter fun r => n ≤ r && r < n + d.cnt).filter fun r =>
          !full && res.zipIdx.any fun p => p.2 / (4096 / wd) = r - n && !t.active p.2
      | _ => []
    let u := (t.putVec d ((chunksOf (4096 / wd) d.cnt vals).map (packElems wd))).flagConv sat inf
    some (if kept.isEmpty then u else { u with ve := { u.ve with vMarks := setUnion kept u.ve.vMarks } })

/-- Run a VE word (R234): a trap has no effect, a blocked word is issued again. -/
def State.veWord (s : State) (w : Team → VWord) (act : Nat → Team → List (List VReg) → State) : Out :=
  s.onTeam fun n t =>
    match t.vread (w t) with
    | .trap c a => s.trap n t .ve c 0 (a % 2 ^ 23) 0
    | .block => s
    | .ok vals => act n t vals

/-- Run a VE word with a vector destination, given its element results of width `wd`. -/
def State.veVec (s : State) (w : Team → VWord) (wd : Team → Nat) (full : Bool)
    (run : Team → List (List VReg) → List Conv) : Out :=
  s.veWord w fun n t vals =>
    match (w t).dst with
    | none => s
    | some d =>
      match (t.advanceChunks (w t).srcs).putElems d (wd t) full (run t vals) with
      | none => s.trap n t .ve .convtrap 0 0 0
      | some t1 => s.setTeam n (t1.step .ve)

end Sys2Proof.Machine
end

