-- ==== Sys2Proof/Machine/SqControl.lean ====
section
/-!
DEFINITION. Sys2Proof/Machine/SqControl.lean: branches, jumps, calls and hardware loops of the sequencer (09 R195-R197).
The loop and jump operations are shared with the VE, ME and TU control words, which 10 to 13 define by these rules.
-/
namespace Sys2Proof.Machine

/-- The word index of a branch with a signed offset; none when it is negative or at or beyond the section's end (06 R119,
09 R195). -/
def Team.target (t : Team) (e : Engine) (off : Int) : Option Nat :=
  let p : Int := (t.ctl e).pc + off
  if 0 ≤ p && p < t.words e then some p.toNat else none

/-- A taken control word of the SQ or VE costs two cycles of issue (06 Tables 6-2, 6-3). -/
def Team.taken (t : Team) (e : Engine) (f : EngCtl → EngCtl) : Team :=
  t.updCtl e fun k => if e = .sq ∨ e = .ve then { f k with busy := t.cycle + 2 } else f k

/-- A B-format word: the target is tested whether or not the branch is taken; a taken one pops the loops it leaves
(R195, R197). -/
def State.branch (s : State) (a b : BitVec 6) (o : BitVec 14) (taken : DWord → DWord → Bool) : Out :=
  s.sqWord [a, b] fun n t =>
    match t.target .sq o.toInt with
    | none => s.illop n t .sq
    | some p => s.setTeam n (if taken (t.s a) (t.s b) then t.taken .sq (·.jump p) else t.step .sq)

/-- BEQ: taken when equal (09 R195, Table 9-2). -/
def execBeq (a b : BitVec 6) (o : BitVec 14) (s : State) : Out := s.branch a b o fun x y => x = y
/-- BNE: taken when not equal (09 R195, Table 9-2). -/
def execBne (a b : BitVec 6) (o : BitVec 14) (s : State) : Out := s.branch a b o fun x y => x ≠ y
/-- BLT: signed less (09 R195, Table 9-2). -/
def execBlt (a b : BitVec 6) (o : BitVec 14) (s : State) : Out := s.branch a b o fun x y => x.slt y
/-- BGE: signed greater or equal (09 R195, Table 9-2). -/
def execBge (a b : BitVec 6) (o : BitVec 14) (s : State) : Out := s.branch a b o fun x y => !x.slt y
/-- BLTU: unsigned less (09 R195, Table 9-2). -/
def execBltu (a b : BitVec 6) (o : BitVec 14) (s : State) : Out := s.branch a b o fun x y => x.ult y
/-- BGEU: unsigned greater or equal (09 R195, Table 9-2). -/
def execBgeu (a b : BitVec 6) (o : BitVec 14) (s : State) : Out := s.branch a b o fun x y => !x.ult y

/-- A jump of any engine: an offset of +1 does not branch (R197). -/
def State.jumpWord (s : State) (n : Nat) (t : Team) (e : Engine) (off : Int) : State :=
  match t.target e off with
  | none => s.illop n t e
  | some p => s.setTeam n (if off = 1 then t.step e else t.taken e (·.jump p))

/-- J (R195, R197). -/
def execJ (o : BitVec 26) (s : State) : Out := s.sqWord [] fun n t => s.jumpWord n t .sq o.toInt

/-- JAL: links into s63 and pops no loop (R195, R197). -/
def execJal (o : BitVec 26) (s : State) : Out :=
  s.sqWord [] fun n t =>
    match t.target .sq o.toInt with
    | none => s.illop n t .sq
    | some p =>
      s.setTeam n ((t.setS 63 (BitVec.ofNat 64 (t.sq.ctl.pc + 1))).taken .sq fun k => { k with pc := p })

/-- JALR: reads s[a] before it writes d; the target is an unsigned word index (R195). -/
def execJalr (d a : BitVec 6) (i : BitVec 14) (s : State) : Out :=
  s.sqWord [a] fun n t =>
    let p := (t.s a + i.signExtend 64).toNat
    if p < t.words .sq then
      s.setTeam n ((t.setS d (BitVec.ofNat 64 (t.sq.ctl.pc + 1))).taken .sq fun k => { k with pc := p })
    else s.illop n t .sq

/-- Open a hardware loop over the next `len` words (R196): LOOPBAD for a fifth level and for a body that leaves the
enclosing one, ILLOP for a body that reaches the section's end; a count of 0 skips the body (log 38). -/
def State.loopWord (s : State) (n : Nat) (t : Team) (e : Engine) (count len : Nat) : State :=
  let k := t.ctl e
  let stop := k.pc + len
  if count ≠ 0 && 4 ≤ k.loops.length then s.trap n t e .loopbad 0 0 0
  else if (match k.loops with
    | [] => false
    | l :: _ => !(l.start ≤ k.pc + 1 && stop ≤ l.stop)) then s.trap n t e .loopbad 0 0 0
  else if t.words e ≤ stop then s.illop n t e
  else if count = 0 then s.setTeam n (t.setCtl e { k with pc := stop + 1, busy := if e = .ve then t.cycle + 2 else k.busy })
  else s.setTeam n (t.setCtl e { k with pc := k.pc + 1, loopMark := k.loopMark && !k.loops.isEmpty,
                                        loops := { start := k.pc + 1, stop := stop, count := count } :: k.loops })

/-- LOOP (R196). -/
def execLoop (a : BitVec 6) (l : BitVec 13) (s : State) : Out :=
  s.sqWord [a] fun n t => s.loopWord n t .sq (t.s a).toNat l.toNat

end Sys2Proof.Machine
end

