-- ==== Sys2Proof/Machine/SqSync.lean ====
section
/-!
DEFINITION. Sys2Proof/Machine/SqSync.lean: channel, barrier and engine-control words of the sequencer (09 R212-R214, 06
R131-R136).
-/
namespace Sys2Proof.Machine

/-! Channels (Table 6-6). -/

/-- A channel word with count `cnt`: CHBAD for an undeclared channel or a count above the slot count; blocked, it is
issued again (log 33). -/
def State.chanWord (s : State) (c : BitVec 4) (cnt : Nat) (free : Chan → Nat → Bool) (act : Chan → Nat → Chan) : Out :=
  s.sqWord [] fun n t =>
    match t.chanDecl c.toNat with
    | none => s.trap n t .sq .chbad 0 0 0
    | some d =>
      if d.slots < cnt then s.trap n t .sq .chbad 0 0 0
      else if free (t.chan c.toNat) d.slots then
        s.setTeam n ((t.setChan c.toNat (act (t.chan c.toNat) d.slots)).step .sq)
      else s

/-- CHWF (09 R212). -/
def execChwf (n : BitVec 6) (c : BitVec 4) (s : State) : Out :=
  s.chanWord c (n.toNat + 1) (fun ch k => ch.allFull k ch.c (n.toNat + 1)) fun ch _ => ch
/-- CHWE (09 R212). -/
def execChwe (n : BitVec 6) (c : BitVec 4) (s : State) : Out :=
  s.chanWord c (n.toNat + 1) (fun ch k => ch.allEmpty k ch.p (n.toNat + 1)) fun ch _ => ch
/-- CHAP (09 R212). -/
def execChap (n : BitVec 6) (c : BitVec 4) (s : State) : Out :=
  s.chanWord c (n.toNat + 1) (fun ch k => ch.allEmpty k ch.p (n.toNat + 1)) fun ch k => ch.produce k (n.toNat + 1)
/-- CHAC (09 R212). -/
def execChac (n : BitVec 6) (c : BitVec 4) (s : State) : Out :=
  s.chanWord c (n.toNat + 1) (fun ch k => ch.allFull k ch.c (n.toNat + 1)) fun ch k => ch.consume k (n.toNat + 1)

/-- CHST: the channel's state at the end of the previous cycle (09 R212, Table 9-4). -/
def execChst (d : BitVec 6) (c : BitVec 4) (s : State) : Out :=
  s.sqWord [] fun n t =>
    match t.chanDecl c.toNat with
    | none => s.trap n t .sq .chbad 0 0 0
    | some _ =>
      let ch := t.chan c.toNat
      s.setTeam n ((t.setS d (BitVec.ofNat 64 (ch.shown.length * 65536 + ch.shownC * 256 + ch.shownP))).step .sq)

/-! Barrier objects (R134-R136). -/

/-- A barrier word: an object that is not declared for the team's kind raises ILLOP (02 R37) (log 33). -/
def State.barWord (s : State) (srcs : List (BitVec 6)) (b : BitVec 5) (act : Team → BarDecl → State → Nat → State) : Out :=
  s.sqWord srcs fun n t =>
    match t.barDecl b.toNat with
    | none => s.illop n t .sq
    | some d => act t d s n

/-- BINIT (09 R213). -/
def execBinit (b : BitVec 5) (s : State) : Out :=
  s.barWord [] b fun t d s n => s.setTeam n ((t.barInit d).step .sq)
/-- BARR (09 R213, 06 R135). -/
def execBarr (b : BitVec 5) (s : State) : Out :=
  s.barWord [] b fun t d s n => s.setTeam n ((t.barArrive d).step .sq)
/-- BEXP (09 R213, 06 R135). -/
def execBexp (a : BitVec 6) (b : BitVec 5) (s : State) : Out :=
  s.barWord [a] b fun t d s n => s.setTeam n ((t.barExpect d (signExt (t.s a).toNat 32)).step .sq)
/-- BWAIT (09 R213, 06 R136): it blocks while PHASE is bit 0 of s[a]. -/
def execBwait (a : BitVec 6) (b : BitVec 5) (s : State) : Out :=
  s.barWord [a] b fun t d s n =>
    if (t.bar d).phase = bitAt (t.s a).toNat 0 then s else s.setTeam n (t.step .sq)

/-! Engine control (R214). -/

/-- The engines that a mask names (07 Table 7-4). -/
def maskEngines (m : BitVec 5) : List Engine :=
  ([(0, Engine.ve), (1, .me), (2, .tu0), (3, .tu1), (4, .gq)].filter fun p => bitAt m.toNat p.1).map (·.2)

/-- The engines that take part in a switch point: their section is not empty and they run (06 R137, 09 R214) (log 38). -/
def Team.live (t : Team) : List Engine :=
  allEngines.filter fun e => t.hasEngine e && (t.ctl e).st = .running

/-- The granted level of a team (18 R415): the largest of LVLCAP of its queue, the budget level and the thermal level. -/
def State.granted (s : State) (t : Team) : Nat :=
  max (min (s.queue t.queue).lvlNow.toNat 2) (max s.power.budget (if s.power.t2 || s.power.t3 then 2 else 0))

/-- The switch point at which every live engine of the team stands (06 R137). -/
def Team.allAt (t : Team) : Option Nat :=
  match t.live.map fun e => (t.ctl e).swpt with
  | some p :: r => if r.all (· = some p) then some p else none
  | _ => none

/-- With every live engine at its switch-point word the granted level is read, and the engines wait four cycles (06 R137, 02
R40). -/
def State.swptArm (s : State) (n : Nat) : State :=
  match s.team? n with
  | none => s
  | some t =>
    match t.allAt with
    | none => s
    | some _ =>
      let t1 := t.live.foldl (fun (t : Team) e => t.updCtl e fun k => { k with busy := t.cycle + 4 }) t
      s.setTeam n { t1 with swptVar := some (min (s.granted t) (t.k.nvar - 1)) }

/-- The switch takes place once the four cycles have passed: every live engine goes on at the word of the selected variant,
or at its next word when the point is not declared (06 R137, 02 R40). -/
def Team.swptJump (t : Team) : Team :=
  match t.allAt, t.swptVar with
  | some p, some v =>
    if t.live.any fun e => t.cycle < (t.ctl e).busy then t
    else
      let row := t.k.vars.getD (p * t.k.nvar + v) []
      let go (t : Team) (e : Engine) : Team :=
        (if p < t.k.nswpt then t.updCtl e fun k => { k with pc := row.getD e.num 0 } else t.step e).updCtl e fun k =>
          { k with swpt := none }
      let t1 := t.live.foldl go t
      { t1 with swptVar := none, variant := if p < t.k.nswpt then v else t.variant }
  | _, _ => t

/-- SWITCH_POINT_JUMP (06 R137), while the team issues and no handler, halt or fault holds it. -/
def execSwitchPointJump (slot : Nat) (s : State) : Out :=
  s.event fun s => if s.advancing slot then s.updTeam slot Team.swptJump else s

/-- A switch-point word of engine `e` (06 R137, R138): it waits; another engine at another point makes it ILLOP. -/
def State.swptWord (s : State) (n : Nat) (t : Team) (e : Engine) (p : Nat) : State :=
  if (t.live.filter (· ≠ e)).any fun u => (t.ctl u).swpt.isSome && (t.ctl u).swpt ≠ some p then s.illop n t e
  else (s.setTeam n (t.updCtl e fun k => { k with swpt := some p })).swptArm n

def State.engineWord (s : State) (m : BitVec 5) (act : Nat → Team → List Engine → State) : Out :=
  s.sqWord [] fun n t =>
    if maskEngines m = [] ∨ (maskEngines m).any (fun e => !t.hasEngine e) then s.illop n t .sq else act n t (maskEngines m)

/-- An engine has outstanding nests or jobs: a nest until its completion object fires (13 R343), a job until it completes
(11 R266). -/
def Team.outstanding (t : Team) (e : Engine) : Bool :=
  match e with
  | .me => !t.me.queue.isEmpty
  | .tu0 => t.tu0.jobs.any (!·.done)
  | .tu1 => t.tu1.jobs.any (!·.done)
  | .gq => t.gq.jobs.any (!·.done)
  | _ => false

def EngCtl.stop (k : EngCtl) : EngCtl := if k.st = .running then { k with st := .stopped, swpt := none } else k
def EngCtl.start (k : EngCtl) : EngCtl :=
  match k.st with
  | .running => k
  | .stopped => { k with st := .running }
  | .ended => { k with st := .running, pc := 0, loops := [], swpt := none }

/-- ESTART (09 R214): ILLOP in the handler (17 R402) (log 38). -/
def execEstart (m : BitVec 5) (s : State) : Out :=
  s.engineWord m fun n t es =>
    if t.inHandler then s.illop n t .sq else s.setTeam n ((es.foldl (fun t e => t.updCtl e EngCtl.start) t).step .sq)
/-- EWAIT (09 R214): ILLOP in the handler (17 R402) (log 38). -/
def execEwait (m : BitVec 5) (s : State) : Out :=
  s.engineWord m fun n t es =>
    if t.inHandler then s.illop n t .sq
    else if es.all fun e => (t.ctl e).st ≠ .running && !t.outstanding e then s.setTeam n (t.step .sq) else s
/-- Every outstanding nest or job of an engine is discarded; its completion object never fires (17 R402) (log 38). -/
def Team.discardJobs (t : Team) (e : Engine) : Team :=
  match e with
  | .me => { t with me := { t.me with queue := [], begun := false, at_ := 0, dur := 0, el := {}, load := none } }
  | .tu0 => { t with tu0 := { t.tu0 with jobs := [] } }
  | .tu1 => { t with tu1 := { t.tu1 with jobs := [] } }
  | .gq => { t with gq := { t.gq with jobs := [], iterPops := [] } }
  | _ => t

/-- ESTOP (09 R214): an engine that waits at a switch point stops before its switch-point word.  In the handler it also discards the
engines' nests and jobs, and every engine named becomes STOPPED at its word, an ENDED one too (17 R402) (log 38). -/
def execEstop (m : BitVec 5) (s : State) : Out :=
  s.engineWord m fun n t es =>
    if t.inHandler then
      let t1 := es.foldl (fun t e => (t.updCtl e fun k => { k with st := .stopped, swpt := none }).discardJobs e) t
      s.setTeam n (t1.step .sq)
    else (s.setTeam n ((es.foldl (fun t e => t.updCtl e EngCtl.stop) t).step .sq)).swptArm n

end Sys2Proof.Machine
end

