-- ==== Sys2Proof/Machine/VeControl.lean ====
section
/-!
DEFINITION. Sys2Proof/Machine/VeControl.lean: control words of the vector engine (10 R233, R235, R253).
-/
namespace Sys2Proof.Machine

/-- VSETSH (07 R148): a TYPE of 11 to 15 raises SHAPEBAD. -/
def execVsetsh (p r : BitVec 2) (m : BitVec 3) (ty : BitVec 4) (s : State) : Out :=
  s.onTeam fun n t =>
    if 11 ≤ ty.toNat then s.trap n t .ve .shapebad 0 0 0
    else
      let v := p.toNat * 512 + r.toNat * 128 + m.toNat * 16 + ty.toNat
      s.setTeam n (({ t with ve := { t.ve with vshape := BitVec.ofNat 20 v } }).step .ve)

/-- VCHMAP (10 R233): CHBAD for a channel that is undeclared for the team's kind. -/
def execVchmap (p : BitVec 1) (j : BitVec 3) (c : BitVec 4) (s : State) : Out :=
  s.onTeam fun n t =>
    match t.chanDecl c.toNat with
    | none => s.trap n t .ve .chbad 0 0 0
    | some _ =>
      let cm : ChunkMap := { producer := p = 1, chan := c.toNat, ptr := 0 }
      s.setTeam n (({ t with ve := { t.ve with chunks := SMap.insert t.ve.chunks j.toNat cm } }).step .ve)

/-- VSETPAT, a field entry (10 R253). -/
def execVsetpat (k : BitVec 4) (g : BitVec 1) (w : BitVec 5) (o : BitVec 7) (s : State) : Out :=
  s.onTeam fun n t =>
    let f : PatField := { off := o.toNat, wm1 := w.toNat, sgn := g = 1 }
    s.setTeam n (({ t with ve := { t.ve with pats := SMap.put { off := 0, wm1 := 0, sgn := false } t.ve.pats k.toNat f } }).step .ve)

/-- VSETPAT, the header (10 R253). -/
def execVsetpatHdr (f : BitVec 4) (p : BitVec 7) (s : State) : Out :=
  s.onTeam fun n t => s.setTeam n (({ t with ve := { t.ve with patP := p.toNat, patF := f.toNat } }).step .ve)

/-- A VE control word that reads k[r]; a marked register raises POISON (17 R405). -/
def State.kWord (s : State) (r : BitVec 4) (f : Nat → Team → State) : Out :=
  s.onTeam fun n t => if t.ve.kMarks.contains r.toNat then s.trap n t .ve .poison 0 0 0 else f n t

/-- VLOOP (10 Table 10-1, 09 R196). -/
def execVloop (k : BitVec 4) (l : BitVec 20) (s : State) : Out :=
  s.kWord k fun n t => s.loopWord n t .ve (t.kreg k).toNat l.toNat

/-- VJMP (10 Table 10-1, 09 R195, R197). -/
def execVjmp (o : BitVec 20) (s : State) : Out := s.onTeam fun n t => s.jumpWord n t .ve o.toInt

/-- The engine ends its stream; the others may then all stand at a switch point (09 R214, 06 R137). -/
def State.endStream (s : State) (n : Nat) (t : Team) (e : Engine) : State :=
  (s.setTeam n (t.updCtl e fun k => { k with st := .ended })).swptArm n

/-- VEND (10 Table 10-1). -/
def execVend (s : State) : Out := s.onTeam fun n t => s.endStream n t .ve

/-- VSWPT (06 R137). -/
def execVswpt (p : BitVec 8) (s : State) : Out := s.onTeam fun n t => s.swptWord n t .ve p.toNat

/-- The chunk pointers of a channel return to 0 (06 Table 6-6). -/
def Team.resetChunks (t : Team) (c : Nat) (producer : Bool) : Team :=
  { t with ve := { t.ve with chunks := t.ve.chunks.map fun p =>
      if p.2.chan = c ∧ p.2.producer = producer then (p.1, { p.2 with ptr := 0 }) else p } }

/-- VADVC (06 Table 6-6): it blocks while slot C is empty. -/
def execVadvc (c : BitVec 4) (s : State) : Out :=
  s.onTeam fun n t =>
    match t.chanDecl c.toNat with
    | none => s.trap n t .ve .chbad 0 0 0
    | some d =>
      let ch := t.chan c.toNat
      if ch.shown.contains ch.c then
        s.setTeam n (((t.setChan c.toNat (ch.consume d.slots 1)).resetChunks c.toNat false).step .ve)
      else s

/-- VADVP (06 Table 6-6): it blocks while slot P is full. -/
def execVadvp (c : BitVec 4) (s : State) : Out :=
  s.onTeam fun n t =>
    match t.chanDecl c.toNat with
    | none => s.trap n t .ve .chbad 0 0 0
    | some d =>
      let ch := t.chan c.toNat
      if ch.shown.contains ch.p then s
      else s.setTeam n (((t.setChan c.toNat (ch.produce d.slots 1)).resetChunks c.toNat true).step .ve)

/-- VWAITB (06 R136). -/
def execVwaitb (k : BitVec 4) (b : BitVec 5) (s : State) : Out :=
  s.kWord k fun n t =>
    match t.barDecl b.toNat with
    | none => s.illop n t .ve
    | some d => if (t.bar d).phase = bitAt (t.kreg k).toNat 0 then s else s.setTeam n (t.step .ve)

end Sys2Proof.Machine
end

