-- ==== Sys2Proof/Machine/Me.lean ====
section
/-!
DEFINITION. Sys2Proof/Machine/Me.lean: the step words of the matrix engine (13 R330, R335, R343, 07 R151, R152), with the checks
of a nest at its MGO.  What a nest does once it runs is in MeNest.
-/
namespace Sys2Proof.Machine

/-! Descriptors (13 R330, 11 R262): NSET, NSETH and XSET write parts of a field. -/

/-- A field of a descriptor: byte offset, bytes, meaningful bits. -/
structure DescField where
  off : Nat
  size : Nat
  width : Nat
deriving DecidableEq, Repr

def DescField.get (f : DescField) (d : Nat) : Nat := bitsOf d (8 * f.off) (8 * f.size)

/-- Write `span` bits from bit `shift` on; `shift` 0 clears the bits above (07 R151, R153).  None when the value has a bit at
or above the field's width. -/
def DescField.put (f : DescField) (d shift span v : Nat) : Option Nat :=
  if 2 ^ f.width ≤ v * 2 ^ shift then none
  else
    let old := if shift = 0 then 0 else f.get d
    some (setBits d (8 * f.off) (8 * f.size) (setBits old shift span v))

/-- The field of number F of a nest descriptor (Table 13-2). -/
def nestField (n : Nat) : Option DescField :=
  match n with
  | 0 => some ⟨0x00, 4, 32⟩ | 1 => some ⟨0x04, 2, 16⟩ | 2 => some ⟨0x06, 3, 23⟩ | 3 => some ⟨0x09, 3, 23⟩
  | 4 => some ⟨0x0C, 3, 23⟩ | 5 => some ⟨0x0F, 3, 23⟩ | 6 => some ⟨0x12, 3, 23⟩ | 7 => some ⟨0x15, 3, 23⟩
  | 8 => some ⟨0x18, 4, 32⟩ | 9 => some ⟨0x1C, 4, 32⟩ | 10 => some ⟨0x20, 4, 32⟩ | 11 => some ⟨0x24, 4, 32⟩
  | 12 => some ⟨0x28, 4, 32⟩
  | _ =>
    if 48 < n then none
    else
      let b := 0x2C + 14 * ((n - 13) / 6)
      match (n - 13) % 6 with
      | 0 => some ⟨b, 2, 16⟩ | 1 => some ⟨b + 2, 3, 24⟩ | 2 => some ⟨b + 5, 3, 24⟩ | 3 => some ⟨b + 8, 3, 24⟩
      | 4 => some ⟨b + 11, 2, 16⟩ | _ => some ⟨b + 13, 1, 3⟩

/-! The fields of a nest. -/

def Nest.get (n : Nest) (off size : Nat) : Nat := bitsOf n.desc.toNat (8 * off) (8 * size)
def Nest.ctla (n : Nest) : Nat := n.get 0 4
def Nest.bit (n : Nest) (i : Nat) : Bool := bitAt n.ctla i
def Nest.p (n : Nest) : Nat := bitsOf n.ctla 4 4 + 1
def Nest.akind (n : Nest) : Bool := n.bit 0
def Nest.bfmt (n : Nest) : Nat := bitsOf n.ctla 11 2
def Nest.amode (n : Nest) : Bool := n.bit 13
def Nest.accb (n : Nest) : Nat := bitsOf n.ctla 14 1
def Nest.scen (n : Nest) : Bool := n.bit 15
def Nest.dop (n : Nest) : Nat := bitsOf n.ctla 16 2
def Nest.dend (n : Nest) : Bool := n.bit 18
def Nest.chout (n : Nest) : Bool := n.bit 19
def Nest.pol (n : Nest) : Nat := bitsOf n.ctla 20 2
def Nest.cfmt (n : Nest) : Nat := bitsOf (n.get 4 2) 0 4
def Nest.cplanes (n : Nest) : Nat := bitsOf (n.get 4 2) 4 4 + 1
def Nest.abase (n : Nest) : Nat := bitsOf (n.get 0x06 3) 0 23
def Nest.bbase (n : Nest) : Nat := bitsOf (n.get 0x09 3) 0 23
def Nest.cbase (n : Nest) : Nat := bitsOf (n.get 0x0C 3) 0 23
def Nest.scb (n : Nest) : Nat := bitsOf (n.get 0x0F 3) 0 23
def Nest.exb (n : Nest) : Nat := bitsOf (n.get 0x12 3) 0 23
def Nest.stb (n : Nest) : Nat := bitsOf (n.get 0x15 3) 0 23
def Nest.count (n : Nest) (l : Nat) : Nat := n.get (0x2C + 14 * l) 2
def Nest.as_ (n : Nest) (l : Nat) : Int := signExt (n.get (0x2E + 14 * l) 3) 24
def Nest.bs (n : Nest) (l : Nat) : Int := signExt (n.get (0x31 + 14 * l) 3) 24
def Nest.cs (n : Nest) (l : Nat) : Int := signExt (n.get (0x34 + 14 * l) 3) 24
def Nest.ss (n : Nest) (l : Nat) : Int := signExt (n.get (0x37 + 14 * l) 2) 16
def Nest.lflags (n : Nest) (l : Nat) : Nat := n.get (0x39 + 14 * l) 1
def Nest.kred (n : Nest) (l : Nat) : Bool := bitAt (n.lflags l) 0
def Nest.drainAt (n : Nest) (l : Nat) : Bool := bitAt (n.lflags l) 1
def Nest.sbAt (n : Nest) (l : Nat) : Bool := bitAt (n.lflags l) 2

def levels : List Nat := [0, 1, 2, 3, 4, 5]

/-- A nest in F32 chain mode with integer A keeps its partial sums in the other buffer (Table 13-1). -/
def Nest.hasPart (n : Nest) : Bool := n.amode && !n.akind
/-- The buffer that its passes fold into. -/
def Nest.foldBuf (n : Nest) : Nat := if n.hasPart then 1 - n.accb else n.accb
/-- Bytes of one weight. -/
def Nest.bsize (n : Nest) : Nat := if n.bfmt = 0 then 1 else 2
/-- The innermost drain point (R331): the lowest level with DRAIN, 6 for the end, none without a drain point. -/
def Nest.drainPoint (n : Nest) : Option Nat :=
  match levels.find? n.drainAt with
  | some l => some l
  | none => if n.dend then some 6 else none
/-- Drains over the whole nest. -/
def Nest.drains (n : Nest) : Nat :=
  (if n.dend then 1 else 0) +
  (levels.map fun l =>
    if n.drainAt l then ((levels.filter (l ≤ ·)).map fun k => n.count k + 1).foldl (· * ·) 1 else 0).sum
/-- C is reached. -/
def Nest.usesC (n : Nest) : Bool := n.drainPoint.isSome && !n.chout

/-- Lowest and highest offset that the strides `st` reach. -/
def Nest.span (n : Nest) (st : Nat → Int) : Int × Int :=
  levels.foldl (fun (a : Int × Int) l => (a.1 + min 0 (st l * n.count l), a.2 + max 0 (st l * n.count l))) (0, 0)

/-! The state that the nests still outstanding will leave (R335): a completed one has left it already. -/

structure MeProj where
  staging : Option Staging
  part : SMap Nat
deriving DecidableEq, Repr

def MeProj.item (p : MeProj) : MeItem → MeProj
  | .drop _ => { p with staging := none }
  | .clear mask _ =>
    { staging := p.staging.bind fun g => if bitAt mask g.buf then none else some g,
      part := p.part.filter fun e => !bitAt mask e.1 }
  | .nest n =>
    if n.done then p
    else
    let g := p.staging.bind fun g => if g.buf = n.foldBuf then none else some g
    let pt := if n.hasPart then SMap.insert p.part (1 - n.accb) n.accb else p.part
    let drained := n.drainPoint.isSome
    { staging := if drained && n.chout then some ⟨1 - n.accb, n.cfmt, n.cplanes⟩ else g,
      part := if drained && n.hasPart then SMap.erase pt (1 - n.accb) else pt }

def MeState.proj (m : MeState) : MeProj := m.queue.foldl MeProj.item { staging := m.staging, part := m.part }

/-! The checks of Table 13-6.  A failure is a cause, a field, an operand and an address. -/

structure NestFail where
  cause : Cause
  field : Nat
  operand : Nat := 0
  addr : Nat := 0
deriving DecidableEq, Repr

/-- NESTBAD naming the lowest of the failing fields (log 28). -/
def failFields (l : List Nat) : Option NestFail :=
  match l with
  | [] => none
  | x :: r => some { cause := .nestbad, field := r.foldl min x }

def fieldsIf (b : Bool) (f : Nat) : List Nat := if b then [f] else []

/-- An operand that the nest can reach: base field, operand code, base, lowest and one past highest byte. -/
structure NestOp where
  field : Nat
  code : Nat
  base : Nat
  lo : Int
  hi : Int
deriving DecidableEq, Repr

/-- C's bytes per tile, by its bank. -/
def Team.cTile (t : Team) (c : Nat) : Nat :=
  if t.layout c = 1 then 8192 * t.planes c else 65536 * fmtBits (t.fmt c) / 8

def Team.nestOps (t : Team) (n : Nest) : List NestOp :=
  let op (field code base size : Nat) (st : Nat → Int) : NestOp :=
    let s := n.span st
    { field := field, code := code, base := base, lo := base + s.1, hi := base + s.2 + size }
  let a := n.span n.as_
  (if n.chain then [] else [op 2 1 n.abase (4096 * n.p) n.as_]) ++
  [op 3 2 n.bbase (131072 * n.bsize) n.bs] ++
  (if n.usesC then [op 4 3 n.cbase (t.cTile n.cbase) n.cs] else []) ++
  (if n.scen then [op 5 4 n.scb (320 * 512) fun l => 64 * n.ss l] else []) ++
  (if n.akind then [{ field := 6, code := 5, base := n.exb, lo := n.exb + a.1 / 64, hi := n.exb + a.2 / 64 + 1024 }] else []) ++
  [op 7 6 n.stb 16 fun _ => 0]

def Nest.check1 (n : Nest) : Option NestFail :=
  failFields (fieldsIf (n.ctla &&& 0xF800070E ≠ 0) 0 ++ fieldsIf (256 ≤ n.get 4 2) 1 ++
    ((List.range 6).flatMap fun i => fieldsIf (2 ^ 23 ≤ n.get (6 + 3 * i) 3) (2 + i)) ++
    levels.flatMap fun l => fieldsIf (8 ≤ n.lflags l) (18 + 6 * l))

def Nest.check2 (n : Nest) : Option NestFail :=
  failFields (fieldsIf (n.bfmt = 3 || (n.akind && (n.p ≠ 16 || !n.amode)) || (n.scen && n.bfmt ≠ 2)) 0)

def Nest.check3 (n : Nest) : Option NestFail :=
  failFields (fieldsIf ((n.chout && 5 < n.cfmt && n.cfmt ≠ 11) || (n.cfmt = 11 && n.cplanes ≠ 16) ||
    (n.cfmt ≤ 5 && fmtBits n.cfmt < n.cplanes)) 1)

def Nest.check4 (n : Nest) : Option NestFail :=
  failFields (fieldsIf (n.chout && n.drains ≠ 1) 0 ++
    (levels.flatMap fun l => fieldsIf (n.kred l && n.cs l ≠ 0) (16 + 6 * l)) ++
    levels.flatMap fun l => fieldsIf (match n.drainPoint with
      | none => false
      | some d => l < d && n.count l ≠ 0 && !n.kred l) (18 + 6 * l))

/-- Step 5 on the operands the nest reaches.  A stride counts when its level runs more than once. -/
def Team.check5 (t : Team) (n : Nest) : Option NestFail :=
  let used := levels.filter fun l => n.count l ≠ 0
  let cAlign := if t.layout n.cbase = 1 then 4096 else max 1 (fmtBits (t.fmt n.cbase) / 8)
  let off (l : Nat) (x : Int) (k g : Nat) : List Nat := fieldsIf (x % g ≠ 0) (k + 6 * l)
  failFields (
    (if n.chain then []
     else fieldsIf (n.abase % 4096 ≠ 0) 2 ++ used.flatMap fun l => off l (n.as_ l) 14 (if n.akind then 65536 else 4096)) ++
    fieldsIf (n.bbase % 4096 ≠ 0) 3 ++ (used.flatMap fun l => off l (n.bs l) 15 4096) ++
    (if n.usesC then fieldsIf (n.cbase % cAlign ≠ 0) 4 ++ used.flatMap fun l => off l (n.cs l) 16 cAlign else []) ++
    fieldsIf (n.scen && n.scb % 64 ≠ 0) 5 ++ fieldsIf (n.akind && n.exb % 2 ≠ 0) 6 ++ fieldsIf (n.stb % 16 ≠ 0) 7)

def Team.check6 (t : Team) (n : Nest) : Option NestFail :=
  match (t.nestOps n).find? fun o => o.lo < 0 || (t.spEnd : Int) < o.hi with
  | some o => some { cause := .spoob, field := o.field, operand := o.code, addr := o.base }
  | none => none

def Team.check7 (t : Team) (n : Nest) : Option NestFail :=
  failFields ((t.nestOps n).flatMap fun o =>
    let b0 := o.lo.toNat / 0x20000
    let b1 := (o.hi.toNat - 1) / 0x20000
    let la := o.lo.toNat
    let fmt := t.fmt la
    let lay := t.layout la
    let spans := (List.range' b0 (b1 - b0 + 1)).any fun b => t.fmtReg b ≠ t.fmtReg b0
    let bad : Bool :=
      match o.field with
      | 2 => lay ≠ 1 || (if n.akind then fmt ≠ 11 else 5 < fmt) || t.planes la < n.p
      | 3 => fmt ≠ (match n.bfmt with
          | 0 => 2
          | 1 => 4
          | _ => 10) || lay ≠ 0 || t.rowsL2 la ≠ 8 || t.colsL2 la ≠ 9
      | 4 => 10 < fmt || (lay = 1 && (t.rowsL2 la ≠ 7 || t.colsL2 la ≠ 8))
      | 5 => fmt ≠ 13
      | 6 => fmt ≠ 12
      | _ => false
    fieldsIf (spans || bad) o.field)

/-- Offsets of a chained A other than 0 and 65,536: the first level whose stride reaches another. -/
def Nest.chainLevel (n : Nest) : Option Nat :=
  let used := levels.filter fun l => n.count l ≠ 0 && n.as_ l ≠ 0
  used.find? fun l => n.as_ l ≠ 65536 || n.count l ≠ 1 || used.any (· < l)

def Nest.check8 (n : Nest) (p : MeProj) : Option NestFail :=
  if !n.chain then none
  else
    match p.staging with
    | none => failFields [0xFF]
    | some g =>
      if (g.fmt = 11) ≠ n.akind || g.planes ≠ n.p || g.buf = n.accb || (n.amode && g.fmt ≠ 11) then
        failFields ((match n.chainLevel with
          | some l => [14 + 6 * l]
          | none => []) ++ [0xFF])
      else
        match n.chainLevel with
        | some l => failFields [14 + 6 * l]
        | none => none

def Nest.check9 (n : Nest) (p : MeProj) : Option NestFail :=
  failFields (fieldsIf (p.part.any fun e =>
    ((n.usesC && e.1 = n.accb) || (n.hasPart && e.1 = 1 - n.accb)) && !(n.hasPart && e.2 = n.accb)) 0)

/-- The first check of Table 13-6 that fails (log 28). -/
def Team.nestCheck (t : Team) (n : Nest) : Option NestFail :=
  let p := t.me.proj
  [n.check1, n.check2, n.check3, n.check4, t.check5 n, t.check6 n, t.check7 n, n.check8 p, n.check9 p].findSome? id

/-! Words (Table 13-10). -/

/-- A set field: ILLOP for an F that names none, and for a value too wide. -/
def State.nestSet (s : State) (f : BitVec 8) (shift : Nat) (v : BitVec 20) : Out :=
  s.onTeam fun n t =>
    match (nestField f.toNat).bind fun d => d.put t.me.shadow.toNat shift 20 v.toNat with
    | none => s.illop n t .me
    | some d => s.setTeam n (({ t with me := { t.me with shadow := BitVec.ofNat 1024 d } }).step .me)

/-- NSET (R343). -/
def execNset (f : BitVec 8) (v : BitVec 20) (s : State) : Out := s.nestSet f 0 v
/-- NSETH (R343). -/
def execNseth (f : BitVec 8) (v : BitVec 20) (s : State) : Out := s.nestSet f 20 v

/-- The engine's issue cost of two cycles (Table 6-4). -/
def Team.step2 (t : Team) (e : Engine) : Team := (t.step e).updCtl e fun k => { k with busy := t.cycle + 2 }

/-- NLD (R343): a poisoned descriptor is read by its bytes. -/
def execNld (a : BitVec 16) (s : State) : Out :=
  s.onTeam fun n t =>
    let la := 128 * a.toNat
    if t.spEnd < la + 128 then s.trap n t .me .spoob 10 la 0
    else s.setTeam n (({ t with me := { t.me with shadow := BitVec.ofNat 1024 (ofBytes (t.spRead la 128)) } }).step2 .me)

/-- The test of a completion object field (07 R154): the cause it raises. -/
def Team.coFault (t : Team) (co : Nat) : Option Cause :=
  if co = 0 then none
  else if co ≤ 0x10 then (if (t.chanDecl (co - 1)).isNone then some .chbad else none)
  else if 0x20 ≤ co ∧ co < 0x40 then (if (t.barDecl (co - 0x20)).isNone then some .illop else none)
  else some .illop

/-- Outstanding nests: until their completion objects fire (R343) (log 28). -/
def MeState.nests (m : MeState) : Nat :=
  (m.queue.filter fun i => match i with
    | .nest _ => true
    | _ => false).length

/-- MGO and MGO.CHAIN (R335, R343): its deadline names CYCLE + 16 D (06 R125). -/
def execMgo (o : BitVec 8) (c : BitVec 1) (d : BitVec 16) (s : State) : Out :=
  s.onTeam fun n t =>
    match t.coFault o.toNat with
    | some cause => s.trap n t .me cause 0 0 0
    | none =>
      if 4 ≤ t.me.nests then s
      else
        let seq := (t.me.seq + 1) % 2 ^ 32
        let nest : Nest := { desc := t.me.shadow, co := o.toNat, chain := c = 1, pc := t.me.ctl.pc, seq := seq,
                             named := if d = 0 then none else some (t.cycle + 16 * d.toNat), issued := t.cycle }
        match t.nestCheck nest with
        | some f =>
          s.raise n { cause := f.cause, eng := 2, operand := f.operand, field := f.field, pc := t.me.ctl.pc,
                      addr := BitVec.ofNat 64 f.addr, seq := seq }
        | none =>
          s.setTeam n (({ t with me := { t.me with seq := seq, queue := t.me.queue ++ [MeItem.nest nest] } }).step .me)

/-- MWAIT (R343). -/
def execMwait (k : BitVec 3) (s : State) : Out :=
  s.onTeam fun n t => if k.toNat < t.me.nests then s else s.setTeam n (t.step .me)

/-- MLOOP (R343, 09 R196). -/
def execMloop (c : BitVec 12) (l : BitVec 16) (s : State) : Out :=
  s.onTeam fun n t => s.loopWord n t .me (c.toNat + 1) l.toNat

/-- MJMP (R343, 09 R195, R197). -/
def execMjmp (o : BitVec 28) (s : State) : Out := s.onTeam fun n t => s.jumpWord n t .me o.toInt

/-- MEND (R343). -/
def execMend (s : State) : Out := s.onTeam fun n t => s.endStream n t .me

/-- MSWPT (R343, 06 R137). -/
def execMswpt (p : BitVec 8) (s : State) : Out := s.onTeam fun n t => s.swptWord n t .me p.toNat

/-- MCLR is queued among the nests (R343). -/
def State.mclr (s : State) (mask : Nat) : Out :=
  s.onTeam fun n t => s.setTeam n (({ t with me := { t.me with queue := t.me.queue ++ [MeItem.clear mask 0] } }).step .me)

/-- MCLR of buffer 0 (R343). -/
def execMclr0 (s : State) : Out := s.mclr 1
/-- MCLR of buffer 1 (R343). -/
def execMclr1 (s : State) : Out := s.mclr 2
/-- MCLR of both buffers (R343). -/
def execMclrBoth (s : State) : Out := s.mclr 3

/-- MDRAIN (R343): with no nest outstanding its clear is the ME's next step. -/
def execMdrain (s : State) : Out :=
  s.onTeam fun n t =>
    if 0 < t.me.nests then s
    else s.setTeam n (({ t with me := { t.me with queue := t.me.queue ++ [MeItem.drop 0] } }).step .me)

/-- A barrier wait of the ME, a TU or the GQ (07 R152, 06 R136): with TOG the phase is that of the innermost loop's
iteration. -/
def State.waitb (s : State) (n : Nat) (t : Team) (e : Engine) (b : BitVec 5) (p tog : BitVec 1) : State :=
  match t.barDecl b.toNat with
  | none => s.illop n t e
  | some d =>
    let go (ph : Bool) : State := if (t.bar d).phase = ph then s else s.setTeam n (t.step e)
    if tog = 0 then go (p = 1)
    else
      match (t.ctl e).loops with
      | [] => s.illop n t e
      | l :: _ => go ((p = 1) != decide (l.iter % 2 = 1))

/-- MWAITB (R343, 06 R136). -/
def execMwaitb (b : BitVec 5) (p t' : BitVec 1) (s : State) : Out := s.onTeam fun n t => s.waitb n t .me b p t'

end Sys2Proof.Machine
end

