-- ==== Sys2Proof/Machine/Memory.lean ====
section
/-!
DEFINITION. Sys2Proof/Machine/Memory.lean: the sequencer's accesses to memory (09 R198-R208, 15): reading a part through
the L1, at the home slice or over a port; storing; what a release and an acquire do; atomics and reductions.
-/
namespace Sys2Proof.Machine

/-! Ports (19 R428, R429). -/

/-- Send a non-posted request on a port; its number names it until it completes. -/
def State.portSend (s : State) (q : OutReq) (m : OutMsg) : State :=
  { s with host := { s.host with outReqs := s.host.outReqs ++ [{ q with id := s.host.nextReq, sent := s.time.toNat }],
                                 nextReq := s.host.nextReq + 1, out := m :: s.host.out } }

/-! Atomics and reductions at the home slice (15 R370, R371). -/

/-- The integer operation of ATOM and RED on patterns of `w` bits (09 R206, R208): 0 SWAP, 1 ADD, 2 AND, 3 OR, 4 XOR,
5 MIN, 6 MAX, 7 MINU, 8 MAXU. -/
def atomInt (op w x y : Nat) : Nat :=
  match op with
  | 0 => y % 2 ^ w
  | 1 => (x + y) % 2 ^ w
  | 2 => x &&& y % 2 ^ w
  | 3 => x ||| y % 2 ^ w
  | 4 => x ^^^ y % 2 ^ w
  | 5 => if signExt x w < signExt y w then x else y % 2 ^ w
  | 6 => if signExt x w < signExt y w then y % 2 ^ w else x
  | 7 => if x < y % 2 ^ w then x else y % 2 ^ w
  | _ => if x < y % 2 ^ w then y % 2 ^ w else x

/-- One floating addition of RED.FADD (08 R188). -/
def redFadd (f : FFmt) (x y : Nat) : Nat := f.round .rne (Fl.add .rne (f.decode x) (f.decode y))

/-- New contents of the addressed bytes, given the old: ATOM 0-8, CAS 16, RED 32-41. -/
def atomNew (op size old : Nat) (a b : DWord) : Nat :=
  if op = 16 then (if old = a.toNat then b.toNat else old)
  else if op = 40 then redFadd F32 old (b.toNat % 2 ^ 32)
  else if op = 41 then redFadd F64 old b.toNat
  else if 32 ≤ op then atomInt (op - 31) (8 * size) old b.toNat
  else atomInt op (8 * size) old b.toNat

/-- The holder mask of a line at its home slice: the cores whose L1 holds it (11 R261). -/
def State.holders (s : State) (ln : Nat) : List Nat := (s.cores.filter fun p => (SMap.get? p.2.l1 ln).isSome).map (·.1)

/-- The line leaves every L1 that holds it, dirty bytes written back (R371) (log 15). -/
def State.recallLine (s : State) (ln : Nat) : State :=
  (s.holders ln).foldl (fun (s : State) c => (s.l1WriteBack c ln).l1Drop c ln) s

/-- Apply an atomic or reduction at its home slice: recalled, indivisible, its write half tagged (16 R383).  A poisoned
granule leaves memory alone and marks d (17 R406); a dropped write still returns the old value (16 R395). -/
def State.applyAtom (s : State) (x : PAtom) : State :=
  let s0 := s.recallLine (x.pa / 128)
  let bad := s0.hbmMarked x.pa x.size
  let old := ofBytes (s0.readHbm x.pa x.size)
  let new := atomNew x.op x.size old x.a x.b
  let f : PendFault := { cause := .shadowfull, eng := 0, pc := x.pc, addr := BitVec.ofNat 64 x.va }
  let s1 :=
    if bad || (x.op = 16 && old ≠ x.a.toNat) then s0
    else
      let (s2, go) := s0.tagLine x.asid x.va (x.pa / 128) x.tagged (s0.writer (some x.slot) x.tid x.tix) f
      if go then s2.performBytes x.pa (toBytes x.size new) false else s2
  let s3 := s1.updTeam x.slot fun t =>
    match x.d with
    | some d => if t.tid = x.tid then t.loadS d (BitVec.ofNat 64 old) bad x.pc else t
    | none => t
  if x.acq && 1 ≤ x.scope then s3.invalidateKinds x.slot [1] else s3

/-- Apply every pending atomic and reduction that `p` selects, oldest first. -/
def State.applyAtoms (s : State) (p : PAtom → Bool) : State :=
  (s.atomq.filter p).foldl State.applyAtom { s with atomq := s.atomq.filter fun a => !p a }

/-! Order of one SQ's accesses. -/

/-- The SQ's own writes, atomics and reductions to a physical line are performed, so that its next access at the home
slice follows them (15 R360) (log 23). -/
def State.settleLine (s : State) (n ln : Nat) : State :=
  (s.performWrites fun w => w.slot = some n && w.eng = 0 &&
    (w.pa / 128 = ln || (destOf w.pa ≠ .hbm && destOf w.pa = destOf (128 * ln)))).applyAtoms fun a =>
    a.slot = n && a.pa / 128 = ln

/-- What a release does before it is performed (15 R363, R365): the SQ's earlier writes to pages of the kinds `ords`
are performed, its dirty lines of those kinds written back at cluster scope or wider (log 23). -/
def State.releaseActions (s : State) (n scope : Nat) (ords : List Nat) : State :=
  let s1 := (s.performWrites fun w => w.slot = some n && w.eng = 0 && ords.contains w.order).applyAtoms fun a => a.slot = n
  if 1 ≤ scope then s1.writeBackTeam n ords else s1

/-- What an acquire does once it has completed (R365) (log 23). -/
def State.acquireActions (s : State) (n scope : Nat) (ords : List Nat) : State :=
  if 1 ≤ scope then s.invalidateKinds n ords else s

/-- A flushing read is sent on each port that holds writes of the team (15 R368) (log 23). -/
def State.flushPorts (s : State) (n : Nat) (t : Team) : State :=
  t.posted.foldl (fun (s : State) p =>
    if s.linkUp p then
      (s.portSend { id := 0, port := p, slot := n, addr := 0, len := 0, d := none, op := 98 } (.portRead p 0 0)).updTeam n fun t =>
        { t with posted := t.posted.filter (· ≠ p), flushing := setInsert p t.flushing }
    else (s.updTeam n fun t => { t with posted := t.posted.filter (· ≠ p) }).portFailed p n 0 7) s

/-- A word at system scope: it sends a flushing read on each port that holds writes of the team issued before it, and is issued again
until they have completed (15 R368) (log 23). -/
def State.flushed (s : State) (n : Nat) (t : Team) (act : State → Team → State) : State :=
  if t.flushing ≠ [] then s
  else if !t.flushSent && t.posted.any s.portFull then s
  else if t.flushSent then act (s.setTeam n { t with flushSent := false }) { t with flushSent := false }
  else if t.posted.isEmpty then act s t
  else (s.flushPorts n t).updTeam n fun t => { t with flushSent := true }

/-- An acquire of the team's SQ has not completed: its later accesses to SO and RC pages wait (15 R363) (log 23). -/
def State.acqPending (s : State) (n : Nat) : Bool :=
  s.atomq.any (fun a => a.slot = n && a.acq) || s.host.outReqs.any fun q => q.slot = n && q.hold

/-- An earlier read of the SQ from an SO or RC page has not returned its value (15 R363) (log 23). -/
def State.readsOut (s : State) (n : Nat) : Bool := s.host.outReqs.any fun q => q.slot = n && q.op ≠ 98 && q.order ≠ 0

/-- A release by the SQ at a scope on a page kind (R363): on a UO page it is relaxed; the word is issued again until the SQ's earlier
reads have returned their values and, at system scope, the flushing reads have completed (R368) (log 23). -/
def State.release (s : State) (n scope order : Nat) (act : State → Team → State) : State :=
  match s.team? n with
  | none => s
  | some t =>
    if order = 0 then act s t
    else if s.readsOut n then s
    else
      let s1 := s.releaseActions n scope [1, 2]
      match s1.team? n with
      | none => s1
      | some t1 => if scope = 3 then s1.flushed n t1 act else act s1 t1

/-- An access of the SQ to pages of the kinds `ords`: it waits for an acquire under way, and on an SO page it is a release and an
acquire at system scope (15 R362, R363) (log 23). -/
def State.ordered (s : State) (n : Nat) (t : Team) (ords : List Nat) (act : State → Team → State) : State :=
  if (ords.any (· ≠ 0)) && s.acqPending n then s
  else if ords.contains 2 then s.release n 3 2 act
  else act s t

/-! Reading. -/

/-- Read bytes of one line held in the L1; reading dirty bytes makes the team an owner (15 R364). -/
def State.l1ReadLine (s : State) (c n ln off len : Nat) : State × List Byte × Bool :=
  match SMap.get? (s.core c).l1 ln with
  | none => (s, [], false)
  | some l =>
    let bs := ((toBytes 128 l.data.toNat).drop off).take len
    let mk := (unitsOf 64 off len).any fun g => bitAt l.marks.toNat g
    let own := bitsOf l.dirty.toNat off len ≠ 0
    let l' : L1Line := { l with owners := setInsert n l.owners }
    (if own then s.updCore c fun k => { k with l1 := SMap.insert k.l1 ln l' } else s, bs, mk)

/-- Addresses and lengths of the pieces of a range that lie in one line each. -/
def lineSpans : Nat → Nat → Nat → List (Nat × Nat)
  | 0, _, _ => []
  | k + 1, pa, len =>
    if len = 0 then []
    else
      let m := min len (128 - pa % 128)
      (pa, m) :: lineSpans k (pa + m) (len - m)

/-- Read one part of a load (R198, R199, R428).  `home` is an acquire, which the home slice serves. -/
def State.readPart (s : State) (n : Nat) (t : Team) (p : Part) (home : Bool) : State × LandPart :=
  let c := coreOfSlot n
  let cached := cacheable p.e.order p.e.l1c c
  let viaL1 (s : State) : State × LandPart :=
    (lineSpans 3 p.pa p.len).foldl (fun (acc : State × LandPart) sp =>
      let ln := sp.1 / 128
      let s1 := acc.1.settleLine n ln
      let s2 := s1.l1Fill c ln t.asid ((p.va + (sp.1 - p.pa)) / 128 * 128) p.e.order
      let (s3, bs, pm) := s2.l1ReadLine c n ln (sp.1 % 128) sp.2
      (s3, { acc.2 with bytes := acc.2.bytes ++ bs, mark := acc.2.mark || pm })) (s, { bytes := [], va := p.va, ln := p.pa / 128 })
  let clean (s : State) : State := if cached then (unitsOf 128 p.pa p.len).foldl (fun (s : State) ln => s.l1WriteBack c ln) s else s
  if cached && !home then viaL1 s
  else
  match destOf p.pa with
  | .nowhere => (s.logRec 0x30 [unitNum c, p.pa, p.pa / 64], { bytes := onesBytes p.len, mark := true, va := p.va, ln := p.pa / 128 })
  | .port q =>
    let s1 := (clean s).performWrites fun w => w.slot = some n && w.eng = 0
    if s1.linkUp q then
      (s1.portSend { id := 0, port := q, slot := n, addr := portAddr p.pa, len := p.len, va := p.va, d := none, acq := home || p.e.order = 2,
                     hold := home || p.e.order = 2, order := p.e.order } (.portRead q (portAddr p.pa) p.len), { bytes := onesBytes p.len, req := some s1.host.nextReq, va := p.va, ln := p.pa / 128 })
    else (s1.portFailed q n (portAddr p.pa) 7, { bytes := onesBytes p.len, mark := true, va := p.va, ln := p.pa / 128 })
  | .hbm =>
    (lineSpans 3 p.pa p.len).foldl (fun (acc : State × LandPart) sp =>
      let ln := sp.1 / 128
      let s2 := acc.1.settleLine n ln
      (s2, { acc.2 with bytes := acc.2.bytes ++ s2.readHbm sp.1 sp.2, mark := acc.2.mark || s2.hbmMarked sp.1 sp.2 }))
      (clean s, { bytes := [], va := p.va, ln := p.pa / 128 })

/-- Read every part; an SO part acts as an acquire at system scope (R362) (log 8). -/
def State.readParts (s : State) (n : Nat) (t : Team) (home : Bool) : List Part → State × List LandPart
  | [] => (s, [])
  | p :: r =>
    let (s2, l) := s.readPart n t p home
    let s3 := if p.e.order = 2 then s2.acquireActions n 3 [1] else s2
    let (s4, ls) := s3.readParts n t home r
    (s4, l :: ls)

/-- Whether every line of the parts is present in the core's L1, so that an untimed load has the hit latency of Table
6-2. -/
def State.l1Hit (s : State) (n : Nat) (ps : List Part) : Bool :=
  ps.all fun p => cacheable p.e.order p.e.l1c (coreOfSlot n) &&
    (unitsOf 128 p.pa p.len).all fun ln => (SMap.get? (s.core (coreOfSlot n)).l1 ln).isSome

/-- A load is performed: its value is that of the instant it is read, here its issue, and it stands in the landing buffer until it is
written; a load that hits the L1 is written 4 cycles later (Table 6-2) (log 8). -/
def State.loadIssue (s : State) (n : Nat) (t : Team) (d : BitVec 6) (ps : List Part) (size : Nat) (sgn : Bool) (arr : Nat)
    (home : Bool) (fin : Team → Team) : State :=
  let hit := s.l1Hit n ps && !home
  let named := if t.inHandler then none else if arr ≠ 0 then some (t.cycle + max arr 4) else if hit then some (t.cycle + 4) else none
  let (s1, ls) := s.readParts n t home ps
  let s2 := if home then s1.acquireActions n 1 [1] else s1
  let l : Landing := { d := d.toNat, pc := t.sq.ctl.pc, named := named, parts := ls, size := size, sgn := sgn,
                       arrived := hit }
  s2.updTeam n fun t1 =>
    match hit, named, l.value with
    | true, none, some (v, m) => (fin (t1.loadS d.toNat v m l.pc)).step .sq
    | _, _, _ => (fin { t1 with sq := { t1.sq with landing := t1.sq.landing ++ [l] } }).step .sq

/-- A part of a load would go out on a port that can take no request (19 Table 19-1). -/
def State.portsFull (s : State) (n : Nat) (home : Bool) (ps : List Part) : Bool :=
  ps.any fun p => (home || !cacheable p.e.order p.e.l1c (coreOfSlot n)) && s.atPortFull p.pa

/-- Issue a load of `size` bytes at `ea`: it stalls while the landing buffer is full; a failed lookup is precise (R198, R199).  `home`
says that it is an acquire, which the home slice serves; `fin` is what the word does besides (log 8). -/
def State.sqLoad (s : State) (n : Nat) (t : Team) (d : BitVec 6) (ea size : Nat) (sgn : Bool) (arr : Nat) (home : Bool)
    (fin : Team → Team := id) : State :=
  if 16 ≤ t.sq.landing.length then s
  else
    match kttParts (s.kslot n t) .r (size + 1) ea size with
    | .error f => s.kttTrap n t .sq 7 f
    | .ok ps =>
      if s.portsFull n home ps then s
      else s.ordered n t (ps.map (·.e.order)) fun s1 t1 => s1.loadIssue n t1 d ps size sgn arr home fin

/-! Writing. -/

/-- Write bytes of one line held in the L1; `tag` is the ASID and virtual line of a tagged store (16 R383). -/
def State.l1WriteLine (s : State) (c n num ln off : Nat) (bs : List Byte) (tag : Option (Nat × Nat)) : State :=
  s.updCore c fun k =>
    match SMap.get? k.l1 ln with
    | none => k
    | some l =>
      let data := setBits l.data.toNat (8 * off) (8 * bs.length) (ofBytes bs)
      let dirty := l.dirty.toNat ||| (2 ^ bs.length - 1) * 2 ^ off
      let l' : L1Line := { l with data := BitVec.ofNat 1024 data, dirty := BitVec.ofNat 128 dirty,
                                  owners := setInsert n l.owners, writes := l.writes ++ [(n, num)],
                                  tags := match tag with
                                    | some g => if l.tags.contains g then l.tags else l.tags ++ [g]
                                    | none => l.tags }
      { k with l1 := SMap.insert k.l1 ln l' }

/-- The bytes of a store that fall in a part. -/
def State.writePart (s : State) (n : Nat) (t : Team) (num : Nat) (home : Bool) (p : Part) (bs : List Byte) : State :=
  let c := coreOfSlot n
  let w : PWrite := { slot := some n, tid := t.tid, tix := t.teamix, eng := 0, pc := t.sq.ctl.pc, seq := 0, asid := t.asid, va := p.va,
                      pa := p.pa, bytes := bs, tagged := p.e.sreg.isSome, order := p.e.order, num := num }
  if cacheable p.e.order p.e.l1c c then
    (lineCuts 3 p.pa bs).foldl (fun (s : State) cut =>
      let ln := cut.1 / 128
      let s1 := s.settleLine n ln
      let lva := (p.va + (cut.1 - p.pa)) / 128 * 128
      if home then
        -- a copy that the L1 holds takes the new bytes from the home slice
        let s2 := (s1.l1WriteBack c ln).sendWrite { w with pa := cut.1, va := p.va + (cut.1 - p.pa), bytes := cut.2 }
        if (SMap.get? (s.core c).l1 ln).isSome then (s2.settleLine n ln).l1Refresh c ln (cut.1 % 128) cut.2 else s2
      else
        (s1.l1Fill c ln t.asid lva p.e.order).l1WriteLine c n num ln (cut.1 % 128) cut.2
          (if p.e.sreg.isSome then some (t.asid, lva) else none)) s
  else
    let s1 := (unitsOf 128 p.pa bs.length).foldl (fun (s : State) ln => s.applyAtoms fun a => a.slot = n && a.pa / 128 = ln) s
    if p.e.order = 2 then
      ((s1.sendWrite w).performWrites fun x => x.slot = some n && x.eng = 0 && x.num = num).acquireActions n 3 [1]
    else s1.sendWrite w

/-- The parts of a store, in ascending address. -/
def State.writeParts (s : State) (n : Nat) (t : Team) (num : Nat) (home : Bool) : List Part → List Byte → State
  | [], _ => s
  | p :: r, bs => (s.writePart n t num home p (bs.take p.len)).writeParts n t num home r (bs.drop p.len)

/-- Issue a store: it completes at issue and adds one to the write-drain count (R201). -/
def State.sqStore (s : State) (n : Nat) (t : Team) (ea : Nat) (bs : List Byte) (home : Bool) : State :=
  match kttParts (s.kslot n t) .w (bs.length + 1) ea bs.length with
  | .error f => s.kttTrap n t .sq 8 f
  | .ok ps =>
    s.ordered n t (ps.map (·.e.order)) fun s1 t1 =>
      let num := t1.wIssued + 1
      (s1.writeParts n t1 num home ps bs).updTeam n fun u => ({ u with wIssued := num }).step .sq

/-! Waiting for drains (03 R57, 15 R367). -/

/-- A word that writes back the team's dirty lines on RC and UO pages and waits until every write counted at its issue
has drained.  While it waits, the word is issued again; WRITE_DRAIN_DONE performs the writes (log 23, 41). -/
def State.afterDrain (s : State) (n : Nat) (t : Team) (act : State → Team → State) : State :=
  let k := t.waitDrain.getD t.wIssued
  let s1 := if t.waitDrain.isNone then s.writeBackTeam n [0, 1] else s
  if s1.undrained n k then s1.updTeam n fun t => { t with waitDrain := some k }
  else
    match s1.team? n with
    | none => s1
    | some t1 =>
      let t2 := { t1 with waitDrain := none }
      act (s1.setTeam n t2) t2

end Sys2Proof.Machine
end

