-- ==== Sys2Proof/Machine/SqMem.lean ====
section
/-!
DEFINITION. Sys2Proof/Machine/SqMem.lean: the sequencer's loads, stores, scratchpad and window words, ordered accesses,
fences, load blocks and cache maintenance (09 R198-R205, R209-R211, R225; 15).
-/
namespace Sys2Proof.Machine

/-! Global loads (R198, R199). -/

def State.loadWord (s : State) (d b : BitVec 6) (r : BitVec 6) (p : BitVec 8) (size : Nat) (sgn : Bool) : Out :=
  s.sqWord [b] fun n t => s.sqLoad n t d (t.eaM b p size) size sgn r.toNat false

/-- LDB (09 R199). -/
def execLdb (d b r : BitVec 6) (p : BitVec 8) (s : State) : Out := s.loadWord d b r p 1 true
/-- LDBU (09 R199). -/
def execLdbu (d b r : BitVec 6) (p : BitVec 8) (s : State) : Out := s.loadWord d b r p 1 false
/-- LDH (09 R199). -/
def execLdh (d b r : BitVec 6) (p : BitVec 8) (s : State) : Out := s.loadWord d b r p 2 true
/-- LDHU (09 R199). -/
def execLdhu (d b r : BitVec 6) (p : BitVec 8) (s : State) : Out := s.loadWord d b r p 2 false
/-- LDW (09 R199). -/
def execLdw (d b r : BitVec 6) (p : BitVec 8) (s : State) : Out := s.loadWord d b r p 4 true
/-- LDWU (09 R199). -/
def execLdwu (d b r : BitVec 6) (p : BitVec 8) (s : State) : Out := s.loadWord d b r p 4 false
/-- LDD (09 R199). -/
def execLdd (d b r : BitVec 6) (p : BitVec 8) (s : State) : Out := s.loadWord d b r p 8 false

/-! Global stores (R201). -/

/-- The low `n` bytes of a register. -/
def lowBytes (n : Nat) (v : DWord) : List Byte := toBytes n v.toNat

def State.storeWord (s : State) (d b : BitVec 6) (p : BitVec 8) (size : Nat) : Out :=
  s.sqWord [d, b] fun n t => s.sqStore n t (t.eaM b p size) (lowBytes size (t.s d)) false

/-- STB (09 R201). -/
def execStb (d b : BitVec 6) (p : BitVec 8) (s : State) : Out := s.storeWord d b p 1
/-- STH (09 R201). -/
def execSth (d b : BitVec 6) (p : BitVec 8) (s : State) : Out := s.storeWord d b p 2
/-- STW (09 R201). -/
def execStw (d b : BitVec 6) (p : BitVec 8) (s : State) : Out := s.storeWord d b p 4
/-- STD (09 R201). -/
def execStd (d b : BitVec 6) (p : BitVec 8) (s : State) : Out := s.storeWord d b p 8

/-! Scratchpad and windows (R202, R203). -/

/-- LDS (09 R202): a read of a poisoned beat marks the register (R200). -/
def execLds (d a : BitVec 6) (z : BitVec 2) (o : BitVec 12) (s : State) : Out :=
  s.sqWord [a] fun n t =>
    let size := 2 ^ z.toNat
    let la := t.eaLocal a o
    match t.localFault la size with
    | some c => s.trap n t .sq c 0 (la % 2 ^ 23) 0
    | none =>
      let v := BitVec.ofInt 64 (signExt (ofBytes (t.spRead la size)) (8 * size))
      s.setTeam n ((t.loadS d.toNat v (t.spMarked la size) t.sq.ctl.pc).step .sq)

/-- STS (09 R202): a partial write of its dtile. -/
def execSts (d a : BitVec 6) (z : BitVec 2) (o : BitVec 12) (s : State) : Out :=
  s.sqWord [d, a] fun n t =>
    let size := 2 ^ z.toNat
    let la := t.eaLocal a o
    match t.localFault la size with
    | some c => s.trap n t .sq c 0 (la % 2 ^ 23) 0
    | none => s.setTeam n ((t.spStore la (lowBytes size (t.s d))).step .sq)

/-- LDP (09 R203, Table 9-3). -/
def execLdp (d a : BitVec 6) (w : BitVec 3) (o : BitVec 11) (s : State) : Out :=
  s.sqWord [a] fun n t =>
    let off := (t.s a + BitVec.ofNat 64 (8 * o.toNat)).toNat
    match t.k.wins[w.toNat]? with
    | none => s.trap n t .sq .pwunb 0 0 0
    | some win =>
      if !win.bound then s.trap n t .sq .pwunb 0 0 0
      else if off % 8 ≠ 0 then s.trap n t .sq .align 0 ((win.base + off) % 2 ^ 64) 0
      else if off + 8 ≤ win.size then s.sqLoad n t d ((win.base + off) % 2 ^ 64) 8 false 0 false
      else if off < win.size then
        s.sqLoad n t d ((win.base + off) % 2 ^ 64) (win.size - off) false 0 false Team.flagPwoob
      else s.setTeam n (((t.setS d 0).flagPwoob).step .sq)

/-! Ordered accesses (R204, 15 R362-R365). -/

/-- The kind of the page that holds an aligned access: one entry covers it. -/
def pageOrder (ks : KSlot) (ea : Nat) : Nat :=
  match ks.ktt.find? (·.covers ea) with
  | some e => e.order
  | none => 0

/-- LDA (09 R204): an acquire at cluster scope or wider is served at the home slice and then invalidates (R363, R365). -/
def execLda (d a : BitVec 6) (u : BitVec 1) (z c : BitVec 2) (s : State) : Out :=
  s.sqWord [a] fun n t =>
    let size := 2 ^ z.toNat
    let ea := (t.s a).toNat
    if u = 1 ∧ z = 3 then s.illop n t .sq
    else if ea % size ≠ 0 then s.trap n t .sq .align 0 ea 0
    else
      let ord := pageOrder (s.kslot n t) ea
      let wide := 1 ≤ c.toNat && ord ≠ 0
      match kttLookup (s.kslot n t) ea .r with
      | .error f => s.kttTrap n t .sq 7 f
      | .ok _ => s.sqLoad n t d ea size (u = 0) 0 wide

/-- STL (09 R204): a release store; at cluster scope or wider it is performed at the home slice. -/
def execStl (d a : BitVec 6) (z c : BitVec 2) (s : State) : Out :=
  s.sqWord [d, a] fun n t =>
    let size := 2 ^ z.toNat
    let ea := (t.s a).toNat
    if ea % size ≠ 0 then s.trap n t .sq .align 0 ea 0
    else
      let ord := pageOrder (s.kslot n t) ea
      match kttLookup (s.kslot n t) ea .w with
      | .error f => s.kttTrap n t .sq 8 f
      | .ok _ => s.release n c.toNat ord fun s1 t1 =>
          s1.sqStore n t1 ea (lowBytes size (t1.s d)) (1 ≤ c.toNat && ord ≠ 0)

/-- Whether a write of the SQ itself numbered at most `k`, an atomic or a reduction has not reached its home slice. -/
def State.sqUndrained (s : State) (n k : Nat) : Bool :=
  s.fabric.any (fun w => w.slot = some n && w.eng = 0 && w.num ≤ k) || s.atomq.any (fun a => a.slot = n)

/-- FENCE (09 R205, 15 R365, R367).  While it waits the word is issued again (log 23). -/
def State.fence (s : State) (acq rel : Bool) (scope : Nat) : Out :=
  s.sqWord [] fun n t =>
    let kinds := if acq && rel then [0, 1] else [1]
    let k := t.waitDrain.getD t.wIssued
    let s1 := if rel && t.waitDrain.isNone && 1 ≤ scope then s.writeBackTeam n (if 2 ≤ scope then [0, 1] else kinds) else s
    let waits := (acq && !t.sq.landing.isEmpty) || (rel && (if 2 ≤ scope then s1.undrained n k else s1.sqUndrained n k))
    let go (s1 : State) : State :=
      (if acq then s1.acquireActions n scope kinds else s1).updTeam n fun t => ({ t with waitDrain := none }).step .sq
    if waits then s1.updTeam n fun t => { t with waitDrain := some k }
    else if rel && scope = 3 then
      match s1.team? n with
      | none => s1
      | some t1 => s1.flushed n { t1 with waitDrain := some k } fun s2 _ => go s2
    else go s1

/-- FENCE.full at team scope (09 R205). -/
def execFenceFullT (s : State) : Out := s.fence true true 0
/-- FENCE.full at cluster scope (09 R205). -/
def execFenceFullC (s : State) : Out := s.fence true true 1
/-- FENCE.full at device scope (09 R205). -/
def execFenceFullD (s : State) : Out := s.fence true true 2
/-- FENCE.full at system scope (09 R205). -/
def execFenceFullS (s : State) : Out := s.fence true true 3
/-- FENCE.acq (09 R205). -/
def execFenceAcq (c : BitVec 2) (s : State) : Out := s.fence true false c.toNat
/-- FENCE.rel (09 R205). -/
def execFenceRel (c : BitVec 2) (s : State) : Out := s.fence false true c.toNat

/-! Load blocks (R209-R211). -/

/-- Look up `n` lines from `ea` for an access; each with its physical line, virtual line address and entry. -/
def lineLookups (ks : KSlot) (acc : Acc) : Nat → Nat → Except KttFail (List (Nat × Nat × Nat × KttEntry))
  | 0, _ => .ok []
  | k + 1, ea =>
    match kttLookup ks ea acc with
    | .error f => .error f
    | .ok e =>
      match lineLookups ks acc k ((ea + 128) % 2 ^ 64) with
      | .error f => .error f
      | .ok r => .ok (((e.pa + (ea - e.va)) / 128, ea, (ks.ktt.findIdx? (·.covers ea)).getD 0, e) :: r)

/-- LDBLK (09 R209): a line that no L1 may hold raises KTTPERM. -/
def execLdblk (f a n : BitVec 6) (s : State) : Out :=
  s.sqWord [a] fun sl t =>
    let ea := (t.s a).toNat
    if 32 ≤ f.toNat then s.illop sl t .sq
    else if ea % 128 ≠ 0 then s.trap sl t .sq .align 0 ea 0
    else
      match lineLookups (s.kslot sl t) .r (n.toNat + 1) ea with
      | .error e => s.kttTrap sl t .sq 7 e
      | .ok ls =>
        match ls.find? fun l => !cacheable l.2.2.2.order l.2.2.2.l1c (coreOfSlot sl) with
        | some l => s.trap sl t .sq .kttperm 7 l.2.1 l.2.2.1
        | none =>
          let b : Block := { lines := ls.map fun l => (l.1, l.2.1), decl := s.time.toNat }
          s.setTeam sl (({ t with blocks := SMap.insert t.blocks f.toNat b }).step .sq)

/-- BLKWAIT (09 R210). -/
def execBlkwait (f : BitVec 6) (s : State) : Out :=
  s.sqWord [] fun n t =>
    if 32 ≤ f.toNat then s.illop n t .sq
    else
      match SMap.get? t.blocks f.toNat with
      | some b => if b.flag then s.setTeam n (t.step .sq) else s
      | none => s.setTeam n (t.step .sq)

/-- BLKFREE (09 R210): the lines become ordinary lines. -/
def execBlkfree (f : BitVec 6) (s : State) : Out :=
  s.sqWord [] fun n t =>
    if 32 ≤ f.toNat then s.illop n t .sq
    else s.setTeam n (({ t with blocks := SMap.erase t.blocks f.toNat }).step .sq)

/-! Cache maintenance (R225). -/

/-- Run CWB, CINV or CWBI: alignment and lookups first, then one line a step; a halt stops it between lines and it goes
on from there.  It completes when its write-backs have reached their home slices, which they have at once here (log 32). -/
def State.maintain (s : State) (a : BitVec 6) (n : BitVec 10) (acc : Acc) (line : State → Nat → Nat → State) : Out :=
  s.sqWord [a] fun sl t =>
    let ea := (t.s a).toNat
    let k := t.scan.getD 0
    if ea % 128 ≠ 0 then s.trap sl t .sq .align 0 ea 0
    else
      match lineLookups (s.kslot sl t) acc (n.toNat + 1 - k) ((ea + 128 * k) % 2 ^ 64) with
      | .error e => (s.setTeam sl { t with scan := none }).kttTrap sl { t with scan := none } .sq 0 e
      | .ok [] => s.setTeam sl (({ t with scan := none }).step .sq)
      | .ok (l :: r) =>
        let c := coreOfSlot sl
        let s1 := if cacheable l.2.2.2.order l.2.2.2.l1c c then line s c l.1 else s
        s1.updTeam sl fun t => if r.isEmpty then ({ t with scan := none }).step .sq else { t with scan := some (k + 1) }

/-- CWB (09 R225). -/
def execCwb (a : BitVec 6) (n : BitVec 10) (s : State) : Out := s.maintain a n .r fun s c ln => s.l1WriteBack c ln
/-- CINV (09 R225): dirty bytes are lost. -/
def execCinv (a : BitVec 6) (n : BitVec 10) (s : State) : Out := s.maintain a n .w fun s c ln => s.l1Drop c ln
/-- CWBI (09 R225). -/
def execCwbi (a : BitVec 6) (n : BitVec 10) (s : State) : Out :=
  s.maintain a n .w fun s c ln => (s.l1WriteBack c ln).l1Drop c ln

end Sys2Proof.Machine
end

