-- ==== Sys2Proof/Machine/SqSys.lean ====
section
/-!
DEFINITION. Sys2Proof/Machine/SqSys.lean: special registers, team control, traps and the return from the handler (09 R215-
R217, R226; 04 R87, R96, R97; 17 R401-R403).
-/
namespace Sys2Proof.Machine

/-- MFS (09 R216). -/
def execMfs (d : BitVec 6) (n : BitVec 10) (s : State) : Out :=
  s.sqWord [] fun sl t =>
    match s.special sl t n.toNat with
    | none => s.illop sl t .sq
    | some v => s.setTeam sl ((t.setS d v).step .sq)

/-- MTS (09 R216, 07 R155): STATUS clears by ones, BOOSTREQ keeps bits [3:0] (18 R417), EPC only in the handler. -/
def execMts (a : BitVec 6) (n : BitVec 10) (s : State) : Out :=
  s.sqWord [a] fun sl t =>
    match s.special sl t n.toNat with
    | none => s.illop sl t .sq
    | some _ =>
      if n = 0x008 then s.setTeam sl ((t.clearFlags (t.s a)).step .sq)
      else if n = 0x021 then s.setTeam sl (({ t with boost := (t.s a).setWidth 4 }).step .sq)
      else if n = 0x031 ∧ t.inHandler then s.setTeam sl (({ t with epc := t.s a }).step .sq)
      else s.trap sl t .sq .priv 0 0 0

/-- YIELD (04 Table 4-2): the team leaves its core when its reads in flight have landed (R89); with no other team ready, it goes
on. -/
def execYield (s : State) : Out :=
  s.sqWord [] fun n t =>
    let s1 := s.setTeam n (t.step .sq)
    if ((s1.nextReady (coreOfSlot n) (n % 16)).getD n) = n then s1 else s1.leave n

/-- SWPT (06 R137). -/
def execSwpt (p : BitVec 8) (s : State) : Out := s.sqWord [] fun n t => s.swptWord n t .sq p.toNat

/-- PSTART (04 R96). -/
def execPstart (s : State) : Out := s.sqStep [] fun t => { t with pstarted := true }

/-- Park the issuing team: it leaves its core when its reads in flight have landed (R89), and the word is issued again once the wait
is satisfied (04 R87) (log 41). -/
def State.parkTeam (s : State) (n : Nat) (p : Park) : State := (s.updTeam n fun t => { t with park := some p }).leave n

/-- Every HINTED predecessor of a task has left the window (04 R97). -/
def State.hintedLeft (s : State) (tid : Nat) : Bool :=
  match s.task? tid with
  | none => true
  | some k => k.edges.all fun e => !e.2 || (s.task? e.1).isNone

/-- PWAIT (04 R97): it orders as an acquire at device scope.  It completes once the SQ's earlier loads have landed, and no line of an
RC or UO page stays in the L1, so that every read that completes after it returns the predecessors' last writes (R98) (log 8). -/
def execPwait (s : State) : Out :=
  s.sqWord [] fun n t =>
    if t.pwaited || s.hintedLeft t.tid then
      if !t.sq.landing.isEmpty then s
      else (s.acquireActions n 2 [0, 1]).updTeam n fun t => ({ t with pwaited := true }).step .sq
    else s.parkTeam n .pwait

/-- EXIT and EXIT.ERR (09 R215): the other engines stop; once their nests and jobs have completed the team's dirty lines
are written back (15 R367) and its slot is released.  With error after a fault it is a kill, which waits for nothing (17 R403) (log
38, 41). -/
def State.exitWord (s : State) (err : Bool) : Out :=
  s.sqWord [] fun n t =>
    let es := allEngines.filter fun e => e ≠ .sq && t.hasEngine e
    let t1 := { es.foldl (fun t e => t.updCtl e EngCtl.stop) t with exiting := some err }
    if err && t.errored then
      ((s.setTeam n t1).logKill n t1 none).killTeam n (BitVec.ofNat 32 (0x04000000 + (t1.faults.getD 0 0).toNat % 256))
    else if es.any t.outstanding then s.setTeam n t1
    else
      (((s.setTeam n t1).writeBackTeam n [0, 1]).updTask t.tid fun k =>
        { k with exited := setInsert t.teamix k.exited, slots := k.slots.filter (· ≠ n), exitErr := k.exitErr || err }
      ).releaseSlot n

/-- EXIT (09 R215). -/
def execExit (s : State) : Out := s.exitWord false
/-- EXIT with error (09 R215). -/
def execExitErr (s : State) : Out := s.exitWord true

/-- TRAP and BRK take their exception with the code in the record; EPC is the word after (09 R226, 17 R401). -/
def State.trapWord (s : State) (c : Cause) (code : BitVec 10) : Out :=
  s.sqWord [] fun n t => s.raise n { cause := c, eng := 0, pc := t.sq.ctl.pc, code := code.toNat }

/-- TRAP (09 R226). -/
def execTrap (n : BitVec 10) (s : State) : Out := s.trapWord .trap n
/-- BRK (09 R226). -/
def execBrk (n : BitVec 10) (s : State) : Out := s.trapWord .brk n

/-- ERET (09 R226, 17 R402): outside the handler it raises PRIV. -/
def execEret (s : State) : Out :=
  s.sqWord [] fun n t => if t.inHandler then s.setTeam n t.eret else s.trap n t .sq .priv 0 0 0

end Sys2Proof.Machine
end

