-- ==== Sys2Proof/Machine/Walk.lean ====
section
/-!
DEFINITION. Sys2Proof/Machine/Walk.lean: page tables and their walk, the TLBs of the device engines, and the accesses that the
device's own units make by virtual address (05 R99-R105, 15 R375, R376, 16 R383).
-/
namespace Sys2Proof.Machine

/-! Accesses by physical address from a unit of the device (19 R428). -/

/-- Read `n` bytes for a unit of the device. -/
def State.readPhys (s : State) (pa n : Nat) : State × List Byte × Bool := s.unitRead 0 0xFFFF pa n true

/-- Write bytes within one line. -/
def State.writePhys (s : State) (pa : Nat) (bs : List Byte) (mark : Bool) : State :=
  s.performWrite { slot := none, tid := 0, eng := 0, pc := 0, seq := 0, asid := 0, va := 0, pa := pa, bytes := bs, mark := mark }

/-! The walk (R99-R102). -/

/-- Why a walk fails; a poisoned entry with its address. -/
inductive WalkFail where
  | notPresent | malformed
  | poisoned (at_ : Nat)
deriving DecidableEq, Repr

/-- The cause code of Table 5-4. -/
def WalkFail.code : WalkFail → Nat
  | .notPresent => 0xE1 | .malformed => 0xE2 | .poisoned _ => 0xE4

/-- Bytes mapped by a leaf at level `l`. -/
def pageSize (l : Nat) : Nat := 2 ^ (12 + 9 * l)
def ptePa (e : Nat) : Nat := bitsOf e 12 40 * 4096
def pteLeaf (e : Nat) : Bool := bitAt e 3

/-- R101 and R102 for a valid entry with index `i` at level `l`. -/
def pteMalformed (e l i : Nat) : Bool :=
  bitAt e 63 || bitsOf e 10 2 ≠ 0 ||
  (if pteLeaf e then
     3 ≤ l || bitsOf e 4 2 = 3 || (bitAt e 2 && !bitAt e 1) || ptePa e % pageSize l ≠ 0 ||
     (bitAt e 7 && ptePa e % (16 * pageSize l) ≠ i % 16 * pageSize l)
   else l = 0 || bitsOf e 4 6 ≠ 0 || bitsOf e 1 2 ≠ 0)

/-- The index of an address at a level. -/
def vaIndex (va l : Nat) : Nat := bitsOf va (12 + 9 * l) 9

/-- The translation of a leaf entry. -/
def leafEntry (asid va e l i : Nat) : TlbEntry :=
  let size := if bitAt e 7 then 16 * pageSize l else pageSize l
  { asid := asid, global := bitAt e 8, va := va - va % size, size := size,
    pa := if bitAt e 7 then ptePa e - i % 16 * pageSize l else ptePa e,
    r := bitAt e 1, w := bitAt e 2, order := bitsOf e 4 2, l1c := bitAt e 6, snapok := bitAt e 9 }

/-- Walk of R102 from the table at `tab`, levels `l - 1` down to 0, with the non-leaf entries it read.  An entry in the hole of 19 Table
19-4 reads poisoned.  One whose address routes to a PCIe port has no home L2 slice, and no rule says what its read gives: the model's
choice is that the walk fails with POISONED (log 42). -/
def State.walkFrom (s : State) (asid va : Nat) : Nat → Nat → Except WalkFail TlbEntry × List WalkEntry
  | 0, _ => (.error .malformed, [])
  | l + 1, tab =>
    let i := vaIndex va l
    let at_ := tab + 8 * i
    if destOf at_ ≠ .hbm || s.hbmMarked at_ 8 then (.error (.poisoned at_), [])
    else
      let e := s.read64 at_
      if !bitAt e 0 then (.error .notPresent, [])
      else if pteMalformed e l i then (.error .malformed, [])
      else if pteLeaf e then (.ok (leafEntry asid va e l i), [])
      else
        let (res, path) := s.walkFrom asid va l (ptePa e)
        (res, { asid := asid, level := l, pre := va / pageSize l, pa := ptePa e } :: path)

/-- Walk of an ASID's tables.  The root is the one in effect since the last whole-ASID acknowledgement (R99).  An address
beyond 57 bits names no page. -/
def State.walk (s : State) (asid va : Nat) : Except WalkFail TlbEntry :=
  let root := (s.asid asid).ptroot'.toNat
  if bitAt root 0 && va < 2 ^ 57 then (s.walkFrom asid va 5 (bitsOf root 12 40 * 4096)).1 else .error .notPresent

/-- What a walk reports: an entry in the hole is logged (19 Table 19-4) (log 10, 42). -/
def State.walkNote (s : State) (r : Except WalkFail TlbEntry) : State :=
  match r with
  | .error (.poisoned a) => if destOf a = .nowhere then s.logRec 0x30 [0, a, a / 64] else s
  | _ => s

/-! TLBs and walker caches (R104, R105). -/

def TlbEntry.hits (e : TlbEntry) (asid va : Nat) : Bool :=
  (e.global || e.asid = asid) && e.va ≤ va && va < e.va + e.size

def State.tlb (s : State) (stop : Nat) : List TlbEntry := SMap.get [] s.tlbs stop
def State.setTlb (s : State) (stop : Nat) (l : List TlbEntry) : State :=
  { s with tlbs := SMap.put [] s.tlbs stop (l.take 64) }

/-- An entry becomes the most recently used of a stop's TLB; the least recently used falls out (log 15). -/
def State.tlbInsert (s : State) (stop : Nat) (e : TlbEntry) : State :=
  s.setTlb stop (e :: (s.tlb stop).filter (· ≠ e))

/-- The first matching entry held by another stop, in ring order from the asking stop. -/
def State.tlbProbe (s : State) (stop asid va : Nat) : Option TlbEntry :=
  ((List.range 23).map fun i => (stop + 1 + i) % 24).findSome? fun k => (s.tlb k).find? (·.hits asid va)

/-- A walk through one walker: it starts from the deepest cached non-leaf entry, and caches what it reads (the oldest
falls out; the replacement is open, log 15). -/
def State.walkCached (s : State) (walker asid va : Nat) : State × Except WalkFail TlbEntry :=
  let cache := SMap.get [] s.walkers walker
  let root := (s.asid asid).ptroot'.toNat
  let hit := [1, 2, 3, 4].findSome? fun l => cache.find? fun w => w.asid = asid && w.level = l && w.pre = va / pageSize l
  let (res, path) :=
    match hit with
    | some w => s.walkFrom asid va w.level w.pa
    | none =>
      if bitAt root 0 && va < 2 ^ 57 then s.walkFrom asid va 5 (bitsOf root 12 40 * 4096) else (.error .notPresent, [])
  ({ s with walkers := SMap.put [] s.walkers walker ((path ++ cache.filter fun w => !path.contains w).take 32) }.walkNote res, res)

/-- What a device engine does for one translation: its TLB, then a probe, then a walk.  Which walker serves it is open
(log 15). -/
def State.translate (s : State) (stop asid va : Nat) : State × Except WalkFail TlbEntry :=
  match (s.tlb stop).find? (·.hits asid va) with
  | some e => (s.tlbInsert stop e, .ok e)
  | none =>
    match s.tlbProbe stop asid va with
    | some e => (s.tlbInsert stop e, .ok e)
    | none =>
      let (s1, r) := s.walkCached (stop % 4) asid va
      match r with
      | .ok e => (s1.tlbInsert stop e, .ok e)
      | .error f => (s1, .error f)

/-! Accesses of a device-engine job (R105, 15 R376). -/

/-- The job's ring stop, ASID and footprint. -/
structure EngCtx where
  stop : Nat
  asid : Nat
  regions : List Region
deriving DecidableEq, Repr

def Region.covers (g : Region) (va n : Nat) : Bool := g.base ≤ va && va + n ≤ g.base + g.len

/-- Pieces of a range that lie in one 4 KiB page each. -/
def pageSpans : Nat → Nat → Nat → List (Nat × Nat)
  | 0, _, _ => []
  | k + 1, va, n =>
    if n = 0 then [] else
      let m := min n (4096 - va % 4096)
      (va, m) :: pageSpans k (va + m) (n - m)

/-- One read of `n` bytes by a job: footprint, translation, permission, home slice.  The error is the cause and detail of
Table 12-1. -/
def State.engRead (s : State) (c : EngCtx) (va n : Nat) : State × Except (Nat × Nat) (List Byte × Bool) :=
  if !(c.regions.any fun g => g.r && g.covers va n) then (s, .error (0x0E, 0))
  else
    (pageSpans (n / 4096 + 2) va n).foldl (fun (acc : State × Except (Nat × Nat) (List Byte × Bool)) sp =>
      match acc.2 with
      | .error e => (acc.1, .error e)
      | .ok (bs, m) =>
        let (s1, tr) := acc.1.translate c.stop c.asid sp.1
        match tr with
        | .error f => (s1, .error (f.code, 0))
        | .ok e =>
          if !e.r then (s1, .error (0xE3, 0))
          else
            let (s2, b, pm) := s1.readPhys (e.pa + (sp.1 - e.va)) sp.2
            (s2, .ok (bs ++ b, m || pm))) (s, .ok ([], false))

/-- One write by a job.  A write through a SNAPOK translation carries a tag; without a slot the job stops with cause 0x0F
and the region (16 R395). -/
def State.engWrite (s : State) (c : EngCtx) (va : Nat) (bs : List Byte) (mark : Bool) : State × Except (Nat × Nat) Unit :=
  if !(c.regions.any fun g => g.w && g.covers va bs.length) then (s, .error (0x0E, 0))
  else
    let (s9, r, _) := (pageSpans (bs.length / 4096 + 2) va bs.length).foldl
      (fun (acc : State × Except (Nat × Nat) Unit × List Byte) sp =>
        match acc.2.1 with
        | .error e => (acc.1, .error e, [])
        | .ok _ =>
          let (s1, tr) := acc.1.translate c.stop c.asid sp.1
          match tr with
          | .error f => (s1, .error (f.code, 0), [])
          | .ok e =>
            if !e.w then (s1, .error (0xE3, 0), [])
            else
              let base := e.pa + (sp.1 - e.va)
              let (s2, bad) := (lineCuts (sp.2 / 128 + 2) base (acc.2.2.take sp.2)).foldl
                (fun (a : State × Option Nat) cut =>
                  if a.2.isSome then a
                  else
                    let at_ := sp.1 + (cut.1 - base)
                    let (s3, go) := a.1.tagLine c.asid at_ (cut.1 / 128) (e.snapok && destOf cut.1 = .hbm) none
                      { cause := .shadowfull, eng := 6 }
                    if go then (s3.writePhys cut.1 cut.2 mark, none)
                    else (s3, some ((s3.regionOfLine c.asid (at_ / 128 * 128)).getD 0))) (s1, none)
              match bad with
              | none => (s2, .ok (), acc.2.2.drop sp.2)
              | some rg => (s2, .error (0x0F, rg), [])) (s, .ok (), bs)
    (s9, r)

/-- A read by the queue manager or dispatcher under a task's ASID, without a footprint (02 R21), page by page, with what it reports and
sends on the ports (19 R428, R429).  None when a translation fails; the flag is poison. -/
def State.virtAccess (s : State) (asid va n : Nat) : State × Option (List Byte × Bool) :=
  (pageSpans (n / 4096 + 2) va n).foldl (fun acc sp =>
    match acc.2 with
    | none => acc
    | some (bs, m) =>
      match acc.1.walk asid sp.1 with
      | .error f => (acc.1.walkNote (.error f), none)
      | .ok e =>
        if !e.r then (acc.1, none)
        else
          let r := acc.1.readPhys (e.pa + (sp.1 - e.va)) sp.2
          (r.1, some (bs ++ r.2.1, m || r.2.2))) (s, some ([], false))

/-- What such a read gives. -/
def State.virtRead (s : State) (asid va n : Nat) : Option (List Byte × Bool) := (s.virtAccess asid va n).2

/-- Such a read among others. -/
def virtM (asid va n : Nat) : StateM State (Option (List Byte × Bool)) := fun s => ((s.virtAccess asid va n).2, (s.virtAccess asid va n).1)

/-- A write by the queue manager; nothing when the translation fails. -/
def State.virtWrite (s : State) (asid va : Nat) (bs : List Byte) : State :=
  match s.walk asid va with
  | .error f => s.walkNote (.error f)
  | .ok e => s.writePhys (e.pa + (va - e.va)) bs false

end Sys2Proof.Machine
end

