-- ==== Sys2Proof/Machine/Units.lean ====
section
/-!
DEFINITION. Sys2Proof/Machine/Units.lean: futures, tickets and ring control blocks (03 R47-R49, R69-R77), shared by the
sequencer's words, the tasks and the resolver.
-/
namespace Sys2Proof.Machine

/-! Waking teams (03 R71, 04 R87). -/

/-- The parked teams that `hit` selects become ready with what they observe; a core with no issuing team lets one issue. -/
def State.wakeBy (s : State) (hit : Team → Bool) (seen : Option (FStateName × DWord)) : State :=
  let woken := (s.teams.filter fun e => hit e.2).map (·.1)
  let up (t : Team) : Team := if hit t then { t with park := none, woke := seen } else t
  let s1 := { s with teams := s.teams.map fun e => (e.1, up e.2), swapped := s.swapped.map up }
  (woken.map coreOfSlot).eraseDups.foldl State.wakeCore s1

/-- Teams whose parked wait `p` selects become ready. -/
def State.wakeTeams (s : State) (p : Park → Bool) (seen : Option (FStateName × DWord) := none) : State :=
  s.wakeBy (fun t => match t.park with
    | some w => p w
    | none => false) seen

/-! Futures (R69-R73). -/

def State.future (s : State) (i : Nat) : Future := SMap.get {} s.futures i
def State.setFuture (s : State) (i : Nat) (f : Future) : State := { s with futures := SMap.put {} s.futures i f }

/-- The entry a handle names; none when it is null or stale for the ASID (R69). -/
def State.futureOf (s : State) (asid : Nat) (h : BitVec 32) : Option Nat :=
  let i := h.toNat % 65536
  let f := s.future i
  if i = 0 ∨ f.st = .free ∨ f.gen.toNat ≠ h.toNat / 65536 ∨ f.asid ≠ some asid then none else some i

def FStateName.final : FStateName → Bool
  | .ready | .error | .cancelled => true
  | _ => false

/-- FALLOC and the BAR0 allocation read (R69): the handle, 0 when no entry is FREE.  Which FREE entry is taken is open; the
lowest is (log 16). -/
def State.futureAlloc (s : State) (asid : Nat) : State × BitVec 32 :=
  match (List.range' 1 65535).find? fun i => (s.future i).st = .free with
  | none => (s, 0)
  | some i =>
    let f := s.future i
    (s.setFuture i { f with asid := some asid, st := .empty, value := 0 }, BitVec.ofNat 32 (f.gen.toNat * 65536 + i))

/-- What a waited entry in a state tells a task in the window (R61, R69): READY satisfies the wait, ERROR, CANCELLED and a freed
entry decide the task; the first decides (log 16). -/
def Task.told (k : Task) (h : BitVec 32) (i : Nat) (st : FStateName) : Task :=
  if !k.waits.contains h then k
  else
    let fails (v : DWord) : Task := { k with waits := k.waits.filter (· ≠ h), waitFail := some (k.waitFail.getD v) }
    match st with
    | .ready => { k with waits := k.waits.filter (· ≠ h) }
    | .error | .cancelled => fails (BitVec.ofNat 64 (0x03000000 + i))
    | .free => fails 0x02000000
    | _ => k

/-- An entry changes to the state of `f` and wakes its waiters, teams parked in FWAIT and tasks in the window; each takes the state
and value at this moment (R71). -/
def State.futureWake (s : State) (i : Nat) (f : Future) : State :=
  let old := s.future i
  let h := BitVec.ofNat 32 (old.gen.toNat * 65536 + i)
  let s1 := s.setFuture i f
  let s2 : State := { s1 with tasks := s1.tasks.map fun k => if some k.asid = old.asid then k.told h i f.st else k }
  s2.wakeTeams (fun p => p = .future i) (some (f.st, f.value))

/-- Operations of Table 3-6: 1 RESOLVE, 2 FAIL, 3 CANCEL, 4 FREE, 5 RESET.  The flag is false for a refused one.  FAIL stores all 64
bits of its value: Table 3-6 gives the entry value v, R72 the form of a failed entry's value (log 16). -/
def State.futureOp (s : State) (i op : Nat) (v : DWord) : State × Bool :=
  let f := s.future i
  match f.st, op with
  | .empty, 1 => (s.futureWake i { f with st := .ready, value := v }, true)
  | .empty, 2 => (s.futureWake i { f with st := .error, value := v }, true)
  | .empty, 3 => (s.futureWake i { f with st := .cancelled, value := 0 }, true)
  | .empty, 5 => (s.setFuture i { f with value := 0 }, true)
  | .empty, 4 | .ready, 4 | .error, 4 | .cancelled, 4 =>
    (s.futureWake i { f with st := .free, asid := none, gen := f.gen + 1 }, true)
  | .ready, 5 | .error, 5 | .cancelled, 5 => (s.setFuture i { f with st := .empty, value := 0 }, true)
  | _, _ => (s, false)

/-- A task that leaves the window resolves its result future (R59, Table 3-6). -/
def State.futureLeave (s : State) (h : Option (BitVec 32)) (st : FStateName) (v : DWord) : State :=
  match h with
  | none => s
  | some h =>
    let i := h.toNat % 65536
    let f := s.future i
    if f.st = .pending ∧ f.gen.toNat = h.toNat / 65536 then
      s.futureWake i { f with st := st, value := v }
    else s

/-! Tickets (R74-R76). -/

def State.ticket (s : State) (n : Nat) : Ticket := SMap.get {} s.tickets n
def State.setTicket (s : State) (n : Nat) (t : Ticket) : State := { s with tickets := SMap.put {} s.tickets n t }

/-- The dispenser may be used by the ASID (R74). -/
def State.ticketOk (s : State) (asid n : Nat) : Bool :=
  n < 4096 && (s.ticket n).en && (s.ticket n).asid.toNat = asid

/-- The wait of TKWAIT is over. -/
def Ticket.served (k : Ticket) (t : BitVec 32) : Bool := (k.serve - t).toNat < 2 ^ 31

/-- TKSERVE `n` times: SERVE advances and every team parked on the dispenser is woken; its TKWAIT is issued again (R75). -/
def State.ticketServe (s : State) (n cnt : Nat) : State :=
  let k := s.ticket n
  let k1 := { k with serve := k.serve + BitVec.ofNat 32 cnt }
  (s.setTicket n k1).wakeTeams fun p => match p with
    | .ticket m _ => m = n
    | _ => false

/-! Ring control blocks (R48, R49). -/

/-- The fields of Table 3-1. -/
structure RingBlk where
  tail : Nat
  head : Nat
  ring : Nat
  size : Nat
  slotb : Nat
  qflags : Nat
  rest : Nat
deriving DecidableEq, Repr

def ringBlk (b : List Byte) : RingBlk :=
  let f (o n : Nat) : Nat := ofBytes ((b.drop o).take n)
  { tail := f 0 8, head := f 8 8, ring := f 0x10 8, size := f 0x18 4, slotb := f 0x1C 2, qflags := f 0x1E 2, rest := f 0x20 32 }

/-- Records in the ring. -/
def RingBlk.count (b : RingBlk) : Nat := (b.tail + 2 ^ 64 - b.head) % 2 ^ 64

/-- The tests of R49 on the fields: reason and offset of the first that fails, in the order RING, SIZE, SLOTB, QFLAGS, the reserved
bytes, TAIL; R49 does not say which field is named when several are invalid, and this order is the model's (log 24). -/
def RingBlk.bad (b : RingBlk) : Option (Nat × Nat) :=
  if 2 ^ 57 ≤ b.ring ∨ b.ring % 64 ≠ 0 then some (1, 0x10)
  else if b.size < 2 ∨ 65536 < b.size ∨ b.size &&& (b.size - 1) ≠ 0 then some (1, 0x18)
  else if b.slotb ≠ 64 then some (1, 0x1C)
  else if 1 < b.qflags then some (1, 0x1E)
  else if b.rest ≠ 0 then some (1, 0x20)
  else if b.size < b.count then some (2, 0x00)
  else none

/-- Virtual address of record `n`'s slot. -/
def RingBlk.slot (b : RingBlk) (n : Nat) : Nat := b.ring + 64 * (n % b.size)

/-- The queue in one of the states `st` that is bound to the block at a physical address: its QCBA translates there under its
ASID.  Several queues may be bound to one block; the lowest such queue is named (log 24). -/
def State.queueAt (s : State) (st : List QStateName) (pa : Nat) : Option Nat :=
  (List.range 272).find? fun q =>
    let k := s.queue q
    st.contains k.st && (match s.walk k.asid.toNat k.qcba.toNat with
      | .ok e => e.pa + (k.qcba.toNat - e.va) = pa
      | .error _ => false)

end Sys2Proof.Machine
end

