-- ==== Sys2Proof/Machine/SqDevice.lean ====
section
/-!
DEFINITION. Sys2Proof/Machine/SqDevice.lean: the sequencer's device-level words: futures, tickets, rings, snapshots and the
tile directory (09 R218-R224, R227; 03 R69-R77; 16 R386-R393).  A unit acts when the word issues; its result reaches the
SQ with DEVICE_UNIT_REPLY.
-/
namespace Sys2Proof.Machine

/-- A unit's result for register d, on its way. -/
def Team.reply (t : Team) (d : BitVec 6) (v : DWord) : Team :=
  { t with sq := { t.sq with replies := t.sq.replies ++ [{ d := d.toNat, val := v }] } }

/-- The word's result is on its way and the SQ moves on. -/
def State.replyStep (s : State) (n : Nat) (d : BitVec 6) (v : DWord) : State :=
  s.updTeam n fun t => (t.reply d v).step .sq

/-! Futures (R218, R219). -/

/-- FALLOC. -/
def execFalloc (d : BitVec 6) (s : State) : Out :=
  s.sqWord [] fun n t =>
    let (s1, h) := s.futureAlloc t.asid
    s1.replyStep n d (h.setWidth 64)

/-- A word on the entry of the handle in s[a]; a null or stale handle raises FUTSTALE. -/
def State.futureWord (s : State) (srcs : List (BitVec 6)) (a : BitVec 6) (act : Nat → Team → Nat → State) : Out :=
  s.sqWord srcs fun n t =>
    match s.futureOf t.asid ((t.s a).setWidth 32) with
    | none => s.trap n t .sq .futstale 0 0 0
    | some i => act n t i

/-- The operation and its result: 0 DONE, 1 REFUSED. -/
def State.fres (s : State) (n : Nat) (d : BitVec 6) (i op : Nat) (v : DWord) : State :=
  let (s1, ok) := s.futureOp i op v
  s1.replyStep n d (if ok then 0 else 1)

/-- FRES.RESOLVE (R218): it waits for the team's writes first (R219). -/
def execFresResolve (d a b : BitVec 6) (s : State) : Out :=
  s.futureWord [a, b] a fun n t i => s.afterDrain n t fun s1 t1 => s1.fres n d i 1 (t1.s b)
/-- FRES.FAIL (R218, R219). -/
def execFresFail (d a b : BitVec 6) (s : State) : Out :=
  s.futureWord [a, b] a fun n t i => s.afterDrain n t fun s1 t1 => s1.fres n d i 2 (t1.s b)
/-- FRES.CANCEL (R218, R219). -/
def execFresCancel (d a : BitVec 6) (s : State) : Out :=
  s.futureWord [a] a fun n t i => s.afterDrain n t fun s1 _ => s1.fres n d i 3 0
/-- FRES.FREE (R218). -/
def execFresFree (d a : BitVec 6) (s : State) : Out := s.futureWord [a] a fun n _ i => s.fres n d i 4 0
/-- FRES.RESET (R218). -/
def execFresReset (d a : BitVec 6) (s : State) : Out := s.futureWord [a] a fun n _ i => s.fres n d i 5 0

/-- FWAIT returns a value: an acquire at device scope (R219). -/
def State.fwaitDone (s : State) (n : Nat) (d : BitVec 6) (v : DWord) : State :=
  (s.acquireActions n 2 [1]).updTeam n fun t => ({ t.setS d v with woke := none }).step .sq

/-- FWAIT (R218, R219): its return orders as an acquire at device scope.  A woken waiter takes the value it was woken with; one that
FREE woke finds its handle stale (03 R71). -/
def execFwait (d a : BitVec 6) (s : State) : Out :=
  s.sqWord [a] fun n t =>
    match t.woke, s.futureOf t.asid ((t.s a).setWidth 32) with
    | some (.free, _), _ => (s.updTeam n fun t => { t with woke := none }).trap n t .sq .futstale 0 0 0
    | some (_, v), _ => s.fwaitDone n d v
    | none, none => s.trap n t .sq .futstale 0 0 0
    | none, some i =>
      if (s.future i).st.final then s.fwaitDone n d (s.future i).value else s.parkTeam n (.future i)

/-- The state codes of FPOLL. -/
def FStateName.code : FStateName → Nat
  | .free => 0 | .empty => 1 | .pending => 2 | .ready => 3 | .error => 4 | .cancelled => 5

/-- FPOLL (R218, R219). -/
def execFpoll (d a : BitVec 6) (s : State) : Out :=
  s.futureWord [a] a fun n _ i =>
    let f := s.future i
    (if f.st.final then s.acquireActions n 2 [1] else s).replyStep n d (BitVec.ofNat 64 f.st.code)

/-! Tickets (R220). -/

/-- A word on dispenser s[a]; PRIV for one that is disabled, foreign or beyond 4,095. -/
def State.ticketWord (s : State) (srcs : List (BitVec 6)) (a : BitVec 6) (act : Nat → Team → Nat → State) : Out :=
  s.sqWord srcs fun n t =>
    if s.ticketOk t.asid (t.s a).toNat then act n t (t.s a).toNat else s.trap n t .sq .priv 0 0 0

/-- TKTAKE (R220, 03 R75). -/
def execTktake (d a : BitVec 6) (s : State) : Out :=
  s.ticketWord [a] a fun n _ k =>
    let c := s.ticket k
    (s.setTicket k { c with next := c.next + 1 }).replyStep n d (c.next.setWidth 64)

/-- TKWAIT (R220, 03 R75). -/
def execTkwait (a b : BitVec 6) (s : State) : Out :=
  s.ticketWord [a, b] a fun n t k =>
    if (s.ticket k).served ((t.s b).setWidth 32) then (s.acquireActions n 2 [1]).updTeam n (·.step .sq)
    else s.parkTeam n (.ticket k ((t.s b).setWidth 32))

/-- TKSERVE (R220, 03 R75). -/
def execTkserve (a : BitVec 6) (s : State) : Out :=
  s.ticketWord [a] a fun n t k => s.afterDrain n t fun s1 _ => (s1.ticketServe k 1).updTeam n (·.step .sq)

/-! Rings (R221, 03 R77). -/

/-- The SQ's own copies of a line reach its home slice, so that the unit's access follows the team's earlier ones (15 R360). -/
def State.unitLine (s : State) (n pa : Nat) : State := (s.settleLine n (pa / 128)).l1WriteBack (coreOfSlot n) (pa / 128)

/-- A write the unit makes for the team, at its home slice; a copy that the core's L1 holds takes the new bytes from there. -/
def State.unitWrite (s : State) (n : Nat) (t : Team) (e : KttEntry) (va : Nat) (bs : List Byte) (mark : Bool) : State :=
  let pa := e.pa + (va - e.va)
  (s.performWrite { slot := some n, tid := t.tid, tix := t.teamix, eng := 0, pc := t.sq.ctl.pc, seq := 0, asid := t.asid, va := va,
                    pa := pa, bytes := bs, mark := mark, tagged := e.sreg.isSome, order := e.order }).l1Refresh
    (coreOfSlot n) (pa / 128) (pa % 128) bs

/-- The checks of QENQ, QDEQ and TSUB, then `act` with the block's entry, address and fields; BAD (3) for a block that
fails the tests of R49 or does not lie in HBM (R48) (log 24). -/
def State.ringWord (s : State) (d a b : BitVec 6) (act : Nat → Team → State → Nat → KttEntry → RingBlk → State) : Out :=
  s.sqWord [a, b] fun n t =>
    let ea := (t.s a).toNat
    let la := (t.s b).toNat
    if ea % 64 ≠ 0 then s.trap n t .sq .align 0 ea 0
    else if la % 64 ≠ 0 then s.trap n t .sq .align 0 (la % 2 ^ 23) 0
    else if t.spEnd < la + 64 then s.trap n t .sq .spoob 0 (la % 2 ^ 23) 0
    else
      match kttLookup (s.kslot n t) ea .rw with
      | .error f => s.kttTrap n t .sq 8 f
      | .ok e =>
        let pa := e.pa + (ea - e.va)
        if destOf pa ≠ .hbm then s.replyStep n d 3
        else if e.order ≠ 0 ∧ s.acqPending n then s
        else
          let s1 := s.unitLine n pa
          let blk := ringBlk (s1.readHbm pa 64)
          if s1.hbmMarked pa 64 || blk.bad.isSome then s1.replyStep n d 3 else act n t s1 ea e blk

/-- The access to a slot of the ring. -/
def State.ringSlot (s : State) (n : Nat) (t : Team) (d : BitVec 6) (va : Nat) (act : State → KttEntry → Nat → State) : State :=
  match kttLookup (s.kslot n t) va .rw with
  | .error f => s.kttTrap n t .sq 8 f
  | .ok e =>
    let pa := e.pa + (va - e.va)
    if destOf pa ≠ .hbm then s.replyStep n d 3 else act (s.unitLine n pa) e pa

/-- Put a record into the ring: the body and byte 0, then TAIL. -/
def State.ringPut (s : State) (n : Nat) (t : Team) (d : BitVec 6) (ea la : Nat) (e : KttEntry) (blk : RingBlk)
    (edit : List Byte → List Byte) (note : Nat → State → State) : State :=
  if blk.size ≤ blk.count then s.replyStep n d 1
  else
    s.ringSlot n t d (blk.slot blk.tail) fun s1 e1 pa =>
      let rec1 := edit (t.spRead la 64)
      let rec2 := (rec1.headD 0 ||| 1) :: rec1.tail
      let s2 := note pa (s1.unitWrite n t e1 (blk.slot blk.tail) rec2 (t.spMarked la 64))
      (s2.unitWrite n t e ea (toBytes 8 (blk.tail + 1)) false).replyStep n d 0

/-- QENQ (R221). -/
def execQenq (d a b : BitVec 6) (s : State) : Out :=
  s.ringWord d a b fun n t s1 ea e blk => s1.ringPut n t d ea (t.s b).toNat e blk id fun _ s => s

/-- QDEQ (R221). -/
def execQdeq (d a b : BitVec 6) (s : State) : Out :=
  s.ringWord d a b fun n t s1 ea e blk =>
    if (s1.queueAt [.active, .teardown] (e.pa + (ea - e.va))).isSome then s1.replyStep n d 4
    else if blk.count = 0 then s1.replyStep n d 2
    else
      s1.ringSlot n t d (blk.slot blk.head) fun s2 e1 pa =>
        let r := s2.readHbm pa 64
        if (r.headD 0).toNat % 2 = 0 then s2.replyStep n d 2
        else
          let mark := s2.hbmMarked pa 64
          let la := (t.s b).toNat
          let s3 := s2.unitWrite n t e1 (blk.slot blk.head) [0] false
          let s4 := s3.unitWrite n t e (ea + 8) (toBytes 8 (blk.head + 1)) false
          s4.updTeam n fun u =>
            let u1 := (u.spPut la r mark).dirPartial (la / 4096) (List.range' la 64) mark false
            (u1.reply d 0).step .sq

/-- The fields that TSUB sets: TFLAGS[5], STAMP and STEAM (02 R26, Table 2-2). -/
def tsubRecord (count slot : Nat) (r : List Byte) : List Byte :=
  r.take 2 ++ [r.getD 2 0 ||| 0x20] ++ (r.drop 3).take 0x35 ++ toBytes 4 count ++ toBytes 2 slot ++ r.drop 0x3E

/-- TSUB (R221, 03 R56): the team's dirty lines are written back first (15 R367). -/
def execTsub (d a b : BitVec 6) (s : State) : Out :=
  s.ringWord d a b fun n t s1 ea e blk =>
    let s2 := s1.writeBackTeam n [0, 1]
    if (s1.queueAt [.active] (e.pa + (ea - e.va))).isNone then s2.replyStep n d 3
    else s2.ringPut n t d ea (t.s b).toNat e blk (tsubRecord t.wIssued n) fun pa s =>
      { s with stamped := s.stamped ++ [{ at_ := pa, slot := n, tid := t.tid, tix := t.teamix, cnt := t.wIssued % 2 ^ 32 }] }

/-! Snapshots (R222, 16 R387-R393). -/

/-- SNAPBAD at a word, with the handle in INFO (log 21). -/
def State.snapBad (s : State) (n : Nat) (t : Team) (addr : Nat) (h : DWord) : State :=
  s.trap n t .sq .snapbad 12 addr (h.toNat % 2 ^ 32)

/-- The region that SNAP names, when every test of R388 holds. -/
def State.snapTarget (s : State) (n : Nat) (t : Team) (base len : Nat) : Option Nat :=
  if (s.asid t.asid).snrtab.toNat % 2 = 0 ∨ bitsOf (s.asid t.asid).snpsize.toNat 12 28 = 0 then none
  else
    match (List.range 256).find? fun r => s.region? t.asid r = some (base, len) with
    | none => none
    | some r =>
      let depth := (s.snap t.asid r).levels.length
      let granted := (s.kslot n t).ktt.any fun e =>
        e.sreg.isSome && e.w && decide (e.va < base + len) && decide (base < e.va + 2 ^ e.log2)
      let open_ := (s.snaps.filter fun p => !p.2.levels.isEmpty).length
      if !granted ∨ 4 ≤ depth ∨ (depth = 0 ∧ 1024 ≤ open_) then none else some r

/-- SNAP (16 R388) (log 34). -/
def execSnap (d a b : BitVec 6) (s : State) : Out :=
  s.sqWord [a, b] fun n t =>
    match s.snapTarget n t (t.s a).toNat (t.s b).toNat with
    | none => s.snapBad n t 0 0
    | some r => s.afterDrain n t fun s1 t1 =>
        let g := s1.snap t1.asid r
        let gen := if g.gen + 1 = 0 then 1 else g.gen + 1
        let lv : SnapLevel := { gen := gen, queue := t1.queue, tid := t1.tid }
        (s1.setSnap t1.asid r { gen := gen, levels := g.levels ++ [lv] }).replyStep n d
          (BitVec.ofNat 64 (gen.toNat * 65536 + g.levels.length * 256 + r))

/-- SRESV (16 R391): 0 DONE, 1 NOSPACE. -/
def execSresv (d a b : BitVec 6) (s : State) : Out :=
  s.sqWord [a, b] fun n t =>
    match s.openHandle t.asid (t.s a) with
    | none => s.snapBad n t 0 (t.s a)
    | some (r, k) =>
      let want := (t.s b).toNat
      if want < 2 ^ 32 ∧ want ≤ s.poolFree t.asid then
        let g := s.snap t.asid r
        (s.setSnap t.asid r { g with levels := g.levels.mapIdx fun i l => if i = k then { l with resv := l.resv + want } else l }
        ).replyStep n d 0
      else s.replyStep n d (if want = 0 then 0 else 1)

/-- SACC (16 R390). -/
def execSacc (a : BitVec 6) (s : State) : Out :=
  s.sqWord [a] fun n t =>
    match s.openHandle t.asid (t.s a) with
    | none => s.snapBad n t 0 (t.s a)
    | some (r, k) =>
      if k + 1 < (s.snap t.asid r).levels.length then s.snapBad n t 0 (t.s a)
      else s.afterDrain n t fun s1 t1 => (s1.acceptPoint t1.asid r k).updTeam n (·.step .sq)

/-- Lines of a team's load blocks whose flag is set. -/
def State.teamBlockLines (s : State) (n : Nat) : List Nat := s.blockLines (coreOfSlot n) fun m b => m = n && b.flag

/-- An L1 line of the core lies on a page of the region: by the address through which it was filled, or by an entry of the team's
KTT bank that maps it (15 R364). -/
def State.lineInRegion (s : State) (n : Nat) (t : Team) (r ln : Nat) (l : L1Line) : Bool :=
  match s.region? t.asid r with
  | none => false
  | some (b, len) =>
    let inside (va : Nat) : Bool := b / 4096 * 4096 ≤ va && va < (b + len + 4095) / 4096 * 4096
    (l.asid = t.asid && inside l.va) ||
    (s.kslot n t).ktt.any fun e => e.pa ≤ 128 * ln && 128 * ln < e.pa + 2 ^ e.log2 && inside (e.va + (128 * ln - e.pa))

/-- SREJ (16 R389): it ends with the invalidation of the core's lines on the region's pages; of the issuing team's load blocks no
line is dropped (09 R211) (log 34). -/
def execSrej (a : BitVec 6) (s : State) : Out :=
  s.sqWord [a] fun n t =>
    match s.openHandle t.asid (t.s a) with
    | none => s.snapBad n t 0 (t.s a)
    | some (r, k) => s.afterDrain n t fun s1 t1 =>
        let s2 := s1.rejectPoint t1.asid r k
        (s2.invalidateBut (coreOfSlot n) (s2.teamBlockLines n) fun ln l =>
          l.order ≠ 2 && s2.lineInRegion n t1 r ln l).updTeam n (·.step .sq)

/-- The result of SQRY (16 R392, Table 16-7). -/
def State.sqryResult (s : State) (asid : Nat) (h : DWord) : Nat :=
  if h = 0 then s.poolFree asid % 2 ^ 40
  else
    let r := h.toNat % 256
    let depth := if (s.region? asid r).isSome then (s.snap asid r).levels.length else 0
    match s.openHandle asid h with
    | none => depth * 16
    | some (r, k) =>
      match (s.snap asid r).levels[k]? with
      | none => depth * 16
      | some l => min l.saved (2 ^ 24 - 1) * 2 ^ 40 + min l.resv (2 ^ 24 - 1) * 2 ^ 16 + (if l.lost then 128 else 0) + depth * 16 + 1

/-- SQRY (16 R392). -/
def execSqry (d a : BitVec 6) (s : State) : Out :=
  s.sqWord [a] fun n t => s.replyStep n d (BitVec.ofNat 64 (s.sqryResult t.asid (t.s a)))

/-- Bytes of one line through the view of level `k`, with their poison. -/
def State.viewBytes (s : State) (asid rg k pa n : Nat) : List Byte × Bool :=
  let (bs, m0, m1) := s.viewLine asid rg k (pa / 128)
  ((bs.drop (pa % 128)).take n, (unitsOf 64 (pa % 128) n).any fun g => if g = 0 then m0 else m1)

/-- LDV (16 R393): an untimed load through the view. -/
def execLdv (d a b : BitVec 6) (s : State) : Out :=
  s.sqWord [a, b] fun n t =>
    let ea := (t.s a).toNat
    if ea % 8 ≠ 0 then s.trap n t .sq .align 0 ea 0
    else if 16 ≤ t.sq.landing.length then s
    else
      match kttLookup (s.kslot n t) ea .r with
      | .error f => s.kttTrap n t .sq 7 f
      | .ok e =>
        match s.openHandle t.asid (t.s b) with
        | none => s.snapBad n t ea (t.s b)
        | some (r, k) =>
          let inside := match s.region? t.asid r with
            | some (rb, l) => decide (rb ≤ ea) && decide (ea + 8 ≤ rb + l)
            | none => false
          if !inside then s.snapBad n t ea (t.s b)
          else if e.order ≠ 0 && s.acqPending n then s
          else
            let (bs, mk) := s.viewBytes t.asid r k (e.pa + (ea - e.va)) 8
            let l : Landing := { d := d.toNat, pc := t.sq.ctl.pc, named := none, parts := [{ bytes := bs, mark := mk, va := ea }] }
            s.setTeam n (({ t with sq := { t.sq with landing := t.sq.landing ++ [l] } }).step .sq)

/-! The tile directory (R223, R224). -/

/-- The code of a class in Table 9-5. -/
def DClass.code : DClass → Nat
  | .gen => 0 | .zero => 1 | .const => 2 | .ident => 3

/-- The result of TDCLS (Table 9-5). -/
def DEntry.word (e : DEntry) : Nat :=
  e.value.toNat * 2 ^ 32 + (if e.poison then 8 else 0) + (if e.special then 4 else 0) + e.cls.code

/-- TDCLS (R223). -/
def execTdcls (d a : BitVec 6) (s : State) : Out :=
  s.sqWord [a] fun n t =>
    let la := (t.s a).toNat
    if t.spEnd ≤ la then s.trap n t .sq .spoob 0 (la % 2 ^ 23) 0
    else s.setTeam n ((t.setS d (BitVec.ofNat 64 (t.dir (la / 4096)).word)).step .sq)

/-- TDSCAN (R224): each dtile is read in 64 cycles, after 4 at the start; its entry is set when they have passed.  A halt stops it
between dtiles, the one under way being finished (log 32). -/
def execTdscan (a : BitVec 6) (k : BitVec 10) (s : State) : Out :=
  s.sqWord [a] fun n t =>
    let la := (t.s a).toNat
    let done := t.scan.getD 0
    if la % 4096 ≠ 0 then s.trap n t .sq .align 0 (la % 2 ^ 23) 0
    else if t.spEnd < la + 4096 * (k.toNat + 1) then s.trap n t .sq .spoob 0 (la % 2 ^ 23) 0
    else
      let t1 := t.scanEnd
      let at_ := t1.scan.getD 0
      s.setTeam n (if k.toNat < at_ then ({ t1 with scan := none }).step .sq
        else ({ t1 with scanDt := some (la / 4096 + at_, false) } : Team).updCtl .sq fun c =>
          { c with busy := t.cycle + 64 + (if done = 0 && t.scanDt.isNone then 4 else 0) })

end Sys2Proof.Machine
end

