-- ==== Sys2Proof/Machine/VeArith.lean ====
section
/-!
DEFINITION. Sys2Proof/Machine/VeArith.lean: element-wise arithmetic, logic, shifts, counts, division and roots of the vector engine
(10 R236-R239).
-/
namespace Sys2Proof.Machine

/-! One and two sources. -/

/-- Element results without a conversion. -/
def vals (l : List Nat) : List Conv := l.map .val

/-- Apply a function to the elements of two sources. -/
def zipElems (w : Nat) (f : Nat → Nat → Nat) (a b : VReg) : List Nat := (elemsOf w a).zipWith f (elemsOf w b)

def State.ve2 (s : State) (d a b : BitVec 8) (shape : Team → Bool) (f : Team → Nat → Nat → Nat) : Out :=
  s.veVec (fun t => { srcs := [⟨a, 1⟩, ⟨b, 1⟩], dst := some ⟨d, 1⟩, shape := shape t, ms := [t.vmaskReg] }) Team.vw false fun t vs =>
    match vs with
    | [[x], [y]] => vals (zipElems t.vw (f t) x y)
    | _ => []

def State.ve1 (s : State) (d a : BitVec 8) (shape : Team → Bool) (f : Team → Nat → Nat) : Out :=
  s.veVec (fun t => { srcs := [⟨a, 1⟩], dst := some ⟨d, 1⟩, shape := shape t, ms := [t.vmaskReg] }) Team.vw false fun t vs =>
    match vs with
    | [[x]] => vals ((elemsOf t.vw x).map (f t))
    | _ => []

/-- VFMA and VFMS: the destination is the third source (R231). -/
def State.ve3 (s : State) (d a b : BitVec 8) (f : Team → Nat → Nat → Nat → Nat) : Out :=
  s.veVec (fun t => { srcs := [⟨a, 1⟩, ⟨b, 1⟩], dst := some ⟨d, 1⟩, readsDst := true, ms := [t.vmaskReg] }) Team.vw false
    fun t vs =>
      match vs with
      | [[x], [y]] => vals (((t.oldElems ⟨d, 1⟩ t.vw).zip (zipElems t.vw (fun p q => p + 2 ^ 32 * q) x y)).map fun p =>
          f t p.1 (p.2 % 2 ^ 32) (p.2 / 2 ^ 32))
      | _ => []

def Team.isInt (t : Team) : Bool := (typeInt t.vtype).isSome
def Team.isFlt (t : Team) : Bool := (typeFlt t.vtype).isSome
def anyShape (_ : Team) : Bool := true

/-- An operation by class of type: exact integer values wrapped to the width, or exact floating values rounded once. -/
def Team.arith2 (t : Team) (fi : Int → Int → Int) (ff : Fl → Fl → Fl) (x y : Nat) : Nat :=
  match typeFlt t.vtype, typeInt t.vtype with
  | some f, _ => f.round t.vround (ff (f.decode x) (f.decode y))
  | none, some ty => wrap (fi (ty.val x) (ty.val y)) ty.w
  | none, none => 0

/-! Arithmetic (R236, Table 10-2). -/

/-- VADD. -/
def execVadd (d a b : BitVec 8) (s : State) : Out :=
  s.ve2 d a b anyShape fun t => t.arith2 (· + ·) (Fl.add t.vround)
/-- VSUB. -/
def execVsub (d a b : BitVec 8) (s : State) : Out :=
  s.ve2 d a b anyShape fun t => t.arith2 (· - ·) fun x y => Fl.add t.vround x y.neg
/-- VMUL. -/
def execVmul (d a b : BitVec 8) (s : State) : Out := s.ve2 d a b anyShape fun t => t.arith2 (· * ·) Fl.mul
/-- VMULH: integer shapes only. -/
def execVmulh (d a b : BitVec 8) (s : State) : Out :=
  s.ve2 d a b Team.isInt fun t => t.arith2 (fun x y => x * y / (2 ^ t.vw : Int)) Fl.mul

/-- D ± A × B with one rounding. -/
def Team.fma (t : Team) (neg : Bool) (z x y : Nat) : Nat :=
  match typeFlt t.vtype, typeInt t.vtype with
  | some f, _ =>
    let p := Fl.mul (f.decode x) (f.decode y)
    f.round t.vround (Fl.add t.vround (f.decode z) (if neg then p.neg else p))
  | none, some ty => wrap (if neg then ty.val z - ty.val x * ty.val y else ty.val z + ty.val x * ty.val y) ty.w
  | none, none => 0

/-- VFMA. -/
def execVfma (d a b : BitVec 8) (s : State) : Out := s.ve3 d a b fun t => t.fma false
/-- VFMS. -/
def execVfms (d a b : BitVec 8) (s : State) : Out := s.ve3 d a b fun t => t.fma true
/-- VMIN (08 R174). -/
def execVmin (d a b : BitVec 8) (s : State) : Out := s.ve2 d a b anyShape fun t => t.arith2 min Fl.min
/-- VMAX (08 R174). -/
def execVmax (d a b : BitVec 8) (s : State) : Out := s.ve2 d a b anyShape fun t => t.arith2 max Fl.max

/-- VABS: a bit move on floating shapes (08 R170). -/
def execVabs (d a : BitVec 8) (s : State) : Out :=
  s.ve1 d a anyShape fun t x =>
    match typeInt t.vtype with
    | some ty => wrap (ty.val x).natAbs ty.w
    | none => x % 2 ^ (t.vw - 1)
/-- VNEG: a bit move on floating shapes (08 R170). -/
def execVneg (d a : BitVec 8) (s : State) : Out :=
  s.ve1 d a anyShape fun t x =>
    match typeInt t.vtype with
    | some ty => wrap (-(ty.val x)) ty.w
    | none => x ^^^ 2 ^ (t.vw - 1)

/-- An exact integer result saturated to the type. -/
def Team.satInt (t : Team) (fi : Int → Int → Int) (x y : Nat) : Nat :=
  match typeInt t.vtype with
  | some ty => wrap (clampInt (fi (ty.val x) (ty.val y)) ty.lo ty.hi) ty.w
  | none => 0

/-- VADDS: integer shapes only; no flag. -/
def execVadds (d a b : BitVec 8) (s : State) : Out := s.ve2 d a b Team.isInt fun t => t.satInt (· + ·)
/-- VSUBS: integer shapes only; no flag. -/
def execVsubs (d a b : BitVec 8) (s : State) : Out := s.ve2 d a b Team.isInt fun t => t.satInt (· - ·)

/-- Half of an exact value. -/
def Fl.half : Fl → Fl
  | .fin g n d => .fin g n (2 * d)
  | x => x

/-- VAVG. -/
def execVavg (d a b : BitVec 8) (s : State) : Out :=
  s.ve2 d a b anyShape fun t => t.arith2 (fun x y => (x + y + 1) / 2) fun x y => (Fl.add t.vround x y).half
/-- VABD: a floating difference is rounded, then its sign cleared. -/
def execVabd (d a b : BitVec 8) (s : State) : Out :=
  s.ve2 d a b anyShape fun t x y =>
    let r := t.arith2 (fun x y => (x - y).natAbs) (fun x y => Fl.add t.vround x y.neg) x y
    if t.isFlt then r % 2 ^ (t.vw - 1) else r

/-! Logic, shifts and counts (R237). -/

/-- VAND. -/
def execVand (d a b : BitVec 8) (s : State) : Out := s.ve2 d a b anyShape fun _ x y => x &&& y
/-- VOR. -/
def execVor (d a b : BitVec 8) (s : State) : Out := s.ve2 d a b anyShape fun _ x y => x ||| y
/-- VXOR. -/
def execVxor (d a b : BitVec 8) (s : State) : Out := s.ve2 d a b anyShape fun _ x y => x ^^^ y
/-- VNOT. -/
def execVnot (d a : BitVec 8) (s : State) : Out := s.ve1 d a anyShape fun t x => 2 ^ t.vw - 1 - x

/-- A shift left of a `w`-bit element. -/
def shlElem (w x c : Nat) : Nat := if w ≤ c then 0 else x * 2 ^ c % 2 ^ w
/-- A shift right with zeros. -/
def shrElem (w x c : Nat) : Nat := if w ≤ c then 0 else x / 2 ^ c
/-- A shift right with copies of the sign bit. -/
def sarElem (w x c : Nat) : Nat := wrap (signExt x w / (2 ^ (min c w) : Int)) w

/-- VSHL. -/
def execVshl (d a b : BitVec 8) (s : State) : Out := s.ve2 d a b Team.isInt fun t => shlElem t.vw
/-- VSHR. -/
def execVshr (d a b : BitVec 8) (s : State) : Out := s.ve2 d a b Team.isInt fun t => shrElem t.vw
/-- VSAR. -/
def execVsar (d a b : BitVec 8) (s : State) : Out := s.ve2 d a b Team.isInt fun t => sarElem t.vw
/-- VSHLI. -/
def execVshli (d a : BitVec 8) (n : BitVec 5) (s : State) : Out := s.ve1 d a Team.isInt fun t x => shlElem t.vw x n.toNat
/-- VSHRI. -/
def execVshri (d a : BitVec 8) (n : BitVec 5) (s : State) : Out := s.ve1 d a Team.isInt fun t x => shrElem t.vw x n.toNat
/-- VSARI. -/
def execVsari (d a : BitVec 8) (n : BitVec 5) (s : State) : Out := s.ve1 d a Team.isInt fun t x => sarElem t.vw x n.toNat
/-- VCLZ. -/
def execVclz (d a : BitVec 8) (s : State) : Out := s.ve1 d a Team.isInt fun t x => t.vw - bitLen x t.vw
/-- VPOPC. -/
def execVpopc (d a : BitVec 8) (s : State) : Out := s.ve1 d a Team.isInt fun t x => popCount x t.vw

/-! Division, roots, classes (R238, R239). -/

/-- VDIV. -/
def execVdiv (d a b : BitVec 8) (s : State) : Out :=
  s.ve2 d a b anyShape fun t x y =>
    match typeInt t.vtype with
    | some ty => wrap (intDivide (ty.val x) (ty.val y) ty.w ty.sgn).1 ty.w
    | none => t.arith2 (fun x _ => x) Fl.div x y
/-- VSQRT: floating shapes only. -/
def execVsqrt (d a : BitVec 8) (s : State) : Out :=
  s.ve1 d a Team.isFlt fun t x =>
    match typeFlt t.vtype with
    | some f => f.round t.vround (f.decode x).sqrt
    | none => 0

/-- The class bit of a floating pattern (R239). -/
def FFmt.classOf (f : FFmt) (x : Nat) : Nat :=
  let neg := bitAt x (f.w - 1)
  let e := bitsOf x (f.p - 1) f.eb
  let fr := bitsOf x 0 (f.p - 1)
  if e = 2 ^ f.eb - 1 then (if fr ≠ 0 then 8 else if neg then 0 else 7)
  else if e = 0 then (if fr = 0 then (if neg then 3 else 4) else if neg then 2 else 5)
  else if neg then 1 else 6

/-- VCLASS: floating shapes only. -/
def execVclass (d a : BitVec 8) (s : State) : Out :=
  s.ve1 d a Team.isFlt fun t x =>
    match typeFlt t.vtype with
    | some f => 2 ^ f.classOf x
    | none => 0

end Sys2Proof.Machine
end

