-- ==== Sys2Proof/Machine/VeConvert.lean ====
section
/-!
DEFINITION. Sys2Proof/Machine/VeConvert.lean: conversion words of the vector engine (10 R243-R245).
-/
namespace Sys2Proof.Machine

/-- The value of an element of a TYPE code. -/
def typeVal (ty x : Nat) : Fl :=
  match typeInt ty, typeFlt ty with
  | some i, _ => Fl.ofInt (i.val x)
  | none, some f => f.decode x
  | none, none => .nan

/-- Convert a value to a TYPE code (08 R189). -/
def toType (ty : Nat) (md : RMode) (pol : Nat) (x : Fl) : Conv :=
  match typeInt ty, typeFlt ty with
  | some i, _ => i.convert md pol x
  | none, some f => f.convert md pol x
  | none, none => .val 0

/-- A conversion word: `cs` registers to `cd` registers of type `ty`; widths outside the ratio raise SHAPEBAD. -/
def State.cvtWord (s : State) (d a : BitVec 8) (ty : Nat) (shape : Team → Bool) (cs cd : Team → Nat) : Out :=
  s.veVec (fun t => { srcs := [⟨a, cs t⟩], dst := some ⟨d, cd t⟩, shape := shape t, ms := [t.vmaskReg] }) (fun _ => typeW ty) false
    fun t vs =>
      match vs with
      | [rs] => (rs.flatMap (elemsOf t.vw)).map fun x => toType ty t.vround t.vpol (typeVal t.vtype x)
      | _ => []

/-- VCVT (R243): equal widths. -/
def execVcvt (d a : BitVec 8) (ty : BitVec 4) (s : State) : Out :=
  s.cvtWord d a ty.toNat (fun t => typeW ty.toNat = t.vw) (fun _ => 1) fun _ => 1

/-- The group of a widening or narrowing between widths: 2 for a pair, 4 for a quad; 2 where the ratio has no word. -/
def groupOf (wide narrow : Nat) : Nat := if wide = 4 * narrow then 4 else 2

/-- VWIDEN (R243, R244): to a pair or a quad, in blocked order. -/
def execVwiden (d a : BitVec 8) (ty : BitVec 4) (s : State) : Out :=
  s.cvtWord d a ty.toNat (fun t => typeW ty.toNat = 2 * t.vw || typeW ty.toNat = 4 * t.vw) (fun _ => 1)
    fun t => groupOf (typeW ty.toNat) t.vw
/-- VNARROW (R243, R244): from a pair or a quad, in blocked order. -/
def execVnarrow (d a : BitVec 8) (ty : BitVec 4) (s : State) : Out :=
  s.cvtWord d a ty.toNat (fun t => 2 * typeW ty.toNat = t.vw || 4 * typeW ty.toNat = t.vw)
    (fun t => groupOf t.vw (typeW ty.toNat)) fun _ => 1

/-- The integer type of VQUANT under a floating shape, by its code. -/
def quantType (w : Nat) : Nat := if w = 16 then 4 else 6
/-- The floating type of VDEQ under an integer shape, by its code (log 31). -/
def deqType (w : Nat) : Nat := if w = 16 then 8 else 10

/-- VQUANT (R245): floating shapes. -/
def execVquant (d a b : BitVec 8) (s : State) : Out :=
  s.veVec (fun t => { srcs := [⟨a, 1⟩, ⟨b, 1⟩], dst := some ⟨d, 1⟩, shape := t.isFlt, ms := [t.vmaskReg] }) Team.vw false fun t vs =>
    match vs with
    | [[x], [y]] => (elemsOf t.vw x).zipWith (fun p q =>
        toType (quantType t.vw) t.vround t.vpol (Fl.mul (typeVal t.vtype p) (typeVal t.vtype q))) (elemsOf t.vw y)
    | _ => []

/-- VDEQ (R245): I16, UI16, I32 and UI32 shapes. -/
def execVdeq (d a b : BitVec 8) (s : State) : Out :=
  s.veVec (fun t => { srcs := [⟨a, 1⟩, ⟨b, 1⟩], dst := some ⟨d, 1⟩, shape := t.isInt && 16 ≤ t.vw, ms := [t.vmaskReg] }) Team.vw
    false fun t vs =>
    match vs with
    | [[x], [y]] => (elemsOf t.vw x).zipWith (fun p q =>
        toType (deqType t.vw) t.vround t.vpol (Fl.mul (typeVal t.vtype p) (typeVal (deqType t.vw) q))) (elemsOf t.vw y)
    | _ => []

end Sys2Proof.Machine
end

