-- ==== Sys2Proof/Machine/VeMem.lean ====
section
/-!
DEFINITION. Sys2Proof/Machine/VeMem.lean: scratchpad loads and stores of the vector engine and the bit-field extraction unit (10 R249-R254).
-/
namespace Sys2Proof.Machine

/-! Addresses and checks (R249). -/

/-- la of VLD, VST, VLDP and VLDB. -/
def Team.laVM (t : Team) (x : BitVec 4) (o : BitVec 12) : Nat := (t.x x + BitVec.ofInt 23 (o.toInt * 64)).toNat
/-- la of VLDS and VSTS. -/
def Team.laVS (t : Team) (x : BitVec 4) (o : BitVec 8) : Nat := (t.x x + BitVec.ofNat 23 (o.toNat * 64)).toNat

/-- Alignment of the address, then the range of every piece. -/
def Team.veAddr (t : Team) (la : Nat) (stride : Bool) (ps : List (Nat × Nat)) : Option (Cause × Nat) :=
  if la % 64 ≠ 0 || stride then some (.align, la)
  else (ps.find? fun p => t.spEnd < p.1 + p.2).map fun p => (.spoob, p.1)

/-- The eight chunks of a strided access: address j is la + j × k[N], modulo 2^23. -/
def Team.strides (t : Team) (la : Nat) (k : BitVec 4) : List (Nat × Nat) :=
  (List.range 8).map fun (j : Nat) => (wrap ((la : Int) + j * (t.kreg k).toInt) 23, 64)
def Team.strideBad (t : Team) (k : BitVec 4) : Bool := (t.kreg k).toNat % 64 ≠ 0

/-- A vector made of bytes. -/
def vecOfBytes (l : List Byte) : VReg := BitVec.ofNat 4096 (ofBytes l)

/-! Loads. -/

/-- A load of the pieces `ps`, whose bytes in order are the register, with inactive elements merged. -/
def State.vload (s : State) (d : BitVec 8) (x : BitVec 4) (ks : List (BitVec 4)) (ps : Team → List (Nat × Nat))
    (addr : Team → Option (Cause × Nat)) (rep : Nat) : Out :=
  s.veVec (fun t => { dst := some ⟨d, 1⟩, ks := ks, xs := [x], ms := [t.vmaskReg], addr := addr t, beats := ps t }) Team.vw false
    fun t _ => vals (elemsOf t.vw (vecOfBytes ((List.replicate rep ((ps t).flatMap fun p => t.spRead p.1 p.2)).flatten)))

/-- VLD (R250). -/
def execVld (d : BitVec 8) (x : BitVec 4) (o : BitVec 12) (s : State) : Out :=
  s.vload d x [] (fun t => [(t.laVM x o, 512)]) (fun t => t.veAddr (t.laVM x o) false [(t.laVM x o, 512)]) 1
/-- VLDS (R250). -/
def execVlds (d : BitVec 8) (x k : BitVec 4) (o : BitVec 8) (s : State) : Out :=
  s.vload d x [k] (fun t => t.strides (t.laVS x o) k)
    (fun t => t.veAddr (t.laVS x o) (t.strideBad k) (t.strides (t.laVS x o) k)) 1
/-- VLDB (R250): eight copies of 64 bytes. -/
def execVldb (d : BitVec 8) (x : BitVec 4) (o : BitVec 12) (s : State) : Out :=
  s.vload d x [] (fun t => [(t.laVM x o, 64)]) (fun t => t.veAddr (t.laVM x o) false [(t.laVM x o, 64)]) 8

/-! Stores: partial writes of their dtiles (R250). -/

/-- Merge consecutive addresses into runs. -/
def byteRuns : List (Nat × Byte) → List (Nat × List Byte)
  | [] => []
  | (a, b) :: r =>
    match byteRuns r with
    | (c, l) :: q => if c = a + 1 then (a, b :: l) :: q else (a, [b]) :: (c, l) :: q
    | [] => [(a, [b])]

/-- Write bytes at their addresses, with the directory's partial update of each dtile. -/
def Team.spScatter (t : Team) (ws : List (Nat × Byte)) : Team :=
  let t1 := (byteRuns ws).foldl (fun (t : Team) r => t.spPut r.1 r.2 false) t
  ((ws.map fun w => w.1 / 4096).eraseDups).foldl (fun (t : Team) dt =>
    t.dirPartial dt ((ws.map (·.1)).filter fun a => a / 4096 = dt).eraseDups false false) t1

/-- The bytes that the active elements of a vector write, in order; a 4-bit element keeps the other half of its byte (log 31). -/
def Team.storeBytes (t : Team) (v : VReg) (as : List Nat) : List (Nat × Byte) :=
  if 8 ≤ t.vw then
    (as.zip (toBytes 512 v.toNat)).zipIdx.filterMap fun p => if t.active (p.2 / (t.vw / 8)) then some p.1 else none
  else
    ((as.zip (toBytes 512 v.toNat)).zipIdx.foldl (fun (acc : List (Nat × Byte)) p =>
      let lo := t.active (2 * p.2)
      let hi := t.active (2 * p.2 + 1)
      let old := match acc.find? fun q => q.1 = p.1.1 with
        | some q => q.2.toNat
        | none => (t.spByte p.1.1).toNat
      let new := p.1.2.toNat
      if lo || hi then
        (p.1.1, BitVec.ofNat 8 ((if lo then new % 16 else old % 16) + 16 * (if hi then new / 16 else old / 16))) :: acc
      else acc) []).reverse

def State.vstore (s : State) (d : BitVec 8) (x : BitVec 4) (ks : List (BitVec 4)) (ps : Team → List (Nat × Nat))
    (addr : Team → Option (Cause × Nat)) : Out :=
  s.veWord (fun t => { srcs := [⟨d, 1⟩], ks := ks, xs := [x], ms := [t.vmaskReg], addr := addr t }) fun n t vs =>
    match vs with
    | [[v]] =>
      let as := (ps t).flatMap fun p => List.range' p.1 p.2
      s.setTeam n (((t.advanceChunks [⟨d, 1⟩]).spScatter (t.storeBytes v as)).step .ve)
    | _ => s

/-- VST (R250). -/
def execVst (d : BitVec 8) (x : BitVec 4) (o : BitVec 12) (s : State) : Out :=
  s.vstore d x [] (fun t => [(t.laVM x o, 512)]) fun t => t.veAddr (t.laVM x o) false [(t.laVM x o, 512)]
/-- VSTS (R250). -/
def execVsts (d : BitVec 8) (x k : BitVec 4) (o : BitVec 8) (s : State) : Out :=
  s.vstore d x [k] (fun t => t.strides (t.laVS x o) k) fun t =>
    t.veAddr (t.laVS x o) (t.strideBad k) (t.strides (t.laVS x o) k)

/-! Indexed accesses (R251). -/

/-- Addresses of the active elements, rising by element number. -/
def Team.indexed (t : Team) (x : BitVec 4) (idx : VReg) : List (Nat × Nat) :=
  ((elemsOf t.vw idx).zipIdx.filter fun p => t.active p.2).map fun p =>
    (((t.x x).toNat + p.1 * (t.vw / 8)) % 2 ^ 23, p.2)

/-- The index vector, as the word's address check reads it. -/
def Team.idxVec (t : Team) (a : BitVec 8) (before : List VOp) : VReg := (t.srcVal ⟨a, 1⟩ before).headD 0

def Team.idxAddr (t : Team) (x : BitVec 4) (idx : VReg) : Option (Cause × Nat) :=
  t.veAddr (t.x x).toNat false ((t.indexed x idx).map fun p => (p.1, t.vw / 8))

/-- The stall of an access of more than eight 64-byte blocks (R251). -/
def Team.idxStall (t : Team) (x : BitVec 4) (idx : VReg) : Nat :=
  (((t.indexed x idx).map fun p => p.1 / 64).eraseDups).length - 8

/-- Extra cycles after a word. -/
def Team.extra (t : Team) (n : Nat) : Team :=
  if n = 0 then t else t.updCtl .ve fun k => { k with busy := t.cycle + 1 + n }

/-- VLDX (R251): w ≥ 16. -/
def execVldx (d : BitVec 8) (x : BitVec 4) (a : BitVec 8) (s : State) : Out :=
  s.veWord (fun t => { srcs := [⟨a, 1⟩], dst := some ⟨d, 1⟩, xs := [x], ms := [t.vmaskReg], shape := 16 ≤ t.vw,
                       addr := t.idxAddr x (t.idxVec a []),
                       beats := (t.indexed x (t.idxVec a [])).map fun p => (p.1, t.vw / 8) }) fun n t vs =>
    match vs with
    | [[idx]] =>
      let got := t.indexed x idx
      let res := (List.range t.vn).map fun i =>
        match got.find? fun p => p.2 = i with
        | some p => ofBytes (t.spRead p.1 (t.vw / 8))
        | none => 0
      match (t.advanceChunks [⟨a, 1⟩]).putElems ⟨d, 1⟩ t.vw false (vals res) with
      | some t1 => s.setTeam n ((t1.step .ve).extra (t.idxStall x idx))
      | none => s
    | _ => s

/-- VSTX (R251): the higher-numbered of two elements at one address stands. -/
def execVstx (d : BitVec 8) (x : BitVec 4) (a : BitVec 8) (s : State) : Out :=
  s.veWord (fun t => { srcs := [⟨d, 1⟩, ⟨a, 1⟩], xs := [x], ms := [t.vmaskReg], shape := 16 ≤ t.vw,
                       addr := t.idxAddr x (t.idxVec a [⟨d, 1⟩]) }) fun n t vs =>
    match vs with
    | [[v], [idx]] =>
      let es := elemsOf t.vw v
      let ws := (t.indexed x idx).flatMap fun p =>
        (List.range' p.1 (t.vw / 8)).zip (toBytes (t.vw / 8) (es.getD p.2 0))
      s.setTeam n (((((t.advanceChunks [⟨d, 1⟩, ⟨a, 1⟩]).spScatter ws).step .ve)).extra (t.idxStall x idx))
    | _ => s

/-! The bit-field extraction unit (R253, R254). -/

def Team.pat (t : Team) (f : Nat) : PatField := SMap.get { off := 0, wm1 := 0, sgn := false } t.ve.pats f

/-- Every field in use lies within the period. -/
def Team.patOk (t : Team) : Bool :=
  (List.range (t.ve.patF + 1)).all fun f => (t.pat f).off + (t.pat f).wm1 + 1 ≤ t.ve.patP + 1

/-- Bytes of the stream. -/
def Team.patBytes (t : Team) : Nat := (((t.vn + t.ve.patF) / (t.ve.patF + 1)) * (t.ve.patP + 1) + 7) / 8

/-- Element `e` of a stream. -/
def Team.patElem (t : Team) (stream : Nat) (e : Nat) : Int :=
  let f := t.pat (e % (t.ve.patF + 1))
  let x := bitsOf stream (e / (t.ve.patF + 1) * (t.ve.patP + 1) + f.off) (f.wm1 + 1)
  if f.sgn then signExt x (f.wm1 + 1) else x

/-- VLDP (R254). -/
def execVldp (d : BitVec 8) (x : BitVec 4) (o : BitVec 12) (s : State) : Out :=
  s.veWord (fun t => { dst := some ⟨d, 1⟩, xs := [x], ms := [t.vmaskReg], shape := t.patOk,
                       addr := t.veAddr (t.laVM x o) false [(t.laVM x o, t.patBytes)],
                       beats := [(t.laVM x o, t.patBytes)] }) fun n t _ =>
    let stream := ofBytes (t.spRead (t.laVM x o) t.patBytes)
    let res := (List.range t.vn).map fun e => toType t.vtype t.vround t.vpol (Fl.ofInt (t.patElem stream e))
    match t.putElems ⟨d, 1⟩ t.vw false res with
    | some t1 => s.setTeam n ((t1.step .ve).extra ((t.patBytes + 63) / 64 - 8))
    | none => s.trap n t .ve .convtrap 0 0 0

end Sys2Proof.Machine
end

