-- ==== Sys2Proof/Machine/VePermute.lean ====
section
/-!
DEFINITION. Sys2Proof/Machine/VePermute.lean: permutes of the vector engine (10 R247, Table 10-4).
-/
namespace Sys2Proof.Machine

/-- How many registers the index operand of VPERM names at an element width. -/
def permCount (w : Nat) : Nat := if w = 8 then 2 else if w = 4 then 4 else 1

/-- VPERM: indices of the shape's width, or UI16 elements of a pair or quad for narrow shapes. -/
def execVperm (d a b : BitVec 8) (s : State) : Out :=
  s.veVec (fun t => { srcs := [⟨a, 1⟩, ⟨b, permCount t.vw⟩], dst := some ⟨d, 1⟩, ms := [t.vmaskReg] }) Team.vw false fun t vs =>
    match vs with
    | [[x], ys] =>
      let xs := elemsOf t.vw x
      vals (((ys.flatMap (elemsOf (max t.vw 16))).take t.vn).map fun i => xs.getD i 0)
    | _ => []

/-- VSLIDE. -/
def execVslide (d a k : BitVec 8) (s : State) : Out :=
  s.veVec (fun t => { srcs := [⟨a, 1⟩], dst := some ⟨d, 1⟩, ms := [t.vmaskReg] }) Team.vw false fun t vs =>
    match vs with
    | [[x]] =>
      let xs := elemsOf t.vw x
      vals ((List.range t.vn).map fun (i : Nat) =>
        let j : Int := (i : Int) - k.toInt
        if 0 ≤ j && j < t.vn then xs.getD j.toNat 0 else 0)
    | _ => []

/-- VBCAST: every element is written. -/
def execVbcast (d a : BitVec 8) (k : BitVec 4) (s : State) : Out :=
  s.veVec (fun _ => { srcs := [⟨a, 1⟩], dst := some ⟨d, 1⟩, ks := [k] }) Team.vw true fun t vs =>
    match vs with
    | [[x]] => vals (List.replicate t.vn ((elemsOf t.vw x).getD (t.kreg k).toNat 0))
    | _ => []

/-- The indices below n that are active, rising. -/
def Team.activeIdx (t : Team) : List Nat := (List.range t.vn).filter t.active

/-- VCOMP. -/
def execVcomp (d a : BitVec 8) (s : State) : Out :=
  s.veVec (fun t => { srcs := [⟨a, 1⟩], dst := some ⟨d, 1⟩, ms := [t.vmaskReg] }) Team.vw true fun t vs =>
    match vs with
    | [[x]] =>
      let xs := elemsOf t.vw x
      let got := t.activeIdx.map fun i => xs.getD i 0
      vals (got ++ List.replicate (t.vn - got.length) 0)
    | _ => []

/-- VEXPD. -/
def execVexpd (d a : BitVec 8) (s : State) : Out :=
  s.veVec (fun t => { srcs := [⟨a, 1⟩], dst := some ⟨d, 1⟩, ms := [t.vmaskReg] }) Team.vw true fun t vs =>
    match vs with
    | [[x]] =>
      let xs := elemsOf t.vw x
      vals ((List.range t.vn).map fun (i : Nat) =>
        if t.active i then xs.getD ((List.range i).filter t.active).length 0 else 0)
    | _ => []

end Sys2Proof.Machine
end

