-- ==== Sys2Proof/Machine/Timing.lean ====
section
/-!
DEFINITION. Sys2Proof/Machine/Timing.lean: registers that a word reads and writes, its latency and its repeat class (06 R122,
R123, Tables 6-2 and 6-3).  SQ registers have numbers 1-63; of the VE, v is 0-127, k 128-143, m 144-151, x 152-167, the
operand ring 168-175, channel chunks 176-183; classes count from 200.  Also the 64-byte beats that a word takes at the ports of the
scratchpad banks (R130).
-/
namespace Sys2Proof.Machine

structure IssueInfo where
  reads : List Nat := []
  writes : List Nat := []
  lat : Nat := 1
  cls : Nat := 0
  rep : Nat := 1
  /-- results pushed into the operand ring -/
  pushes : Option Nat := none
deriving DecidableEq, Repr

/-- The register numbers of a selector that names `cnt` registers. -/
def selRegs (x : BitVec 8) (cnt : Nat) : List Nat :=
  match selOf x with
  | .v n => List.range' n cnt
  | .ring i => [167 + i]
  | .k n => [128 + n]
  | .chunk j => [176 + j]
  | _ => []

/-- A word that reads a chunk has 12 cycles more (10 R233). -/
def chunkLat (l : List Nat) : Nat := if l.any fun r => 176 ≤ r && r < 184 then 12 else 0

/-- Latency of a word that differs between integer and floating shapes (10 Table 10-2). -/
def Team.latIF (t : Team) : Nat := if t.isFlt then 4 else 2

/-- Tables 6-2 and 6-3. -/
def issueInfo (t : Team) : Instr → IssueInfo
  | .add d a b => { reads := [a.toNat, b.toNat], writes := [d.toNat], lat := 1, cls := 0, rep := 1 }
  | .sub d a b => { reads := [a.toNat, b.toNat], writes := [d.toNat], lat := 1, cls := 0, rep := 1 }
  | .and d a b => { reads := [a.toNat, b.toNat], writes := [d.toNat], lat := 1, cls := 0, rep := 1 }
  | .or d a b => { reads := [a.toNat, b.toNat], writes := [d.toNat], lat := 1, cls := 0, rep := 1 }
  | .xor d a b => { reads := [a.toNat, b.toNat], writes := [d.toNat], lat := 1, cls := 0, rep := 1 }
  | .shl d a b => { reads := [a.toNat, b.toNat], writes := [d.toNat], lat := 1, cls := 0, rep := 1 }
  | .shr d a b => { reads := [a.toNat, b.toNat], writes := [d.toNat], lat := 1, cls := 0, rep := 1 }
  | .sar d a b => { reads := [a.toNat, b.toNat], writes := [d.toNat], lat := 1, cls := 0, rep := 1 }
  | .slt d a b => { reads := [a.toNat, b.toNat], writes := [d.toNat], lat := 1, cls := 0, rep := 1 }
  | .sltu d a b => { reads := [a.toNat, b.toNat], writes := [d.toNat], lat := 1, cls := 0, rep := 1 }
  | .min d a b => { reads := [a.toNat, b.toNat], writes := [d.toNat], lat := 1, cls := 0, rep := 1 }
  | .max d a b => { reads := [a.toNat, b.toNat], writes := [d.toNat], lat := 1, cls := 0, rep := 1 }
  | .minu d a b => { reads := [a.toNat, b.toNat], writes := [d.toNat], lat := 1, cls := 0, rep := 1 }
  | .maxu d a b => { reads := [a.toNat, b.toNat], writes := [d.toNat], lat := 1, cls := 0, rep := 1 }
  | .andn d a b => { reads := [a.toNat, b.toNat], writes := [d.toNat], lat := 1, cls := 0, rep := 1 }
  | .bfx d a b => { reads := [a.toNat, b.toNat], writes := [d.toNat], lat := 1, cls := 0, rep := 1 }
  | .bfxs d a b => { reads := [a.toNat, b.toNat], writes := [d.toNat], lat := 1, cls := 0, rep := 1 }
  | .cmov d a b => { reads := [a.toNat, b.toNat, d.toNat], writes := [d.toNat], lat := 1, cls := 0, rep := 1 }
  | .bfi d a b => { reads := [a.toNat, b.toNat, d.toNat], writes := [d.toNat], lat := 1, cls := 0, rep := 1 }
  | .clz d a => { reads := [a.toNat], writes := [d.toNat], lat := 1, cls := 0, rep := 1 }
  | .ctz d a => { reads := [a.toNat], writes := [d.toNat], lat := 1, cls := 0, rep := 1 }
  | .popc d a => { reads := [a.toNat], writes := [d.toNat], lat := 1, cls := 0, rep := 1 }
  | .mul d a b => { reads := [a.toNat, b.toNat], writes := [d.toNat], lat := 3, cls := 0, rep := 1 }
  | .mulh d a b => { reads := [a.toNat, b.toNat], writes := [d.toNat], lat := 3, cls := 0, rep := 1 }
  | .mulhu d a b => { reads := [a.toNat, b.toNat], writes := [d.toNat], lat := 3, cls := 0, rep := 1 }
  | .div d a b => { reads := [a.toNat, b.toNat], writes := [d.toNat], lat := 34, cls := 1, rep := 34 }
  | .divu d a b => { reads := [a.toNat, b.toNat], writes := [d.toNat], lat := 34, cls := 1, rep := 34 }
  | .rem d a b => { reads := [a.toNat, b.toNat], writes := [d.toNat], lat := 34, cls := 1, rep := 34 }
  | .remu d a b => { reads := [a.toNat, b.toNat], writes := [d.toNat], lat := 34, cls := 1, rep := 34 }
  | .addi d a _ => { reads := [a.toNat], writes := [d.toNat], lat := 1, cls := 0, rep := 1 }
  | .andi d a _ => { reads := [a.toNat], writes := [d.toNat], lat := 1, cls := 0, rep := 1 }
  | .ori d a _ => { reads := [a.toNat], writes := [d.toNat], lat := 1, cls := 0, rep := 1 }
  | .xori d a _ => { reads := [a.toNat], writes := [d.toNat], lat := 1, cls := 0, rep := 1 }
  | .slti d a _ => { reads := [a.toNat], writes := [d.toNat], lat := 1, cls := 0, rep := 1 }
  | .sltui d a _ => { reads := [a.toNat], writes := [d.toNat], lat := 1, cls := 0, rep := 1 }
  | .shli d a _ => { reads := [a.toNat], writes := [d.toNat], lat := 1, cls := 0, rep := 1 }
  | .shri d a _ => { reads := [a.toNat], writes := [d.toNat], lat := 1, cls := 0, rep := 1 }
  | .sari d a _ => { reads := [a.toNat], writes := [d.toNat], lat := 1, cls := 0, rep := 1 }
  | .lui d _ => { reads := [], writes := [d.toNat], lat := 1, cls := 0, rep := 1 }
  | .auipc d _ => { reads := [], writes := [d.toNat], lat := 1, cls := 0, rep := 1 }
  | .beq a b _ => { reads := [a.toNat, b.toNat], writes := [], lat := 1, cls := 0, rep := 1 }
  | .bne a b _ => { reads := [a.toNat, b.toNat], writes := [], lat := 1, cls := 0, rep := 1 }
  | .blt a b _ => { reads := [a.toNat, b.toNat], writes := [], lat := 1, cls := 0, rep := 1 }
  | .bge a b _ => { reads := [a.toNat, b.toNat], writes := [], lat := 1, cls := 0, rep := 1 }
  | .bltu a b _ => { reads := [a.toNat, b.toNat], writes := [], lat := 1, cls := 0, rep := 1 }
  | .bgeu a b _ => { reads := [a.toNat, b.toNat], writes := [], lat := 1, cls := 0, rep := 1 }
  | .jalr d a _ => { reads := [a.toNat], writes := [d.toNat], lat := 1, cls := 0, rep := 1 }
  | .loop a _ => { reads := [a.toNat], writes := [], lat := 1, cls := 0, rep := 1 }
  | .ldb d b _ _ => { reads := [b.toNat], writes := [d.toNat], lat := 4, cls := 0, rep := 1 }
  | .ldbu d b _ _ => { reads := [b.toNat], writes := [d.toNat], lat := 4, cls := 0, rep := 1 }
  | .ldh d b _ _ => { reads := [b.toNat], writes := [d.toNat], lat := 4, cls := 0, rep := 1 }
  | .ldhu d b _ _ => { reads := [b.toNat], writes := [d.toNat], lat := 4, cls := 0, rep := 1 }
  | .ldw d b _ _ => { reads := [b.toNat], writes := [d.toNat], lat := 4, cls := 0, rep := 1 }
  | .ldwu d b _ _ => { reads := [b.toNat], writes := [d.toNat], lat := 4, cls := 0, rep := 1 }
  | .ldd d b _ _ => { reads := [b.toNat], writes := [d.toNat], lat := 4, cls := 0, rep := 1 }
  | .stb d b _ => { reads := [d.toNat, b.toNat], writes := [], lat := 1, cls := 0, rep := 1 }
  | .sth d b _ => { reads := [d.toNat, b.toNat], writes := [], lat := 1, cls := 0, rep := 1 }
  | .stw d b _ => { reads := [d.toNat, b.toNat], writes := [], lat := 1, cls := 0, rep := 1 }
  | .std d b _ => { reads := [d.toNat, b.toNat], writes := [], lat := 1, cls := 0, rep := 1 }
  | .lds d a _ _ => { reads := [a.toNat], writes := [d.toNat], lat := 3, cls := 0, rep := 1 }
  | .sts d a _ _ => { reads := [d.toNat, a.toNat], writes := [], lat := 1, cls := 0, rep := 1 }
  | .ldp d a _ _ => { reads := [a.toNat], writes := [d.toNat], lat := 4, cls := 0, rep := 1 }
  | .atomSwap d a b _ _ => { reads := [a.toNat, b.toNat], writes := [d.toNat], lat := 1, cls := 0, rep := 1 }
  | .atomAdd d a b _ _ => { reads := [a.toNat, b.toNat], writes := [d.toNat], lat := 1, cls := 0, rep := 1 }
  | .atomAnd d a b _ _ => { reads := [a.toNat, b.toNat], writes := [d.toNat], lat := 1, cls := 0, rep := 1 }
  | .atomOr d a b _ _ => { reads := [a.toNat, b.toNat], writes := [d.toNat], lat := 1, cls := 0, rep := 1 }
  | .atomXor d a b _ _ => { reads := [a.toNat, b.toNat], writes := [d.toNat], lat := 1, cls := 0, rep := 1 }
  | .atomMin d a b _ _ => { reads := [a.toNat, b.toNat], writes := [d.toNat], lat := 1, cls := 0, rep := 1 }
  | .atomMax d a b _ _ => { reads := [a.toNat, b.toNat], writes := [d.toNat], lat := 1, cls := 0, rep := 1 }
  | .atomMinu d a b _ _ => { reads := [a.toNat, b.toNat], writes := [d.toNat], lat := 1, cls := 0, rep := 1 }
  | .atomMaxu d a b _ _ => { reads := [a.toNat, b.toNat], writes := [d.toNat], lat := 1, cls := 0, rep := 1 }
  | .cas d a b _ _ => { reads := [d.toNat, a.toNat, b.toNat], writes := [d.toNat], lat := 1, cls := 0, rep := 1 }
  | .redAdd _ a b _ _ => { reads := [a.toNat, b.toNat], writes := [], lat := 1, cls := 0, rep := 1 }
  | .redAnd _ a b _ _ => { reads := [a.toNat, b.toNat], writes := [], lat := 1, cls := 0, rep := 1 }
  | .redOr _ a b _ _ => { reads := [a.toNat, b.toNat], writes := [], lat := 1, cls := 0, rep := 1 }
  | .redXor _ a b _ _ => { reads := [a.toNat, b.toNat], writes := [], lat := 1, cls := 0, rep := 1 }
  | .redMin _ a b _ _ => { reads := [a.toNat, b.toNat], writes := [], lat := 1, cls := 0, rep := 1 }
  | .redMax _ a b _ _ => { reads := [a.toNat, b.toNat], writes := [], lat := 1, cls := 0, rep := 1 }
  | .redMinu _ a b _ _ => { reads := [a.toNat, b.toNat], writes := [], lat := 1, cls := 0, rep := 1 }
  | .redMaxu _ a b _ _ => { reads := [a.toNat, b.toNat], writes := [], lat := 1, cls := 0, rep := 1 }
  | .redFadd32 a b _ _ => { reads := [a.toNat, b.toNat], writes := [], lat := 1, cls := 0, rep := 1 }
  | .redFadd64 a b _ _ => { reads := [a.toNat, b.toNat], writes := [], lat := 1, cls := 0, rep := 1 }
  | .lda d a _ _ _ => { reads := [a.toNat], writes := [d.toNat], lat := 4, cls := 0, rep := 1 }
  | .stl d a _ _ => { reads := [d.toNat, a.toNat], writes := [], lat := 1, cls := 0, rep := 1 }
  | .ldblk _ a _ => { reads := [a.toNat], writes := [], lat := 1, cls := 0, rep := 1 }
  | .chst d _ => { reads := [], writes := [d.toNat], lat := 2, cls := 0, rep := 1 }
  | .bexp a _ => { reads := [a.toNat], writes := [], lat := 1, cls := 0, rep := 1 }
  | .bwait a _ => { reads := [a.toNat], writes := [], lat := 1, cls := 0, rep := 1 }
  | .mfs d _ => { reads := [], writes := [d.toNat], lat := 2, cls := 0, rep := 1 }
  | .mts a _ => { reads := [a.toNat], writes := [], lat := 1, cls := 0, rep := 1 }
  | .falloc d => { reads := [], writes := [d.toNat], lat := 1, cls := 0, rep := 1 }
  | .fresResolve d a b => { reads := [a.toNat, b.toNat], writes := [d.toNat], lat := 1, cls := 0, rep := 1 }
  | .fresFail d a b => { reads := [a.toNat, b.toNat], writes := [d.toNat], lat := 1, cls := 0, rep := 1 }
  | .fresCancel d a => { reads := [a.toNat], writes := [d.toNat], lat := 1, cls := 0, rep := 1 }
  | .fresFree d a => { reads := [a.toNat], writes := [d.toNat], lat := 1, cls := 0, rep := 1 }
  | .fresReset d a => { reads := [a.toNat], writes := [d.toNat], lat := 1, cls := 0, rep := 1 }
  | .fwait d a => { reads := [a.toNat], writes := [d.toNat], lat := 1, cls := 0, rep := 1 }
  | .fpoll d a => { reads := [a.toNat], writes := [d.toNat], lat := 1, cls := 0, rep := 1 }
  | .tktake d a => { reads := [a.toNat], writes := [d.toNat], lat := 1, cls := 0, rep := 1 }
  | .tkwait a b => { reads := [a.toNat, b.toNat], writes := [], lat := 1, cls := 0, rep := 1 }
  | .tkserve a => { reads := [a.toNat], writes := [], lat := 1, cls := 0, rep := 1 }
  | .qenq d a b => { reads := [a.toNat, b.toNat], writes := [d.toNat], lat := 1, cls := 0, rep := 1 }
  | .qdeq d a b => { reads := [a.toNat, b.toNat], writes := [d.toNat], lat := 1, cls := 0, rep := 1 }
  | .tsub d a b => { reads := [a.toNat, b.toNat], writes := [d.toNat], lat := 1, cls := 0, rep := 1 }
  | .snap d a b => { reads := [a.toNat, b.toNat], writes := [d.toNat], lat := 1, cls := 0, rep := 1 }
  | .sresv d a b => { reads := [a.toNat, b.toNat], writes := [d.toNat], lat := 1, cls := 0, rep := 1 }
  | .sacc a => { reads := [a.toNat], writes := [], lat := 1, cls := 0, rep := 1 }
  | .srej a => { reads := [a.toNat], writes := [], lat := 1, cls := 0, rep := 1 }
  | .sqry d a => { reads := [a.toNat], writes := [d.toNat], lat := 1, cls := 0, rep := 1 }
  | .ldv d a b => { reads := [a.toNat, b.toNat], writes := [d.toNat], lat := 4, cls := 0, rep := 1 }
  | .tdcls d a => { reads := [a.toNat], writes := [d.toNat], lat := 2, cls := 0, rep := 1 }
  | .tdscan a _ => { reads := [a.toNat], writes := [], lat := 1, cls := 0, rep := 1 }
  | .cwb a _ => { reads := [a.toNat], writes := [], lat := 1, cls := 0, rep := 1 }
  | .cinv a _ => { reads := [a.toNat], writes := [], lat := 1, cls := 0, rep := 1 }
  | .cwbi a _ => { reads := [a.toNat], writes := [], lat := 1, cls := 0, rep := 1 }
  | .jal _ => { writes := [63] }
  | .vadd d a b =>
    { reads := selRegs a 1 ++ selRegs b 1 ++ [144 + t.vmaskReg.toNat], writes := selRegs d 1, lat := t.latIF + chunkLat (selRegs a 1 ++ selRegs b 1), cls := 0, rep := 1, pushes := some 1 }
  | .vsub d a b =>
    { reads := selRegs a 1 ++ selRegs b 1 ++ [144 + t.vmaskReg.toNat], writes := selRegs d 1, lat := t.latIF + chunkLat (selRegs a 1 ++ selRegs b 1), cls := 0, rep := 1, pushes := some 1 }
  | .vmin d a b =>
    { reads := selRegs a 1 ++ selRegs b 1 ++ [144 + t.vmaskReg.toNat], writes := selRegs d 1, lat := t.latIF + chunkLat (selRegs a 1 ++ selRegs b 1), cls := 0, rep := 1, pushes := some 1 }
  | .vmax d a b =>
    { reads := selRegs a 1 ++ selRegs b 1 ++ [144 + t.vmaskReg.toNat], writes := selRegs d 1, lat := t.latIF + chunkLat (selRegs a 1 ++ selRegs b 1), cls := 0, rep := 1, pushes := some 1 }
  | .vavg d a b =>
    { reads := selRegs a 1 ++ selRegs b 1 ++ [144 + t.vmaskReg.toNat], writes := selRegs d 1, lat := t.latIF + chunkLat (selRegs a 1 ++ selRegs b 1), cls := 0, rep := 1, pushes := some 1 }
  | .vabd d a b =>
    { reads := selRegs a 1 ++ selRegs b 1 ++ [144 + t.vmaskReg.toNat], writes := selRegs d 1, lat := t.latIF + chunkLat (selRegs a 1 ++ selRegs b 1), cls := 0, rep := 1, pushes := some 1 }
  | .vmul d a b =>
    { reads := selRegs a 1 ++ selRegs b 1 ++ [144 + t.vmaskReg.toNat], writes := selRegs d 1, lat := 4 + chunkLat (selRegs a 1 ++ selRegs b 1), cls := 0, rep := 1, pushes := some 1 }
  | .vmulh d a b =>
    { reads := selRegs a 1 ++ selRegs b 1 ++ [144 + t.vmaskReg.toNat], writes := selRegs d 1, lat := 4 + chunkLat (selRegs a 1 ++ selRegs b 1), cls := 0, rep := 1, pushes := some 1 }
  | .vfma d a b =>
    { reads := selRegs a 1 ++ selRegs b 1 ++ selRegs d 1 ++ [144 + t.vmaskReg.toNat], writes := selRegs d 1, lat := t.latIF + chunkLat (selRegs a 1 ++ selRegs b 1 ++ selRegs d 1), cls := 0, rep := 1, pushes := some 1 }
  | .vfms d a b =>
    { reads := selRegs a 1 ++ selRegs b 1 ++ selRegs d 1 ++ [144 + t.vmaskReg.toNat], writes := selRegs d 1, lat := t.latIF + chunkLat (selRegs a 1 ++ selRegs b 1 ++ selRegs d 1), cls := 0, rep := 1, pushes := some 1 }
  | .vabs d a =>
    { reads := selRegs a 1 ++ [144 + t.vmaskReg.toNat], writes := selRegs d 1, lat := t.latIF + chunkLat (selRegs a 1), cls := 0, rep := 1, pushes := some 1 }
  | .vneg d a =>
    { reads := selRegs a 1 ++ [144 + t.vmaskReg.toNat], writes := selRegs d 1, lat := t.latIF + chunkLat (selRegs a 1), cls := 0, rep := 1, pushes := some 1 }
  | .vadds d a b =>
    { reads := selRegs a 1 ++ selRegs b 1 ++ [144 + t.vmaskReg.toNat], writes := selRegs d 1, lat := 2 + chunkLat (selRegs a 1 ++ selRegs b 1), cls := 0, rep := 1, pushes := some 1 }
  | .vsubs d a b =>
    { reads := selRegs a 1 ++ selRegs b 1 ++ [144 + t.vmaskReg.toNat], writes := selRegs d 1, lat := 2 + chunkLat (selRegs a 1 ++ selRegs b 1), cls := 0, rep := 1, pushes := some 1 }
  | .vand d a b =>
    { reads := selRegs a 1 ++ selRegs b 1 ++ [144 + t.vmaskReg.toNat], writes := selRegs d 1, lat := 2 + chunkLat (selRegs a 1 ++ selRegs b 1), cls := 0, rep := 1, pushes := some 1 }
  | .vor d a b =>
    { reads := selRegs a 1 ++ selRegs b 1 ++ [144 + t.vmaskReg.toNat], writes := selRegs d 1, lat := 2 + chunkLat (selRegs a 1 ++ selRegs b 1), cls := 0, rep := 1, pushes := some 1 }
  | .vxor d a b =>
    { reads := selRegs a 1 ++ selRegs b 1 ++ [144 + t.vmaskReg.toNat], writes := selRegs d 1, lat := 2 + chunkLat (selRegs a 1 ++ selRegs b 1), cls := 0, rep := 1, pushes := some 1 }
  | .vshl d a b =>
    { reads := selRegs a 1 ++ selRegs b 1 ++ [144 + t.vmaskReg.toNat], writes := selRegs d 1, lat := 2 + chunkLat (selRegs a 1 ++ selRegs b 1), cls := 0, rep := 1, pushes := some 1 }
  | .vshr d a b =>
    { reads := selRegs a 1 ++ selRegs b 1 ++ [144 + t.vmaskReg.toNat], writes := selRegs d 1, lat := 2 + chunkLat (selRegs a 1 ++ selRegs b 1), cls := 0, rep := 1, pushes := some 1 }
  | .vsar d a b =>
    { reads := selRegs a 1 ++ selRegs b 1 ++ [144 + t.vmaskReg.toNat], writes := selRegs d 1, lat := 2 + chunkLat (selRegs a 1 ++ selRegs b 1), cls := 0, rep := 1, pushes := some 1 }
  | .vnot d a =>
    { reads := selRegs a 1 ++ [144 + t.vmaskReg.toNat], writes := selRegs d 1, lat := 2 + chunkLat (selRegs a 1), cls := 0, rep := 1, pushes := some 1 }
  | .vshli d a _ =>
    { reads := selRegs a 1 ++ [144 + t.vmaskReg.toNat], writes := selRegs d 1, lat := 2 + chunkLat (selRegs a 1), cls := 0, rep := 1, pushes := some 1 }
  | .vshri d a _ =>
    { reads := selRegs a 1 ++ [144 + t.vmaskReg.toNat], writes := selRegs d 1, lat := 2 + chunkLat (selRegs a 1), cls := 0, rep := 1, pushes := some 1 }
  | .vsari d a _ =>
    { reads := selRegs a 1 ++ [144 + t.vmaskReg.toNat], writes := selRegs d 1, lat := 2 + chunkLat (selRegs a 1), cls := 0, rep := 1, pushes := some 1 }
  | .vclz d a =>
    { reads := selRegs a 1 ++ [144 + t.vmaskReg.toNat], writes := selRegs d 1, lat := 2 + chunkLat (selRegs a 1), cls := 0, rep := 1, pushes := some 1 }
  | .vpopc d a =>
    { reads := selRegs a 1 ++ [144 + t.vmaskReg.toNat], writes := selRegs d 1, lat := 2 + chunkLat (selRegs a 1), cls := 0, rep := 1, pushes := some 1 }
  | .vdiv d a b =>
    { reads := selRegs a 1 ++ selRegs b 1 ++ [144 + t.vmaskReg.toNat], writes := selRegs d 1, lat := 28 + chunkLat (selRegs a 1 ++ selRegs b 1), cls := 1, rep := 8, pushes := some 1 }
  | .vsqrt d a =>
    { reads := selRegs a 1 ++ [144 + t.vmaskReg.toNat], writes := selRegs d 1, lat := 28 + chunkLat (selRegs a 1), cls := 1, rep := 8, pushes := some 1 }
  | .vrcp d a =>
    { reads := selRegs a 1 ++ [144 + t.vmaskReg.toNat], writes := selRegs d 1, lat := 8 + chunkLat (selRegs a 1), cls := 2, rep := 2, pushes := some 1 }
  | .vrsq d a =>
    { reads := selRegs a 1 ++ [144 + t.vmaskReg.toNat], writes := selRegs d 1, lat := 8 + chunkLat (selRegs a 1), cls := 2, rep := 2, pushes := some 1 }
  | .vexp2 d a =>
    { reads := selRegs a 1 ++ [144 + t.vmaskReg.toNat], writes := selRegs d 1, lat := 8 + chunkLat (selRegs a 1), cls := 2, rep := 2, pushes := some 1 }
  | .vlog2 d a =>
    { reads := selRegs a 1 ++ [144 + t.vmaskReg.toNat], writes := selRegs d 1, lat := 8 + chunkLat (selRegs a 1), cls := 2, rep := 2, pushes := some 1 }
  | .vclass d a =>
    { reads := selRegs a 1 ++ [144 + t.vmaskReg.toNat], writes := selRegs d 1, lat := 2 + chunkLat (selRegs a 1), cls := 0, rep := 1, pushes := some 1 }
  | .vcmp _ m a b =>
    { reads := selRegs a 1 ++ selRegs b 1 ++ [144 + m.toNat] ++ [144 + t.vmaskReg.toNat], writes := [144 + m.toNat], lat := 2 + chunkLat (selRegs a 1 ++ selRegs b 1), cls := 0, rep := 1, pushes := none }
  | .vsel d a b =>
    { reads := selRegs a 1 ++ selRegs b 1 ++ [144 + t.vmaskReg.toNat], writes := selRegs d 1, lat := 2 + chunkLat (selRegs a 1 ++ selRegs b 1), cls := 0, rep := 1, pushes := some 1 }
  | .mand d a b =>
    { reads := [144 + a.toNat] ++ [144 + b.toNat], writes := [144 + d.toNat], lat := 2, cls := 0, rep := 1, pushes := none }
  | .mor d a b =>
    { reads := [144 + a.toNat] ++ [144 + b.toNat], writes := [144 + d.toNat], lat := 2, cls := 0, rep := 1, pushes := none }
  | .mxor d a b =>
    { reads := [144 + a.toNat] ++ [144 + b.toNat], writes := [144 + d.toNat], lat := 2, cls := 0, rep := 1, pushes := none }
  | .mnot d a =>
    { reads := [144 + a.toNat], writes := [144 + d.toNat], lat := 2, cls := 0, rep := 1, pushes := none }
  | .mpopc d a =>
    { reads := [144 + a.toNat], writes := [128 + d.toNat], lat := 3, cls := 0, rep := 1, pushes := none }
  | .mfirst d a =>
    { reads := [144 + a.toNat], writes := [128 + d.toNat], lat := 3, cls := 0, rep := 1, pushes := none }
  | .vcvt d a _ =>
    { reads := selRegs a 1 ++ [144 + t.vmaskReg.toNat], writes := selRegs d 1, lat := 4 + chunkLat (selRegs a 1), cls := 3, rep := 1, pushes := some 1 }
  | .vwiden d a t' =>
    { reads := selRegs a 1 ++ [144 + t.vmaskReg.toNat], writes := selRegs d (groupOf (typeW t'.toNat) t.vw), lat := 4 + chunkLat (selRegs a 1), cls := 3, rep := groupOf (typeW t'.toNat) t.vw, pushes := some (groupOf (typeW t'.toNat) t.vw) }
  | .vnarrow d a t' =>
    { reads := selRegs a (groupOf t.vw (typeW t'.toNat)) ++ [144 + t.vmaskReg.toNat], writes := selRegs d 1, lat := 4 + chunkLat (selRegs a (groupOf t.vw (typeW t'.toNat))), cls := 3, rep := groupOf t.vw (typeW t'.toNat), pushes := some 1 }
  | .vquant d a b =>
    { reads := selRegs a 1 ++ selRegs b 1 ++ [144 + t.vmaskReg.toNat], writes := selRegs d 1, lat := 4 + chunkLat (selRegs a 1 ++ selRegs b 1), cls := 3, rep := 1, pushes := some 1 }
  | .vdeq d a b =>
    { reads := selRegs a 1 ++ selRegs b 1 ++ [144 + t.vmaskReg.toNat], writes := selRegs d 1, lat := 4 + chunkLat (selRegs a 1 ++ selRegs b 1), cls := 3, rep := 1, pushes := some 1 }
  | .vrsum d a =>
    { reads := selRegs a 1 ++ [144 + t.vmaskReg.toNat], writes := selRegs d 1, lat := 10 + chunkLat (selRegs a 1), cls := 4, rep := 2, pushes := some 1 }
  | .vrmax d a =>
    { reads := selRegs a 1 ++ [144 + t.vmaskReg.toNat], writes := selRegs d 1, lat := 10 + chunkLat (selRegs a 1), cls := 4, rep := 2, pushes := some 1 }
  | .vrmin d a =>
    { reads := selRegs a 1 ++ [144 + t.vmaskReg.toNat], writes := selRegs d 1, lat := 10 + chunkLat (selRegs a 1), cls := 4, rep := 2, pushes := some 1 }
  | .vscan d a =>
    { reads := selRegs a 1 ++ [144 + t.vmaskReg.toNat], writes := selRegs d 1, lat := 12 + chunkLat (selRegs a 1), cls := 4, rep := 4, pushes := some 1 }
  | .vperm d a b =>
    { reads := selRegs a 1 ++ selRegs b (permCount t.vw) ++ [144 + t.vmaskReg.toNat], writes := selRegs d 1, lat := 6 + chunkLat (selRegs a 1 ++ selRegs b (permCount t.vw)), cls := 6, rep := 2, pushes := some 1 }
  | .vslide d a _ =>
    { reads := selRegs a 1 ++ [144 + t.vmaskReg.toNat], writes := selRegs d 1, lat := 6 + chunkLat (selRegs a 1), cls := 6, rep := 2, pushes := some 1 }
  | .vcomp d a =>
    { reads := selRegs a 1 ++ [144 + t.vmaskReg.toNat], writes := selRegs d 1, lat := 6 + chunkLat (selRegs a 1), cls := 6, rep := 2, pushes := some 1 }
  | .vexpd d a =>
    { reads := selRegs a 1 ++ [144 + t.vmaskReg.toNat], writes := selRegs d 1, lat := 6 + chunkLat (selRegs a 1), cls := 6, rep := 2, pushes := some 1 }
  | .vbcast d a k =>
    { reads := selRegs a 1 ++ [128 + k.toNat], writes := selRegs d 1, lat := 6 + chunkLat (selRegs a 1), cls := 6, rep := 2, pushes := some 1 }
  | .kli k _ =>
    { reads := [], writes := [128 + k.toNat], lat := 1, cls := 0, rep := 1, pushes := none }
  | .kadd d a b =>
    { reads := [128 + a.toNat] ++ [128 + b.toNat], writes := [128 + d.toNat], lat := 1, cls := 0, rep := 1, pushes := none }
  | .kmul d a b =>
    { reads := [128 + a.toNat] ++ [128 + b.toNat], writes := [128 + d.toNat], lat := 1, cls := 0, rep := 1, pushes := none }
  | .kfadd d a b =>
    { reads := [128 + a.toNat] ++ [128 + b.toNat], writes := [128 + d.toNat], lat := 1, cls := 0, rep := 1, pushes := none }
  | .kget d a b =>
    { reads := selRegs a 1 ++ [128 + b.toNat], writes := [128 + d.toNat], lat := 3 + chunkLat (selRegs a 1), cls := 0, rep := 1, pushes := none }
  | .vins d a b =>
    { reads := selRegs d 1 ++ [128 + a.toNat] ++ [128 + b.toNat], writes := selRegs d 1, lat := 3, cls := 0, rep := 1, pushes := some 1 }
  | .kmfs k _ =>
    { reads := [], writes := [128 + k.toNat], lat := 3, cls := 0, rep := 1, pushes := none }
  | .xsetXreg d a =>
    { reads := [128 + a.toNat], writes := [152 + d.toNat], lat := 1, cls := 0, rep := 1, pushes := none }
  | .xaddi x _ =>
    { reads := [152 + x.toNat], writes := [152 + x.toNat], lat := 1, cls := 0, rep := 1, pushes := none }
  | .vld d x _ =>
    { reads := [152 + x.toNat] ++ [144 + t.vmaskReg.toNat], writes := selRegs d 1, lat := 12, cls := 0, rep := 1, pushes := some 1 }
  | .vldp d x _ =>
    { reads := [152 + x.toNat] ++ [144 + t.vmaskReg.toNat], writes := selRegs d 1, lat := 12 + ((t.patBytes + 63) / 64 - 8), cls := 0, rep := 1, pushes := some 1 }
  | .vldb d x _ =>
    { reads := [152 + x.toNat] ++ [144 + t.vmaskReg.toNat], writes := selRegs d 1, lat := 12, cls := 0, rep := 1, pushes := some 1 }
  | .vst d x _ =>
    { reads := selRegs d 1 ++ [152 + x.toNat] ++ [144 + t.vmaskReg.toNat], writes := [], lat := 2, cls := 0, rep := 1, pushes := none }
  | .vlds d x k _ =>
    { reads := [128 + k.toNat] ++ [152 + x.toNat] ++ [144 + t.vmaskReg.toNat], writes := selRegs d 1, lat := 12, cls := 0, rep := 1, pushes := some 1 }
  | .vsts d x k _ =>
    { reads := selRegs d 1 ++ [128 + k.toNat] ++ [152 + x.toNat] ++ [144 + t.vmaskReg.toNat], writes := [], lat := 2, cls := 0, rep := 1, pushes := none }
  | .vldx d x a =>
    { reads := selRegs a 1 ++ [152 + x.toNat] ++ [144 + t.vmaskReg.toNat], writes := selRegs d 1, lat := 12 + t.idxStall x (t.idxVec a []) + chunkLat (selRegs a 1), cls := 0, rep := 1, pushes := some 1 }
  | .vstx d x a =>
    { reads := selRegs d 1 ++ selRegs a 1 ++ [152 + x.toNat] ++ [144 + t.vmaskReg.toNat], writes := [], lat := 2, cls := 0, rep := 1, pushes := none }
  | .vloop k _ =>
    { reads := [128 + k.toNat], writes := [], lat := 2, cls := 0, rep := 1, pushes := none }
  | .vwaitb k _ =>
    { reads := [128 + k.toNat], writes := [], lat := 2, cls := 0, rep := 1, pushes := none }
  | _ => {}

/-- The first CYCLE at which a register's reader may issue. -/
def EngCtl.readyAt (k : EngCtl) (r : Nat) : Nat := SMap.get 0 k.ready r

/-- Registers of the SQ that an outstanding load, atomic or device word still writes (06 R123). -/
def State.sqPending (s : State) (n : Nat) (t : Team) : List Nat :=
  (t.sq.landing.map (·.d)) ++ (t.sq.replies.map (·.d)) ++
  (s.atomq.filterMap fun a => if a.slot = n then a.d else none) ++
  (s.host.outReqs.filterMap fun q => if q.slot = n then q.d else none)

/-! Bank ports (R130). -/

/-- The banks of the beats that a VE word takes, one in each cycle from its issue on: its scratchpad access, or its channel chunks. -/
def Team.veBeats (t : Team) (i : Instr) : List Nat :=
  match i with
  | .vld _ x o | .vst _ x o => beatsOf [(t.laVM x o, 512)]
  | .vldb _ x o => beatsOf [(t.laVM x o, 64)]
  | .vldp _ x o => beatsOf [(t.laVM x o, t.patBytes)]
  | .vlds _ x k o | .vsts _ x k o => beatsOf (t.strides (t.laVS x o) k)
  | .vldx _ x a => (((t.indexed x (t.idxVec a [])).map fun p => p.1 / 64).eraseDups).map fun u => bankOf (64 * u)
  | .vstx d x a => (((t.indexed x (t.idxVec a [⟨d, 1⟩])).map fun p => p.1 / 64).eraseDups).map fun u => bankOf (64 * u)
  | _ =>
    let f := issueInfo t i
    let chunk (producer : Bool) (cnt : Nat) (l : List Nat) : List Nat :=
      (l.filter fun r => 176 ≤ r && r < 184).zipIdx.flatMap fun p =>
        match t.chunkAt (p.1 - 176) producer ((l.take p.2).filter (· = p.1)).length cnt with
        | some (_, la) => beatsOf [(la, 512 * cnt)]
        | none => []
    chunk false 1 f.reads ++ chunk true (f.pushes.getD 1) f.writes

/-- The beats of a word of engine `e`: those of the VE; one of an SQ access or of XLD, whose descriptor lies in one beat.  Those of NLD,
which the ME's port serves first, are never refused but to a window landing. -/
def Team.wordBeats (t : Team) (e : Engine) (i : Instr) : List Nat :=
  match i with
  | .lds _ a _ o | .sts _ a _ o => [bankOf (t.eaLocal a o)]
  | .xld a => [bankOf (64 * a.toNat)]
  | .nld a => [bankOf (128 * a.toNat)]
  | .tdscan _ _ => (t.scanDt.map fun d => bankOf (4096 * d.1)).toList
  | _ => if e = .ve then t.veBeats i else []

/-- The first beat of the word finds its bank's port taken in this cycle (log 9). -/
def Team.portBusy (t : Team) (e : Engine) (i : Instr) : Bool :=
  !t.ports.isEmpty && (match (t.wordBeats e i).head? with
    | some b => t.ports.contains b
    | none => false)

/-- The word has issued: its first beat has been served, the rest of a VE access follows in the next cycles.  A descriptor load takes no
port from the engines before it in rank (log 9). -/
def Team.takeBeats (t u : Team) (e : Engine) (i : Instr) : Team :=
  match t.wordBeats e i with
  | [] => u
  | b :: r =>
    if e = .ve then { u with ports := setInsert b u.ports, ve := { u.ve with beats := if r = [] then u.ve.beats else u.ve.beats ++ [r] } }
    else if e = .sq then { u with ports := setInsert b u.ports }
    else if e = .me then { u with ports := setInsert b u.ports, me := { u.me with nld := some (t.cycle + 1, b) } }
    else u

/-- The VE's accesses under way take their next beats.  One that is not served waits, and the VE stalls for the cycle: every result that
is not ready yet comes a cycle later (log 9). -/
def Team.veTick (t : Team) : Team :=
  if t.ve.beats.isEmpty then t
  else
    let (ports, rest, lost) := t.ve.beats.foldl (fun (acc : List Nat × List (List Nat) × Bool) l =>
      match l with
      | [] => acc
      | b :: r => if acc.1.contains b then (acc.1, acc.2.1 ++ [l], true) else (setInsert b acc.1, acc.2.1 ++ [r], acc.2.2))
      (t.ports, [], false)
    let k := t.ve.ctl
    let k1 : EngCtl := if lost then
        { k with busy := max k.busy t.cycle + 1, ready := k.ready.map fun p => if t.cycle < p.2 then (p.1, p.2 + 1) else p } else k
    { t with ports := ports, ve := { t.ve with beats := rest.filter (· ≠ []), ctl := k1 } }

/-- The interlock of R122 and R123: the engine stalls while an operand, or the register it writes, is not ready, while its
class's repeat interval runs, or within a stall; and while the bank of its first beat serves another engine (R130).  A write of s0 or
m0 is discarded: no reader waits for it; the spec does not say so, it is the model's choice (log 31). -/
def State.interlocked (s : State) (n : Nat) (t : Team) (e : Engine) (i : Instr) : Bool :=
  let k := t.ctl e
  let f := issueInfo t i
  let regs := (f.reads ++ f.writes).filter fun r => !(e = .sq && r = 0) && r ≠ 144
  t.portBusy e i ||
  (e = .sq && regs.any fun r => (s.sqPending n t).contains r) ||
  (!t.inHandler && (t.cycle < k.busy || (regs.any fun r => t.cycle < k.readyAt r) ||
    (f.cls ≠ 0 && t.cycle < k.readyAt (200 + f.cls))))

/-- Shift the ring's ready times for one more result, ready at `at_` (log 31). -/
def pushReady (m : SMap Nat) (at_ : Nat) : SMap Nat :=
  SMap.put 0 ([175, 174, 173, 172, 171, 170, 169].foldl (fun m r => SMap.put 0 m r (SMap.get 0 m (r - 1))) m) 168 at_

/-- After a word has issued: when its results are ready.  Nothing is kept in a handler, where CYCLE stands (17 R402) (log 31). -/
def Team.issued (t : Team) (e : Engine) (f : IssueInfo) : Team :=
  if t.inHandler ∨ t.pend.isSome ∨ t.halting.isSome then t
  else
    t.updCtl e fun k =>
      let at_ := t.cycle + f.lat
      let r1 := if f.lat ≤ 1 then k.ready
        else (f.writes.filter fun r => r < 176 && r ≠ 144 && !(e = .sq && r = 0)).foldl (fun m r => SMap.put 0 m r at_) k.ready
      let r2 := if f.cls ≠ 0 then SMap.put 0 r1 (200 + f.cls) (t.cycle + f.rep) else r1
      let r3 := (List.range (f.pushes.getD 0)).foldl (fun m _ => pushReady m at_) r2
      { k with ready := r3.filter fun p => t.cycle < p.2 }

end Sys2Proof.Machine
end

