-- ==== Sys2Proof/Machine/MeNest.lean ====
section
/-!
DEFINITION. Sys2Proof/Machine/MeNest.lean: what a nest of the matrix engine does once its MGO has created it (13 R323-R343, 14
R352-R356): the cycles of validation, B loads and array steps (Table 13-8) with their bank beats, and what each step does, row by row.
-/
namespace Sys2Proof.Machine

/-! Dense views, so that a step reads its operands once. -/

/-- Entries 0 … n - 1 of a table. -/
def dense {α : Type} (d : α) (n : Nat) (m : SMap α) : Array α :=
  m.foldr (fun p a => a.setIfInBounds p.1 p.2) (Array.replicate n d)

/-- Bytes `la … la + n - 1` of scratchpad. -/
def Team.spDense (t : Team) (la n : Nat) : Array Byte :=
  dense 0 n (t.sp.filterMap fun p => if la ≤ p.1 ∧ p.1 < la + n then some (p.1 - la, p.2) else none)

def byteNat (a : Array Byte) (i : Nat) : Nat := (a.getD i 0).toNat
def numAt (a : Array Byte) (i n : Nat) : Nat := ofBytes ((List.range n).map fun j => a.getD (i + j) 0)

/-! The queue of nests and clears (R331, R343). -/

def MeItem.isDone : MeItem → Bool
  | .nest n => n.done
  | _ => false

/-- The item the ME works on: the first that has not completed. -/
def MeState.work (m : MeState) : Option MeItem := m.queue.find? fun i => !i.isDone

/-- The queue with that item replaced, or removed (log 28). -/
def replaceWork (x : Option MeItem) : List MeItem → List MeItem
  | [] => []
  | i :: r =>
    if i.isDone then i :: replaceWork x r
    else
      match x with
      | some y => y :: r
      | none => r

def Team.updMe (t : Team) (f : MeState → MeState) : Team := { t with me := f t.me }

def Team.setWork (t : Team) (x : Option MeItem) : Team := t.updMe fun m => { m with queue := replaceWork x m.queue }

/-! The loop levels (R331). -/

def Nest.offset (n : Nest) (st : Nat → Int) : Int := (levels.map fun l => st l * (n.idx.getD l 0 : Nat)).sum
/-- o of R331. -/
def Nest.aOff (n : Nest) : Int := n.offset n.as_
def Nest.aAddr (n : Nest) : Nat := ((n.abase : Int) + n.aOff).toNat
def Nest.bAddr (n : Nest) : Nat := ((n.bbase : Int) + n.offset n.bs).toNat
def Nest.cAddr (n : Nest) : Nat := ((n.cbase : Int) + n.offset n.cs).toNat
/-- sr: the record base of the pass. -/
def Nest.sr (n : Nest) : Nat := ((n.scb : Int) + 64 * n.offset n.ss).toNat

/-- The staging tile of a chained pass. -/
def Nest.tile (n : Nest) : Nat := n.aOff.toNat / 65536

/-- The level indices advance, level 0 fastest; none after the last. -/
def nextIdx : List Nat → List Nat → Option (List Nat)
  | i :: is, c :: cs => if i < c then some ((i + 1) :: is) else (nextIdx is cs).map (0 :: ·)
  | _, _ => none

/-- The steps of the iteration under way (R331).  The boundary that R328 puts before a pass is not among them. -/
def Nest.plan (n : Nest) : List MeStep :=
  let ends (l : Nat) : Bool := (List.range l).all fun k => n.idx.getD k 0 = n.count k
  let bd := if n.hasPart then [MeStep.boundary] else []
  [.pass] ++
  (levels.flatMap fun l =>
    if ends l then (if n.sbAt l then bd else []) ++ (if n.drainAt l then bd ++ [.drain n.cAddr] else []) else []) ++
  (if ends 6 && n.dend then bd ++ [.drain n.cAddr] else []) ++ [.next]

/-- A step is done. -/
def Nest.pop (n : Nest) : Nest :=
  match n.todo.drop 1 with
  | [.next] =>
    match nextIdx n.idx (levels.map n.count) with
    | some ix => { n with idx := ix, row := 0, todo := { n with idx := ix }.plan }
    | none => { n with row := 0, todo := [] }
  | r => { n with row := 0, todo := r }

/-- R328 asks for a boundary before the pass. -/
def Nest.needsBoundary (n : Nest) (m : MeState) : Bool := n.scen && (m.srp ≠ some n.sr || m.kb = 64)

/-! Accumulator buffers (R327). -/

def MeState.acc (m : MeState) (c : Nat) : SMap (BitVec 32) := if c = 0 then m.acc0 else m.acc1
def MeState.setAcc (m : MeState) (c : Nat) (a : SMap (BitVec 32)) : MeState :=
  if c = 0 then { m with acc0 := a } else { m with acc1 := a }
def MeState.accMark (m : MeState) (c : Nat) : Bool := if c = 0 then m.accMark0 else m.accMark1
def MeState.setAccMark (m : MeState) (c : Nat) (b : Bool) : MeState :=
  if c = 0 then { m with accMark0 := b } else { m with accMark1 := b }

/-- Apply `f m n old` to the elements of rows `lo … hi - 1`; its second result is flags, which are joined. -/
def mapAcc (a : SMap (BitVec 32)) (lo hi : Nat) (f : Nat → Nat → Nat → Nat × Nat) : SMap (BitVec 32) × Nat :=
  let d := dense 0 (512 * (hi - lo)) (a.filterMap fun p => if 512 * lo ≤ p.1 ∧ p.1 < 512 * hi then some (p.1 - 512 * lo, p.2) else none)
  let (xs, fl) := (List.range (512 * (hi - lo))).foldr (fun i (acc : List (BitVec 32) × Nat) =>
    let (y, g) := f (lo + i / 512) (i % 512) (d.getD i 0).toNat
    (BitVec.ofNat 32 y :: acc.1, acc.2 ||| g)) ([], 0)
  (SMap.putRun 0 a (512 * lo) xs, fl)

/-- Rows `lo … hi - 1` set to zero. -/
def zeroRows (a : SMap (BitVec 32)) (lo hi : Nat) : SMap (BitVec 32) := a.filter fun p => !(512 * lo ≤ p.1 && p.1 < 512 * hi)

/-- Add32 of R329: the sum, with ACCINF (2) and NANOUT (4). -/
def add32 (x : Nat) (y : Fl) : Nat × Nat :=
  let r := F32.round .rne (Fl.add .rne (F32.decode x) y)
  let fin := (F32.decode x).isFinite && y.isFinite
  (r, match F32.decode r with
    | .nan => 4
    | .inf _ => if fin then 2 else 0
    | _ => 0)

/-- A clamped integer fold, with ACCSAT (1). -/
def addSat (x : Nat) (p : Int) : Nat × Nat :=
  let v := signExt x 32 + p
  let c := clampInt v (-(2 ^ 31)) (2 ^ 31 - 1)
  (wrap c 32, if c = v then 0 else 1)

/-! One pass (R323-R326). -/

/-- The operands of a pass. -/
structure PassCtx where
  p : Nat
  sgn : Bool
  akind : Bool
  scen : Bool
  kb : Nat
  /-- the planes of the A tile -/
  a : Array Byte
  /-- the exponent strip of the tile -/
  strip : Array Byte
  /-- weights, element 512 k + n -/
  w : Array (BitVec 16)
  /-- column sums, at 4 n + b -/
  cols : Array (BitVec 24)
  /-- scale records, 320 bytes per column -/
  recs : Array Byte
  el : Elision

def PassCtx.abit (x : PassCtx) (m k j : Nat) : Bool := bitAt (byteNat x.a (4096 * j + 32 * m + k / 8)) (k % 8)
def PassCtx.elem (x : PassCtx) (m k : Nat) : Nat :=
  ((List.range x.p).map fun j => if x.abit m k j then 2 ^ j else 0).sum
def PassCtx.weight (x : PassCtx) (k n : Nat) : Int := signExt (x.w.getD (512 * k + n) 0).toNat 16
def PassCtx.q (x : PassCtx) (n b : Nat) : Nat := if x.scen then byteNat x.recs (320 * n + 4 + 4 * x.kb + b) else 1
def PassCtx.entry (x : PassCtx) (m b : Nat) : Nat := numAt x.strip (2 * (4 * m + b)) 2
def PassCtx.exp (x : PassCtx) (m b : Nat) : Nat := bitsOf (x.entry m b) 0 8
def PassCtx.spc (x : PassCtx) (m b : Nat) : Nat := bitsOf (x.entry m b) 8 2
/-- The first entry of a row that raises NESTBAD (R326). -/
def PassCtx.badEntry (x : PassCtx) (m : Nat) : Option Nat :=
  if x.akind then [0, 1, 2, 3].find? fun b => x.spc m b = 3 || 2 ^ 10 ≤ x.entry m b else none
/-- A BFB16 mantissa that stands for ±∞. -/
def PassCtx.infElem (x : PassCtx) (m k : Nat) : Bool := x.akind && (x.elem m k = 0x7FFF || x.elem m k = 0x8000)
def PassCtx.emax (x : PassCtx) (m : Nat) : Nat := [0, 1, 2, 3].foldl (fun e b => max e (x.exp m b)) 0

/-- t of R325: the sum of plane j over block b, scaled, and for BFB16 shifted and cut towards zero. -/
def PassCtx.blockSum (x : PassCtx) (m n j b : Nat) : Int :=
  let s := ((List.range' (64 * b) 64).map fun k =>
    if x.abit m k j && !x.infElem m k then x.weight k n else 0).sum * (x.q n b : Int)
  if x.akind then
    let d : Int := (x.exp m b : Int) - (x.emax m : Int) + 16
    if 0 ≤ d then s * 2 ^ d.toNat else Int.tdiv s (2 ^ (-d).toNat)
  else s

/-- ColumnSum(W, n, b) of R324, formed when the tile was loaded. -/
def PassCtx.columnSum (x : PassCtx) (n b : Nat) : Int := signExt (x.cols.getD (4 * n + b) 0).toNat 24

/-- CS of plane j: its bits times the weights; the column sums for a plane of ones that is not read; 0 for a zero plane (14 Table 14-2). -/
def PassCtx.planeSum (x : PassCtx) (m n j : Nat) : Int :=
  if x.el.zero.contains j then 0
  else if x.el.ones.contains j then (([0, 1, 2, 3] : List Nat).map fun b => x.columnSum n b * (x.q n b : Int)).sum
  else (([0, 1, 2, 3] : List Nat).map fun b => x.blockSum m n j b).sum

/-- P[n] of R325, exact; of a pass that is not performed, what Table 14-2 folds. -/
def PassCtx.rowSum (x : PassCtx) (m n : Nat) : Int :=
  if x.el.whole then
    (if x.el.ident && n < 256 then (if x.sgn then signExt (x.elem m n) x.p else (x.elem m n : Int)) else 0)
  else
    ((List.range x.p).map fun j => (if x.sgn && j + 1 = x.p then -1 else 1) * 2 ^ j * x.planeSum m n j).sum

/-- sp[n] of R326. -/
def PassCtx.special (x : PassCtx) (m n : Nat) : Option Fl :=
  if !x.akind then none
  else if [0, 1, 2, 3].any fun b => x.spc m b = 2 then some .nan
  else
    let ps := ((List.range 256).filter fun k => x.infElem m k).map fun k =>
      (if x.elem m k = 0x8000 then -1 else 1) * (x.weight k n * (x.q n (k / 64) : Int))
    match ps with
    | [] => none
    | p :: _ =>
      if ps.any (· = 0) then some .nan
      else if ps.any fun r => (r < 0) ≠ (p < 0) then some .nan
      else some (.inf (p < 0))

/-- P × 2^(Emax - 157) × wu as an exact value. -/
def scaleSum (p : Int) (emax : Nat) (l16 : Bool) : Fl :=
  Fl.mul (Fl.ofInt p) (.fin false (2 ^ emax) (2 ^ (157 + if l16 then 14 else 0)))

/-- The exponent strip of the pass (R326). -/
def Nest.stripAddr (n : Nest) : Nat := ((n.exb : Int) + n.aOff / 64).toNat

/-- The operands, from scratchpad, the staging buffer and the array. -/
def Team.passCtx (t : Team) (n : Nest) (el : Elision) : PassCtx :=
  let o := n.tile
  let st := dense (0 : Byte) (131072 + 2048) (if n.chain then t.me.stTile else [])
  let fmt := if n.chain then (match t.me.staging with
    | some g => g.fmt
    | none => 0) else t.fmt n.aAddr
  { p := n.p, sgn := fmt = 0 || fmt = 2 || fmt = 4 || fmt = 11, akind := n.akind, scen := n.scen, kb := t.me.kb,
    a := if n.chain then st.extract (65536 * o) (65536 * o + 65536) else t.spDense n.aAddr (4096 * n.p),
    strip := if !n.akind then #[]
      else if n.chain then st.extract (131072 + 1024 * o) (131072 + 1024 * o + 1024)
      else t.spDense n.stripAddr 1024,
    w := dense 0 131072 t.me.bCur, cols := dense 0 2048 t.me.colCur,
    recs := if n.scen then t.spDense n.sr (320 * 512) else #[], el := el }

/-- The first row from `row` on whose exponent strip entries raise NESTBAD. -/
def Team.badRow (t : Team) (n : Nest) (row : Nat) : Option Nat :=
  if !n.akind then none
  else
    let x := t.passCtx n {}
    (List.range' row (128 - row)).find? fun m => (x.badEntry m).isSome

/-! Elision (14 R352-R355). -/

/-- The poison mark of the staging buffer is that of the accumulator buffer it occupies (R334, R340). -/
def MeState.stagingMark (m : MeState) : Bool :=
  match m.staging with
  | some g => m.accMark g.buf
  | none => false

/-- The first rule of Table 14-2 that is enabled and applies under R353, else what the plane rules leave out. -/
def Team.elide (t : Team) (n : Nest) : Elision :=
  let en (i : Nat) : Bool := n.bit (22 + i)
  let dt (la size : Nat) : List DEntry := (unitsOf 4096 la size).map t.dir
  let planes := if n.chain then [] else (List.range n.p).map fun j => t.dir (n.aAddr / 4096 + j)
  let strips := if n.akind && !n.chain then dt n.stripAddr 1024 else []
  let b := dt n.bAddr (131072 * n.bsize)
  let scales := if n.scen then dt n.sr (320 * 512) else []
  let poison := (planes ++ strips ++ b ++ scales).any (·.poison) || (n.chain && t.me.stagingMark)
  let bSide := !(planes ++ strips).any (·.special) && !(n.chain && n.akind)
  let aSide := !b.any (·.special) && !n.chain
  let having (p : DEntry → Bool) : List Nat := (List.range n.p).filter fun j => (planes[j]?.map p).getD false
  if poison then {}
  else if en 3 && bSide && b.all (·.cls = .zero) then { whole := true }
  else if en 2 && aSide && planes.all (·.cls = .zero) then { whole := true }
  else if en 4 && bSide && b.all (·.cls = .ident) && !n.akind && n.bfmt ≤ 1 && !n.scen then { whole := true, ident := true }
  else if aSide then
    { zero := if en 0 then having fun e => e.cls = .zero else [],
      ones := if en 1 && !n.akind then having fun e => e.cls = .const && e.value = 1 else [] }
  else {}

/-- The planes that a pass reads. -/
def Nest.planesRead (n : Nest) (e : Elision) : List Nat :=
  if e.whole then [] else (List.range n.p).filter fun j => !e.zero.contains j && !e.ones.contains j

/-- Rows `lo … hi - 1` of a pass read a poisoned row, beat or entry (R340). -/
def Team.passPoison (t : Team) (n : Nest) (e : Elision) (lo hi : Nat) : Bool :=
  let strip := n.akind && !n.chain &&
    (if n.planesRead e = [] then t.spMarked n.stripAddr 1024 else t.spMarked (n.stripAddr + 8 * lo) (8 * (hi - lo)))
  if e.whole && !e.ident then strip
  else
    strip || t.me.bMark ||
    (if n.chain then t.me.stagingMark
     else (if e.ident then List.range n.p else n.planesRead e).any fun j =>
       t.spMarked (n.aAddr + 4096 * j + 32 * lo) (32 * (hi - lo))) ||
    (n.scen && (List.range 512).any fun c =>
      t.spMarked (n.sr + 320 * c) 4 || t.spMarked (n.sr + 320 * c + 4 + 4 * t.me.kb) 4)

/-! Loading B (R323, R324). -/

/-- The weights of a B tile as the array holds them (R323). -/
def Team.bTile (t : Team) (addr size : Nat) : SMap (BitVec 16) :=
  let d := t.spDense addr (131072 * size)
  (List.range 131072).filterMap fun i =>
    let w := if size = 1 then BitVec.ofInt 16 (signExt (byteNat d i) 8) else BitVec.ofNat 16 (numAt d (2 * i) 2)
    if w = 0 then none else some (i, w)

/-- The column sums of the weights (R324). -/
def columnSums (w : SMap (BitVec 16)) : SMap (BitVec 24) :=
  let d := dense 0 131072 w
  (List.range 2048).filterMap fun i =>
    let v := ((List.range' (64 * (i % 4)) 64).map fun k => signExt (d.getD (512 * k + i / 4) 0).toNat 16).sum
    if v = 0 then none else some (i, BitVec.ofInt 24 v)

/-- A tile stands in the shadow cells, with its column sums and its poison. -/
def Team.loadShadow (t : Team) (l : MeLoad) : Team :=
  let w := t.bTile l.addr l.size
  t.updMe fun m => { m with bShadow := w, colShadow := columnSums w, shMark := t.spMarked l.addr (131072 * l.size),
                            next := some (l.seq, l.addr), load := none }

/-- The array reloads the running pass's tile and recomputes its column sums (R342, 04 R88). -/
def Team.reloadB (t : Team) : Team :=
  match t.me.work, t.me.cur with
  | some (.nest n), some (seq, addr) =>
    if seq ≠ n.seq then t
    else
      let w := t.bTile addr n.bsize
      t.updMe fun m => { m with bCur := w, colCur := columnSums w, bMark := t.spMarked addr (131072 * n.bsize) }
  | _, _ => t

/-- The shadow cells become current (R323). -/
def MeState.swapB (m : MeState) : MeState :=
  { m with bCur := m.bShadow, colCur := m.colShadow, bMark := m.shMark, cur := m.next, bShadow := [], colShadow := [], shMark := false,
           next := none }

/-! Folds (R328, R329). -/

/-- S(n) of R329 at a record base. -/
def Team.scaleAt (t : Team) (n : Nest) (base : Nat) (c : Nat) : Fl :=
  if n.scen then F32.decode (ofBytes (t.spRead (base + 320 * c) 4)) else .fin false 1 1

/-- The fold of one element (Table 13-1). -/
def Team.foldElem (t : Team) (n : Nest) (x : PassCtx) (m c old : Nat) : Nat × Nat :=
  if n.akind then
    let v := (x.special m c).getD (scaleSum (x.rowSum m c) (x.emax m) (n.bfmt = 2))
    add32 old (Fl.mul (Fl.mul v (t.scaleAt n n.sr c)) (F32.decode (n.get 0x18 4)))
  else addSat old (x.rowSum m c)

/-- Rows of the pass up to `hi` are read and folded (R325-R329, R340); its last result is a row whose entry raises NESTBAD. -/
def Team.foldRows (t : Team) (n : Nest) (hi : Nat) : Team × Nest × Option Nat :=
  let x := t.passCtx n t.me.el
  let bad := (List.range' n.row (hi - n.row)).find? fun m => (x.badEntry m).isSome
  let top := bad.getD hi
  if top ≤ n.row then (t, n, bad)
  else
    let (a, fl) := mapAcc (t.me.acc n.foldBuf) n.row top (t.foldElem n x)
    let poison := t.passPoison n t.me.el n.row top || t.me.accMark n.foldBuf || t.me.accMark n.accb
    (t.updMe fun m => { (m.setAcc n.foldBuf a).setAccMark n.accb poison with
      staging := m.staging.bind fun g => if g.buf = n.foldBuf then none else some g,
      part := if n.hasPart then SMap.insert m.part (1 - n.accb) n.accb else m.part },
     { n with row := top, flags := n.flags ||| fl ||| (if poison then 8 else 0) }, bad)

/-- A boundary of R329 for integer A in F32 chain mode, for the rows up to `hi`; without a record base and with SCEN it changes nothing. -/
def Team.boundaryRows (t : Team) (n : Nest) (hi : Nat) : Team × Nest :=
  let n1 : Nest := { n with row := max n.row hi }
  if n.scen && t.me.srp.isNone then (t, n1)
  else
    let c := n.accb
    let part := dense 0 65536 (t.me.acc (1 - c))
    let wu : Fl := .fin false 1 (if n.bfmt = 2 then 2 ^ 14 else 1)
    let as_ := F32.decode (n.get 0x18 4)
    let (a, fl) := mapAcc (t.me.acc c) n.row hi fun m k old =>
      let v := Fl.ofInt (signExt (part.getD (512 * m + k) 0).toNat 32)
      add32 old (Fl.mul (Fl.mul (Fl.mul v wu) (t.scaleAt n (t.me.srp.getD 0) k)) as_)
    (t.updMe fun m => ((m.setAcc c a).setAcc (1 - c) (zeroRows (m.acc (1 - c)) n.row hi)).setAccMark c (m.accMark c || m.accMark (1 - c)),
     { n1 with flags := n.flags ||| fl })

/-- A fault in a running nest (R341). -/
def State.nestFault (s : State) (slot : Nat) (t : Team) (n : Nest) (c : Cause) (operand field addr row : Nat) : State :=
  (s.setTeam slot (t.setWork (some (.nest { n with row := row })))).raise slot
    { cause := c, eng := 2, operand := operand, field := field, pc := n.pc, addr := BitVec.ofNat 64 addr, seq := n.seq,
      idx := n.idx, row := row }

/-! Drains (R332-R334). -/

/-- w of Table 13-5. -/
def Nest.drainValue (n : Nest) (v : Fl) : Fl :=
  match n.dop with
  | 0 => v
  | 1 => Fl.max v (.fin false 0 1)
  | 2 => Fl.min (Fl.max v (F32.decode (n.get 0x24 4))) (F32.decode (n.get 0x28 4))
  | _ => Fl.add .rne (Fl.mul v (F32.decode (n.get 0x1C 4))) (Fl.ofInt (signExt (n.get 0x20 4) 32))

/-- The format a drain converts to: an integer type, or a floating format. -/
inductive DrainTo where
  | int (t : IntTy)
  | flt (f : FFmt)
deriving DecidableEq, Repr

def DrainTo.conv (d : DrainTo) (pol : Nat) (v : Fl) : Conv :=
  match d with
  | .int t => t.convert .rne pol v
  | .flt f => f.convert .rne pol v

/-- Flags of a converted element: OOB (16) and NANOUT (4). -/
def DrainTo.flags (d : DrainTo) (c : Conv) : Nat :=
  let nan (x : Nat) : Nat := match d with
    | .flt f => if (f.decode x).isNaN then 4 else 0
    | .int _ => 0
  match c with
  | .val x => nan x
  | .sat _ => 16
  | .inf x => 16 ||| nan x
  | .trap => 0

/-- Elements converted in order until one traps: patterns, joined flags, CONVSAT, CONVINF, whether it trapped. -/
structure DrainOut where
  xs : List Nat := []
  flags : Nat := 0
  sat : Bool := false
  inf : Bool := false
  trap : Bool := false
deriving DecidableEq, Repr

def drainElems (d : DrainTo) (pol : Nat) : List Fl → DrainOut
  | [] => {}
  | v :: r =>
    let c := d.conv pol v
    let put (x : Nat) (sat inf : Bool) : DrainOut :=
      let o := drainElems d pol r
      { o with xs := x :: o.xs, flags := o.flags ||| d.flags c, sat := o.sat || sat, inf := o.inf || inf }
    match c with
    | .trap => { trap := true }
    | .val x => put x false false
    | .sat x => put x true false
    | .inf x => put x false true

/-- The elements that a drain reads in rows `row … hi - 1`, in order m, then n. -/
def Team.drainIn (t : Team) (n : Nest) (hi : Nat) : List Fl :=
  let a := dense 0 65536 (t.me.acc n.accb)
  (List.range' (512 * n.row) (512 * (hi - n.row))).map fun i =>
    let x := (a.getD i 0).toNat
    n.drainValue (if n.amode then F32.decode x else Fl.ofInt (signExt x 32))

/-- Bytes of elements of `w` bits; a lone first nibble leaves the other one as it stands. -/
def packRun (w old : Nat) (xs : List Nat) : List Byte :=
  if w = 4 then
    (chunksOf 2 xs.length xs).map fun p =>
      match p with
      | [a, b] => BitVec.ofNat 8 (a % 16 + 16 * (b % 16))
      | _ => BitVec.ofNat 8 (p.headD 0 % 16 + old / 16 * 16)
  else xs.flatMap (toBytes (w / 8))

/-- A row-major C: the run of bytes from row `row` on (R333). -/
def Team.drainRows (t : Team) (c row w : Nat) (xs : List Nat) (poison : Bool) : List SpWrite :=
  let base := c + 512 * row * w / 8
  [{ la := base, bs := packRun w (t.spByte (base + xs.length / 2)).toNat xs, poison := poison }]

/-- One plane of one A tile of 128 × 256 elements taken from a 512-column array: the bytes, from the first of row `row` on, that elements
`xs` from that row on reach; the other bits of a byte stay as they stand in `old`. -/
def planeBytes (old : Array Byte) (xs : Array Nat) (row h j : Nat) : List (Nat × Byte) :=
  ((List.range' (32 * row) (32 * ((xs.size + 511) / 512))).filterMap fun i =>
    let e (b : Nat) : Nat := 512 * (i / 32 - row) + 256 * h + 8 * (i % 32) + b
    let set (b : Nat) : Bool := e b < xs.size
    if set 0 then
      some (i, BitVec.ofNat 8 ((List.range 8).map fun b =>
        (if (if set b then bitAt (xs.getD (e b) 0) j else bitAt (byteNat old i) b) then 2 ^ b else 0)).sum)
    else none)

/-- A bit-plane C (R333). -/
def Team.drainPlanes (t : Team) (c p row : Nat) (xs : List Nat) (poison : Bool) : List SpWrite :=
  let a := xs.toArray
  [0, 1].flatMap fun h => (List.range p).flatMap fun j =>
    let base := c + 4096 * p * h + 4096 * j
    let l := planeBytes (t.spDense base 4096) a row h j
    match l with
    | [] => []
    | (i, _) :: _ => [{ la := base + i, bs := l.map (·.2), poison := poison }]

/-- The staging tiles after a CHOUT drain has written elements from row `row` on (R334). -/
def stagingRows (st : SMap Byte) (fmt planes row : Nat) (xs : List Nat) : SMap Byte :=
  let put (st : SMap Byte) (base : Nat) (l : List (Nat × Byte)) : SMap Byte :=
    match l with
    | [] => st
    | (i, _) :: _ => SMap.putRun 0 st (base + i) (l.map (·.2))
  let tiles (st : SMap Byte) (a : Array Nat) (p : Nat) : SMap Byte :=
    let old := dense 0 131072 st
    ((List.range (2 * p)).foldl fun st k =>
      let base := 65536 * (k / p) + 4096 * (k % p)
      put st base (planeBytes (old.extract base (base + 4096)) a row (k / p) (k % p))) st
  if fmt = 11 then
    let blocks := ((chunksOf 64 (xs.length / 64) xs).filter fun b => b.length = 64).map toBFB16
    let st1 := tiles st (blocks.flatMap (·.1)).toArray 16
    blocks.zipIdx.foldl (fun st p =>
      let e := p.1.2.2 * 256 + p.1.2.1
      SMap.putRun 0 st (131072 + 1024 * (p.2 % 8 / 4) + 2 * (4 * (row + p.2 / 8) + p.2 % 4)) (toBytes 2 e)) st1
  else tiles st xs.toArray planes

/-- What a drain converts to, with the destination (R332-R334). -/
def Team.drainTo (t : Team) (n : Nest) (c : Nat) : DrainTo :=
  if n.chout then
    if n.cfmt = 11 then .flt BF16 else .int ⟨n.cplanes, ((fmtInt n.cfmt).map (·.sgn)).getD true⟩
  else
    let f := t.fmt c
    match fmtFloat f with
    | some g => .flt g
    | none =>
      let ty := (fmtInt f).getD ⟨8, true⟩
      if t.layout c = 1 then .int ⟨t.planes c, ty.sgn⟩ else .int ty

/-- A number for the drain under way: each drain covers dtiles by itself (14 R348). -/
def Nest.drainId (n : Nest) : Nat := n.idx.foldl (fun a i => 65536 * a + i) (64 * n.seq + n.todo.length)

/-- Rows of a drain up to `hi` are written (R332-R334, R340); its last results are the elements written and whether the next one trapped:
the elements before it are written (R178, R341). -/
def Team.drainUpTo (t : Team) (slot : Nat) (n : Nest) (c hi : Nat) : Team × Nest × Nat × Bool :=
  let marked := t.me.accMark n.accb
  let out : DrainOut :=
    if marked then { xs := List.replicate (512 * (hi - n.row)) 0 } else drainElems (t.drainTo n c) n.pol (t.drainIn n hi)
  let t1 :=
    if n.chout then
      t.updMe fun m => { m with stTile := stagingRows (if n.row = 0 then [] else m.stTile) n.cfmt n.cplanes n.row out.xs }
    else
      t.spJob (t.jobKey slot .me n.drainId) (if t.layout c = 1 then t.drainPlanes c (t.planes c) n.row out.xs marked
        else t.drainRows c n.row (fmtBits (t.fmt c)) out.xs marked)
  (t1.flagConv out.sat out.inf, { n with row := hi, flags := n.flags ||| out.flags ||| (if marked then 8 else 0) }, out.xs.length, out.trap)

/-- A drain has written its last row: buffer c is zero, PART too, and the staging buffer FULL (R332, R334, R340) (log 28). -/
def Team.drainEnd (t : Team) (n : Nest) (free : Nat) : Team :=
  let other := 1 - n.accb
  let marked := t.me.accMark n.accb
  let clear (m : MeState) : MeState :=
    let m1 := { ((m.setAcc n.accb []).setAccMark n.accb false) with srp := none }
    if n.hasPart then { (m1.setAcc other []).setAccMark other false with part := SMap.erase m1.part other } else m1
  let fill (m : MeState) : MeState :=
    if n.chout then
      { (m.setAcc other (((List.range 65536).map fun i => (i, Config.stagingElem free i)).filter fun p => p.2 ≠ 0)).setAccMark other marked with
        staging := some ⟨other, n.cfmt, n.cplanes⟩ }
    else m
  t.updMe fun m => fill (clear m)

/-! Completion (R336, R337, 06 R125, R132, R135). -/

/-- Fire a completion object: a channel's advance waits for an empty slot P; a barrier takes an arrival when `arrive` holds,
bytes having been counted as they landed. -/
def Team.fireCo (t : Team) (co : Nat) (arrive : Bool) : Option Team :=
  if co = 0 then some t
  else if co ≤ 0x10 then
    match t.chanDecl (co - 1) with
    | none => some t
    | some d =>
      let ch := t.chan (co - 1)
      if ch.shown.contains ch.p then none else some (t.setChan (co - 1) (ch.produce d.slots 1))
  else
    match t.barDecl (co - 0x20) with
    | none => some t
    | some d => some (if arrive then t.barArrive d else t)

/-- A completed nest or job fires: when it completes, or in its named cycle, or in the cycle after it has completed if that is later
(06 R125, R126). -/
def mayFire (named : Option Nat) (doneAt cycle : Nat) : Bool :=
  match named with
  | some c => decide (max c (doneAt + 1) ≤ cycle)
  | none => true

/-- The completed nests at the head fire in issue order. -/
def Team.fireNests : Nat → Team → Team
  | 0, t => t
  | k + 1, t =>
    match t.me.queue with
    | .nest n :: r =>
      if n.done && mayFire n.named n.doneAt t.cycle then
        match t.fireCo n.co true with
        | some t1 => Team.fireNests k { t1 with me := { t1.me with queue := r } }
        | none => t
      else t
    | _ => t

/-- The status word (Table 13-7). -/
def Nest.statusWord (n : Nest) (cycle : Nat) : List Byte :=
  toBytes 4 n.seq ++ toBytes 2 n.flags ++ toBytes 2 (min n.elpass 65535) ++ toBytes 4 (min n.elplane (2 ^ 32 - 1)) ++
  toBytes 4 (min (cycle - n.issued) (2 ^ 32 - 1))

/-- The nest writes its status word, completes and fires (R336, R337). -/
def Team.nestEnd (t : Team) (n : Nest) : Team :=
  let t1 := (t.spStore n.stb (n.statusWord t.cycle)).setWork (some (.nest { n with done := true, doneAt := t.cycle }))
  t1.fireNests t1.me.queue.length

/-! The cycles of the ME (R338, R457). -/

/-- The pass of nest `n` is under way: not the boundary that comes before it. -/
def MeState.inPass (m : MeState) (n : Nest) : Bool :=
  m.begun && n.todo.head? = some .pass && !(n.hasPart && n.needsBoundary m)

def MeState.start (m : MeState) (dur row : Nat) : MeState := { m with begun := true, at_ := 0, dur := dur, row0 := row }

/-- The cycles of a pass from row `row` on (Table 13-8, 14 Table 14-2); a row whose entry raises NESTBAD ends it (log 9). -/
def Nest.passCycles (n : Nest) (e : Elision) (row : Nat) (bad : Option Nat) : Nat :=
  let g := (n.planesRead e).length
  if e.ident then 128
  else if g = 0 then (if n.akind then 16 else max 4 (4 * e.ones.length))
  else
    match bad with
    | some m => 4 * e.ones.length + g * (m - row) + 1
    | none => 4 * e.ones.length + g * (128 - row)

/-- The pass begins: the shadow cells become current when they hold its tile, the chain state is brought up to date (R328), the entries
are read (14 R352). -/
def Team.passBegin (t : Team) (n : Nest) : Team :=
  let key := some (n.seq, n.bAddr)
  if t.me.cur ≠ key ∧ t.me.next ≠ key then t
  else
    let m1 := if t.me.cur = key then t.me else t.me.swapB
    let m2 := if n.needsBoundary m1 then { m1 with srp := some n.sr, kb := 0 } else m1
    let t2 := { t with me := m2 }
    let e0 := t2.elide n
    let e : Elision := { e0 with single := n.planesRead e0 = [] }
    t2.updMe fun m => { m.start (n.passCycles e n.row (t2.badRow n n.row)) n.row with el := e }

/-- The banks that a drain of the rows from `row` on writes, and the beats in each. -/
def Team.drainBanks (t : Team) (n : Nest) (c : Nat) : List (Nat × Nat) :=
  if n.chout then []
  else if t.layout c = 1 then
    let dts := (List.range (2 * t.planes c)).map fun k => bankOf (c + 4096 * k)
    dts.eraseDups.map fun b => (b, (dts.filter (· = b)).length * (64 - n.row / 2))
  else
    let w := fmtBits (t.fmt c)
    let bs := beatsOf [(c + 512 * n.row * w / 8, 512 * (128 - n.row) * w / 8)]
    bs.eraseDups.map fun b => (b, (bs.filter (· = b)).length)

/-- The cycles of a drain from its row on (Table 13-8): at least until its last beat (R457) (log 9). -/
def Team.drainCycles (t : Team) (n : Nest) (c : Nat) : Nat :=
  let left := 128 - n.row
  ((t.drainBanks n c).map (·.2)).foldl max ((if !n.chout && t.layout c = 1 then 4 else 2) * left)

/-- The array begins its next step, when there is one that can begin (R338). -/
def Team.meBegin (t : Team) : Team :=
  if t.me.begun then t
  else
    match t.me.work with
    | none => t
    | some (.clear _ row) | some (.drop row) => t.updMe fun m => m.start (128 - row) row
    | some (.nest n) =>
      if !n.valid then t
      else
        match n.todo.head? with
        | none => t.updMe fun m => m.start 1 0
        | some .pass => if n.hasPart && n.needsBoundary t.me then t.updMe fun m => m.start (128 - n.row) n.row else t.passBegin n
        | some .boundary => t.updMe fun m => m.start (128 - n.row) n.row
        | some (.drain c) => t.updMe fun m => m.start (t.drainCycles n c) n.row
        | some .next => t

/-- Nests meet: the B tile of the later one and the range that the drains of the earlier one span (log 9). -/
def Team.tileWaits (t : Team) (n n2 : Nest) : Bool :=
  let s := n.span n.cs
  n.usesC && ((n.cbase : Int) + s.1 < (n2.bAddr + 131072 * n2.bsize : Nat) && (n2.bAddr : Int) < n.cbase + s.2 + t.cTile n.cbase)

/-- The B load that may begin (Table 13-8): the tile of the pass to come, once the pass before it has begun (log 9). -/
def Team.loadWanted (t : Team) : Option MeLoad :=
  let m := t.me
  let want (n : Nest) (kb : Nat) : Option MeLoad :=
    if m.cur = some (n.seq, n.bAddr) || m.next = some (n.seq, n.bAddr) then none
    else some { seq := n.seq, addr := n.bAddr, size := n.bsize,
                scale := if n.scen then some (n.sr, if m.srp = some n.sr && kb < 64 then kb else 0) else none }
  let nests := m.queue.filterMap fun i => match i with
    | .nest n => if n.done then none else some n
    | _ => none
  match nests with
  | [] => none
  | n :: r =>
    let mine : Bool := match m.work with
      | some (.nest k) => k.seq = n.seq
      | _ => false
    if !n.valid then none
    else if n.todo.head? = some .pass && !(mine && m.inPass n) then want n m.kb
    else
      let kb := if n.todo.head? = some .pass then m.kb + 1 else m.kb
      match if n.todo = [] then none else nextIdx n.idx (levels.map n.count) with
      | some ix => if ({ n with idx := ix } : Nest).bAddr = n.bAddr then none else want { n with idx := ix } kb
      | none =>
        match r with
        | n2 :: _ => if n2.valid && !t.tileWaits n n2 then want n2 kb else none
        | [] => none

/-- The banks whose beats the array step takes in its next cycle (log 9). -/
def Team.stepBeats (t : Team) : List Nat :=
  let i := t.me.at_
  match t.me.work with
  | some (.nest n) =>
    match n.todo.head? with
    | none => [bankOf n.stb]
    | some .pass =>
      if !t.me.inPass n ∨ n.chain then []
      else
        let gs := n.planesRead t.me.el
        let o := 4 * t.me.el.ones.length
        if gs = [] then (if n.akind && i < 16 then [bankOf (n.stripAddr + 64 * i)] else [])
        else if i < o then []
        else
          let m := t.me.row0 + (i - o) / gs.length
          let k := (i - o) % gs.length
          (if m % 2 = 0 then [bankOf (n.aAddr + 4096 * gs.getD k 0 + 32 * m)] else []) ++
          (if n.akind && k = 0 && m % 8 = 0 then [bankOf (n.stripAddr + 8 * m)] else [])
    | some (.drain c) => ((t.drainBanks { n with row := t.me.row0 } c).filter fun p => i < p.2).map (·.1)
    | _ => []
  | _ => []

/-- The banks whose beats a load of `n` bytes of a weight takes in cycle `i`. -/
def tileBeats (addr size i : Nat) : List Nat := (List.range size).map fun k => bankOf (addr + 131072 * k + 64 * i)

/-- The banks whose beats the B load takes in its next cycle. -/
def MeLoad.beats (l : MeLoad) : List Nat :=
  tileBeats l.addr l.size l.cyc ++
  (match l.scale with
   | none => []
   | some (sr, kb) =>
     if l.cyc < 512 then [bankOf (sr + 320 * l.cyc)]
     else if l.cyc < 1024 ∧ 15 ≤ kb then [bankOf (sr + 320 * (l.cyc - 512) + 4 + 4 * kb)]
     else [])

/-- Validation of the nests not yet validated goes on, from the cycle after the MGO. -/
def MeItem.validating (cycle : Nat) : MeItem → MeItem
  | .nest n => if n.valid || cycle ≤ n.issued then .nest n else .nest { n with vcyc := n.vcyc + 1 }
  | i => i

/-- One cycle of the ME's part of a switch: the reload takes its beats (R457). -/
def Team.holdTick (t : Team) (k : Nat) : Team :=
  let beats := match t.me.work, t.me.cur with
    | some (.nest n), some (seq, addr) => if seq = n.seq then tileBeats addr n.bsize (2048 - k) else []
    | _, _ => []
  if beats.any t.ports.contains then t
  else { t.updMe fun m => { m with hold := some (k - 1) } with ports := setUnion beats t.ports }

/-- One cycle of the ME beside its words.  A step or load a beat of which finds its bank taken goes on in the next cycle; the ME's own
beats of one cycle do not delay one another (log 9). -/
def Team.meTick (t : Team) : Team :=
  let t0 := match t.me.nld with
    | some (c, b) => if c = t.cycle then { t.updMe fun m => { m with nld := none } with ports := setInsert b t.ports } else t
    | none => t
  match t0.me.hold with
  | some 0 => t0
  | some (k + 1) => t0.holdTick (k + 1)
  | none =>
    let t1 := (t0.updMe fun m => { m with queue := m.queue.map (·.validating t.cycle) }).meBegin
    let t2 := t1.updMe fun m => { m with load := m.load.orElse fun _ => t1.loadWanted }
    let sb := if t2.me.begun && t2.me.at_ < t2.me.dur then t2.stepBeats else []
    let lb := match t2.me.load with
      | some l => if l.cyc < 2048 then l.beats else []
      | none => []
    let free (bs : List Nat) : Bool := !bs.any t2.ports.contains
    let m1 := if t2.me.begun && t2.me.at_ < t2.me.dur && free sb then { t2.me with at_ := t2.me.at_ + 1 } else t2.me
    let m2 := if free lb then { m1 with load := m1.load.map fun l => { l with cyc := min 2048 (l.cyc + 1) } } else m1
    { t2 with me := m2, ports := setUnion ((if free sb then sb else []) ++ (if free lb then lb else [])) t2.ports }

/-- The first row that the step under way has not finished. -/
def Team.rowsReached (t : Team) (n : Nest) : Nat :=
  let m := t.me
  if m.dur ≤ m.at_ then 128
  else
    match n.todo.head? with
    | some .pass =>
      if !m.inPass n then m.row0 + m.at_
      else if m.el.single then m.row0
      else m.row0 + (m.at_ - 4 * m.el.ones.length) / (n.planesRead m.el).length
    | some .boundary => m.row0 + m.at_
    | some (.drain _) => m.row0 + m.at_ * (128 - m.row0) / m.dur
    | _ => 0

/-- What is due in the ME after its cycle. -/
inductive MeDue where
  /-- the ME's part of a switch ends -/
  | switch
  /-- a nest has been validated -/
  | validated
  /-- a B load ends -/
  | load
  /-- rows of the step under way have been finished -/
  | rows
  /-- the pass, boundary, drain, nest or clear ends -/
  | pass | boundary | drain | nest | clear | drop
deriving DecidableEq, Repr

/-- Validation of a nest has taken its 8 cycles. -/
def MeItem.checked : MeItem → Bool
  | .nest n => !n.valid && 8 ≤ n.vcyc
  | _ => false

/-- What the array step under way has come to. -/
def Team.stepDue (t : Team) : Option MeDue :=
  let m := t.me
  let fin : Bool := m.dur ≤ m.at_
  match m.work with
  | none => none
  | some (.clear _ row) => if fin then some .clear else if row < m.row0 + m.at_ then some .rows else none
  | some (.drop row) => if fin then some .drop else if row < m.row0 + m.at_ then some .rows else none
  | some (.nest n) =>
    if !fin then (if n.row < t.rowsReached n then some .rows else none)
    else
      match n.todo.head? with
      | none => some .nest
      | some .pass => if m.inPass n then some .pass else some .boundary
      | some .boundary => some .boundary
      | some (.drain _) => some .drain
      | some .next => none

def Team.meDue (t : Team) : Option MeDue :=
  match t.me.hold with
  | some k => if k = 0 then some .switch else none
  | none =>
    match if t.me.begun then t.stepDue else none with
    | some d => some d
    | none =>
      if t.me.queue.any (·.checked) then some .validated
      else
        match t.me.load with
        | some l => if l.cyc = 2048 then some .load else none
        | none => none

/-- The first nest whose validation has ended may run. -/
def validateFirst : List MeItem → List MeItem
  | [] => []
  | .nest n :: r => if !n.valid && 8 ≤ n.vcyc then .nest { n with valid := true, todo := n.plan } :: r else .nest n :: validateFirst r
  | i :: r => i :: validateFirst r

/-- The step under way has ended. -/
def MeState.stop (m : MeState) : MeState := { m with begun := false, at_ := 0, dur := 0, el := {} }

/-- The pass goes on to row `hi`; `fin` says that it ends there. -/
def State.passTo (s : State) (slot : Nat) (t : Team) (n : Nest) (hi : Nat) (fin : Bool) : State :=
  let (t1, n1, bad) := t.foldRows n hi
  match bad with
  | some m =>
    s.nestFault slot t1 n1 .nestbad 5 6 (n.stripAddr + 2 * (4 * m + ((t.passCtx n {}).badEntry m).getD 0)) m
  | none =>
    if !fin then s.setTeam slot (t1.setWork (some (.nest n1)))
    else
      let e := t.me.el
      let n2 : Nest := { n1.pop with
        elpass := n1.elpass + (if e.whole then 1 else 0), elplane := n1.elplane + e.zero.length + e.ones.length }
      s.setTeam slot ((t1.setWork (some (.nest n2))).updMe fun m => { m.stop with kb := m.kb + 1 })

/-- The boundary goes on to row `hi` (R328, R329). -/
def State.boundaryTo (s : State) (slot : Nat) (t : Team) (n : Nest) (hi : Nat) (fin : Bool) : State :=
  let (t1, n1) := t.boundaryRows n hi
  if !fin then s.setTeam slot (t1.setWork (some (.nest n1)))
  else if n.todo.head? = some .boundary then s.setTeam slot ((t1.setWork (some (.nest n1.pop))).updMe MeState.stop)
  else
    s.setTeam slot ((t1.setWork (some (.nest { n1 with row := 0 }))).updMe fun m => { m.stop with srp := some n.sr, kb := 0 })

/-- The drain goes on to row `hi` (R332-R334, R341). -/
def State.drainTo (s : State) (slot : Nat) (t : Team) (n : Nest) (c hi : Nat) (fin : Bool) : State :=
  let (t1, n1, k, trap) := t.drainUpTo slot n c hi
  if trap then
    let e := 512 * n.row + k
    let addr := if n.chout then 0
      else if t.layout c = 1 then c + 4096 * t.planes c * (e % 512 / 256) + 32 * (e / 512) + e % 256 / 8
      else c + e * fmtBits (t.fmt c) / 8
    s.nestFault slot t1 n1 .convtrap 3 0xFF addr (e / 512)
  else if !fin then s.setTeam slot (t1.setWork (some (.nest n1)))
  else
    { (s.setTeam slot (((t1.drainEnd n s.free).setWork (some (.nest n1.pop))).updMe MeState.stop)) with
      free := if n.chout then s.free + 1 else s.free }

/-- Rows of both buffers that a clear names, up to `hi`, are zero. -/
def MeState.clearRows (m : MeState) (mask lo hi : Nat) : MeState :=
  let clr (m : MeState) (c : Nat) : MeState := if bitAt mask c then m.setAcc c (zeroRows (m.acc c) lo hi) else m
  clr (clr m 0) 1

/-- MCLR has cleared its buffers: unmarked, the chain and staging state in them dropped (R343, R328, R334) (log 28). -/
def MeState.mclrEnd (m : MeState) (mask : Nat) : MeState :=
  let clr (m : MeState) (c : Nat) : MeState :=
    if bitAt mask c then { (m.setAcc c []).setAccMark c false with part := SMap.erase m.part c } else m
  let m1 := { clr (clr m 0) 1 with srp := none }
  match m1.staging with
  | some g => if bitAt mask g.buf then { m1 with staging := none, stTile := [] } else m1
  | none => m1

/-- MDRAIN has cleared the staging buffer: EMPTY, its mark gone with it (R343, R334) (log 28). -/
def MeState.mdrainEnd (m : MeState) : MeState :=
  match m.staging with
  | some g => { (m.setAcc g.buf []).setAccMark g.buf false with staging := none, stTile := [] }
  | none => m

/-- What is due takes place. -/
def State.meAct (s : State) (slot : Nat) (t : Team) (d : MeDue) : State :=
  let set (u : Team) : State := s.setTeam slot u
  match d, t.me.work with
  | .switch, _ => set (t.reloadB.updMe fun m => { m with hold := none })
  | .validated, _ => set (t.updMe fun m => { m with queue := validateFirst m.queue })
  | .load, _ =>
    match t.me.load with
    | some l => set (t.loadShadow l)
    | none => s
  | .rows, some (.clear mask row) =>
    let hi := t.me.row0 + t.me.at_
    set ((t.updMe fun m => m.clearRows mask row hi).setWork (some (.clear mask hi)))
  | .rows, some (.drop row) =>
    let hi := t.me.row0 + t.me.at_
    let mask := match t.me.staging with
      | some g => 2 ^ g.buf
      | none => 0
    set ((t.updMe fun m => m.clearRows mask row hi).setWork (some (.drop hi)))
  | .rows, some (.nest n) =>
    match n.todo.head? with
    | some .pass => if t.me.inPass n then s.passTo slot t n (t.rowsReached n) false else s.boundaryTo slot t n (t.rowsReached n) false
    | some .boundary => s.boundaryTo slot t n (t.rowsReached n) false
    | some (.drain c) => s.drainTo slot t n c (t.rowsReached n) false
    | _ => s
  | .pass, some (.nest n) => s.passTo slot t n 128 true
  | .boundary, some (.nest n) => s.boundaryTo slot t n 128 true
  | .drain, some (.nest n) =>
    match n.todo.head? with
    | some (.drain c) => s.drainTo slot t n c 128 true
    | _ => s
  | .nest, some (.nest n) => set ((t.updMe MeState.stop).nestEnd n)
  | .clear, some (.clear mask _) => set ((t.setWork none).updMe fun m => m.stop.mclrEnd mask)
  | .drop, some (.drop _) => set ((t.setWork none).updMe fun m => m.stop.mdrainEnd)
  | _, _ => s

/-- What is due in team `n`, while its nests may advance (17 R398, 06 R127). -/
def State.meNow (s : State) (n : Nat) : Option (Team × MeDue) :=
  match s.team? n with
  | none => none
  | some t => if s.advancing n && !t.faulted .me then t.meDue.map fun d => (t, d) else none

/-- What the ME of team `n` has to do in this cycle, first of what is due. -/
def State.jobsDue (s : State) (n : Nat) : Option State := (s.meNow n).map fun p => s.meAct n p.1 p.2

/-- The ME's and the VE's cycle beside their words (R338, 06 R130) (log 9). -/
def State.portTicks (s : State) (n : Nat) : State :=
  match s.team? n with
  | none => s
  | some t =>
    if !s.advancing n then s
    else s.setTeam n ((if t.faulted .me then t else t.meTick).veTick)

/-- An event of the ME: what it names takes place if it is due. -/
def State.meEvent (s : State) (n : Nat) (d : MeDue) : Out :=
  s.event fun s =>
    match s.meNow n with
    | some (t, k) => if k = d then s.meAct n t d else s
    | none => s

/-- ME_SWITCH_DONE (04 R88): 2,048 cycles after the halt the incoming team's nests may advance, the running pass's tile reloaded. -/
def execMeSwitchDone (core : Nat) (s : State) : Out :=
  match (s.core core).issuing with
  | some slot => s.meEvent slot .switch
  | none => s.event fun s => s
/-- NEST_VALIDATED (R335, R338). -/
def execNestValidated (slot : Nat) (s : State) : Out := s.meEvent slot .validated
/-- ME_B_LOAD_DONE (R323, R324, R338): the tile stands in the shadow cells, its column sums with it. -/
def execMeBLoadDone (slot : Nat) (s : State) : Out := s.meEvent slot .load
/-- ME_PASS_DONE (R325-R329, R340, R352). -/
def execMePassDone (slot : Nat) (s : State) : Out := s.meEvent slot .pass
/-- ME_BOUNDARY_DONE (R328, R329). -/
def execMeBoundaryDone (slot : Nat) (s : State) : Out := s.meEvent slot .boundary
/-- ME_DRAIN_DONE (R332-R334, R340). -/
def execMeDrainDone (slot : Nat) (s : State) : Out := s.meEvent slot .drain
/-- NEST_COMPLETE (R336, R337). -/
def execNestComplete (slot : Nat) (s : State) : Out := s.meEvent slot .nest
/-- MCLR_CLEAR (R343, R328, R334). -/
def execMclrClear (slot : Nat) (s : State) : Out := s.meEvent slot .clear
/-- MDRAIN_CLEAR (R343, R334). -/
def execMdrainClear (slot : Nat) (s : State) : Out := s.meEvent slot .drop

end Sys2Proof.Machine
end

