-- ==== Sys2Proof/Machine/Tu.lean ====
section
/-!
DEFINITION. Sys2Proof/Machine/Tu.lean: the words of the transfer units (11 R262-R281, 07 R153, R154): the descriptor shadow, the
control words, and the checks of a go-word (Table 11-7).  What a job does once started is in TuJobs.
-/
namespace Sys2Proof.Machine

/-! The transfer descriptor (Table 11-4). -/

/-- The field of number F. -/
def xferField (n : Nat) : Option DescField :=
  match n with
  | 0 => some ⟨0x00, 8, 57⟩ | 1 => some ⟨0x08, 8, 57⟩ | 2 => some ⟨0x10, 8, 57⟩
  | 3 => some ⟨0x18, 3, 24⟩ | 4 => some ⟨0x1B, 3, 24⟩ | 5 => some ⟨0x1E, 3, 24⟩
  | 6 => some ⟨0x21, 3, 24⟩ | 7 => some ⟨0x24, 3, 24⟩ | 8 => some ⟨0x27, 3, 24⟩
  | 9 => some ⟨0x2A, 6, 48⟩
  | _ => if 17 < n then none else some ⟨0x30 + 2 * (n - 10), 2, 16⟩

/-- A descriptor, as its number. -/
abbrev Xfer := Nat
def Xfer.get (d : Xfer) (off size : Nat) : Nat := bitsOf d (8 * off) (8 * size)
def Xfer.src (d : Xfer) : Nat := Xfer.get d 0x00 8
def Xfer.dst (d : Xfer) : Nat := Xfer.get d 0x08 8
def Xfer.aux (d : Xfer) : Nat := Xfer.get d 0x10 8
def Xfer.sstr (d : Xfer) (i : Nat) : Int := signExt (Xfer.get d (0x18 + 3 * (i - 1)) 3) 24
def Xfer.dstr (d : Xfer) (i : Nat) : Int := signExt (Xfer.get d (0x21 + 3 * (i - 1)) 3) 24
def Xfer.ctl (d : Xfer) : Nat := Xfer.get d 0x2A 6
def Xfer.bit (d : Xfer) (i : Nat) : Bool := bitAt (Xfer.ctl d) i
/-- Iterations of source and destination levels. -/
def Xfer.scnt (d : Xfer) (i : Nat) : Nat := Xfer.get d (0x30 + 2 * i) 2 + 1
def Xfer.dcnt (d : Xfer) (i : Nat) : Nat := Xfer.get d (0x38 + 2 * i) 2 + 1
def Xfer.sfmt (d : Xfer) : Nat := bitsOf (Xfer.ctl d) 0 4
def Xfer.dfmt (d : Xfer) : Nat := bitsOf (Xfer.ctl d) 4 4
def Xfer.skind (d : Xfer) : Nat := bitsOf (Xfer.ctl d) 8 2
def Xfer.dkind (d : Xfer) : Nat := bitsOf (Xfer.ctl d) 10 2
def Xfer.conv (d : Xfer) : Bool := Xfer.bit d 12
def Xfer.pol (d : Xfer) : Nat := bitsOf (Xfer.ctl d) 13 2
def Xfer.delta (d : Xfer) : Bool := Xfer.bit d 15
def Xfer.view (d : Xfer) : Bool := Xfer.bit d 16
def Xfer.rbv (d : Xfer) : Bool := Xfer.bit d 17
def Xfer.rbar (d : Xfer) : Nat := bitsOf (Xfer.ctl d) 18 5
def Xfer.refmt (d : Xfer) : Bool := Xfer.bit d 23
/-- The value that REFMT gives the bank's format register (Table 11-5). -/
def Xfer.newFmt (d : Xfer) : Nat :=
  bitsOf (Xfer.ctl d) 33 4 * 2 ^ 18 + bitsOf (Xfer.ctl d) 29 4 * 2 ^ 10 + bitsOf (Xfer.ctl d) 25 4 * 2 ^ 6 +
  bitsOf (Xfer.ctl d) 24 1 * 2 ^ 4 + Xfer.dfmt d

/-- A valid bank format value (R256). -/
def fmtValid (v : Nat) : Bool :=
  let fmt := bitsOf v 0 4
  let lay := bitsOf v 4 2
  let planes := bitsOf v 6 4
  let rows := bitsOf v 10 8
  let cols := bitsOf v 18 8
  fmt ≤ 13 && lay ≤ 1 &&
  (if lay = 1 then
     (fmt ≤ 5 || fmt = 11) && rows = 7 && cols = 8 && planes + 1 ≤ fmtBits fmt && (fmt ≠ 11 || planes = 15)
   else planes = 0 && rows ≤ 8 && cols ≤ 9 && ((fmt ≠ 12 && fmt ≠ 13) || (rows = 0 && cols = 0)))

/-! The two sides of a job (R263, R265). -/

/-- A side: counts of the four levels, strides in bytes, element format (RAW under CONV = 0), planes of a bit-plane bank
or 0. -/
structure Side where
  mem : Bool
  base : Nat
  cnt : List Nat
  str : List Int
  fmt : Nat
  planes : Nat
deriving DecidableEq, Repr

def Side.bits (d : Side) : Nat := fmtBits d.fmt
/-- Nibbles of an element. -/
def Side.nib (d : Side) : Nat := d.bits / 4
def Side.count (d : Side) : Nat := d.cnt.foldl (· * ·) 1
/-- Level indices of element n; the last level takes what is left. -/
def Side.idx (d : Side) (n : Nat) : List Nat :=
  let c (i : Nat) : Nat := d.cnt.getD i 1
  [n % c 0, n / c 0 % c 1, n / c 0 / c 1 % c 2, n / c 0 / c 1 / c 2]
/-- Addr of R263 in nibbles: a local address modulo 2^23 bytes, a virtual one modulo 2^57. -/
def Side.addr2 (d : Side) (n : Nat) : Nat :=
  let i := d.idx n
  let a : Int := 2 * (d.base : Int) + (i.getD 0 0 * d.nib : Nat) +
    2 * ((i.getD 1 0 : Nat) * d.str.getD 0 0 + (i.getD 2 0 : Nat) * d.str.getD 1 0 + (i.getD 3 0 : Nat) * d.str.getD 2 0)
  (a % (2 ^ (if d.mem then 58 else 24))).toNat
/-- Byte address of element n. -/
def Side.addr (d : Side) (n : Nat) : Nat := d.addr2 n / 2
/-- Bytes of a run of level 0. -/
def Side.runBytes (d : Side) : Nat := (d.cnt.getD 0 1 * d.nib + 1) / 2
/-- Byte addresses of the runs. -/
def Side.runs (d : Side) : List Nat :=
  (List.range (d.count / d.cnt.getD 0 1)).map fun j => d.addr (j * d.cnt.getD 0 1)
/-- First byte of tile t of a bit-plane side. -/
def Side.tile (d : Side) (t : Nat) : Nat := (((d.base : Int) + t * d.str.getD 0 0) % 2 ^ 23).toNat

/-- The side's local bytes, as ranges. -/
def Side.ranges (d : Side) : List (Nat × Nat) :=
  if d.planes ≠ 0 then (List.range (d.cnt.getD 1 1)).map fun t => (d.tile t, 4096 * d.planes)
  else d.runs.map fun a => (a, d.runBytes)

/-- A side of a job: a memory side takes the descriptor's format, a local one that of its bank, as the go-word read it. -/
def mkSide (mem conv : Bool) (base : Nat) (cnt : List Nat) (str : List Int) (code fv : Nat) : Side :=
  let fmt := if !conv then 13 else if mem then code else bitsOf fv 0 4
  { mem := mem, base := base % 2 ^ (if mem then 57 else 23), cnt := cnt, str := str, fmt := fmt,
    planes := if conv && !mem && bitsOf fv 4 2 = 1 then bitsOf fv 6 4 + 1 else 0 }

def TuJob.d (j : TuJob) : Xfer := j.desc.toNat
def TuJob.srcSide (j : TuJob) : Side :=
  mkSide (Xfer.skind j.d = 0) (Xfer.conv j.d) (Xfer.src j.d) ((List.range 4).map (Xfer.scnt j.d))
    ([1, 2, 3].map (Xfer.sstr j.d)) (Xfer.sfmt j.d) j.sfv
/-- XDEC's elements are L16 (R282). -/
def TuJob.dstSide (j : TuJob) : Side :=
  mkSide (Xfer.dkind j.d = 0) (Xfer.conv j.d || j.kind = .xdec) (Xfer.dst j.d) ((List.range 4).map (Xfer.dcnt j.d))
    ([1, 2, 3].map (Xfer.dstr j.d)) (Xfer.dfmt j.d) j.dfv

/-- The handle of a view (Table 11-6). -/
def TuJob.handle (j : TuJob) : DWord :=
  BitVec.ofNat 64 (match j.kind with
    | .xmc => bitsOf (Xfer.aux j.d) 16 32
    | .xgath => bitsOf (Xfer.aux j.d) 23 32
    | .gshift => bitsOf (Xfer.aux j.d) 19 32
    | _ => bitsOf (Xfer.aux j.d) 0 32)

/-- A job with a memory side (06 R126): its late landing freezes the cluster. -/
def TuJob.memSide (j : TuJob) : Bool :=
  match j.kind with
  | .xgo | .xscat | .xgath => Xfer.skind j.d = 0 || Xfer.dkind j.d = 0
  | .xmc | .xdec | .gfetch | .gpool | .gshift | .lpop | .lpeek => true
  | .xconv | .xpushr | .gdone => false

/-! Gangs (02 R43, R44). -/

/-- The slot of the gang member with a GANGIX, and the team. -/
def State.member (s : State) (t : Team) (ix : Nat) : Option (Nat × Team) :=
  match t.gang[ix]? with
  | none => none
  | some n => ((s.team? n).filter fun u => u.tid = t.tid).map fun u => (n, u)

/-- The member of the gang resident on a core. -/
def State.memberOn (s : State) (t : Team) (core : Nat) : Option (Nat × Team) :=
  match t.gang.find? fun n => coreOfSlot n = core with
  | none => none
  | some n => ((s.team? n).filter fun u => u.tid = t.tid).map fun u => (n, u)

/-- The die of a core or gather core (01 R15). -/
def dieOf (core : Nat) : Nat := if core < 64 then core / 16 else (core - 64) / 4

/-- The team belongs to a CLUSTER gang: a CLUSTER field encloses the GANG field. -/
def Team.clusterGang (t : Team) : Bool :=
  match t.k.lattr.findIdx? (· = 3) with
  | none => false
  | some i => (t.k.lattr.take i).contains 2

/-- Cores that a multicast or window mask names. -/
def TuJob.coreMask (j : TuJob) (core : Nat) : List Nat :=
  if j.kind = .xmc then
    ((List.range 16).filter fun i => bitAt (Xfer.aux j.d) i).map fun i => 16 * dieOf core + i
  else ((List.range 4).filter fun i => bitAt (Xfer.aux j.d) i).map fun i => 4 * (core / 4) + i

/-- Slots of the teams in whose scratchpad a job writes, other than a push. -/
def State.jobTargets (s : State) (n : Nat) (t : Team) (j : TuJob) : List Nat :=
  if j.kind = .xmc || Xfer.dkind j.d = 2 then
    (j.coreMask (coreOfSlot n)).filterMap fun c => (s.memberOn t c).map (·.1)
  else if Xfer.dkind j.d = 1 then [n] else []

/-! The checks of Table 11-7.  A failure has a cause, a field, an operand and an address. -/

def xferBad (f : Nat) : Option NestFail := some { cause := .xferbad, field := f }

/-- The kinds that Table 11-6 allows a word, and its options: CONV, VIEW, DELTA, REFMT, RBV. -/
def JobKind.allows (k : JobKind) : List Nat × List Nat × List Nat :=
  match k with
  | .xgo => ([0, 1], [0, 1, 2], [12, 16])
  | .xmc => ([0], [1], [12, 16, 17])
  | .xconv => ([1], [1], [12, 23])
  | .xgath => ([0], [1], [12, 16])
  | .xscat => ([1], [0], [12, 15])
  | .xpushr => ([1], [1], [12])
  | _ => ([0], [1], [])

/-- AUX bits that a word uses. -/
def TuJob.auxUsed (j : TuJob) : Nat :=
  let v := Xfer.view j.d
  match j.kind with
  | .xgo => (if v then 2 ^ 32 - 1 else 0) ||| (if Xfer.dkind j.d = 2 then 15 else 0)
  | .xmc => 0xFFFF + (if v then (2 ^ 32 - 1) * 2 ^ 16 else 0)
  | .xconv => if bitsOf j.dfv 0 4 = 11 then 2 ^ 23 - 1 else 0
  | .xdec => 2 ^ 23 - 1
  | .xgath => 2 ^ 23 - 1 + (if v then (2 ^ 32 - 1) * 2 ^ 23 else 0)
  | .xscat => if Xfer.delta j.d then 2 ^ 57 - 1 else 0
  | .xpushr => 0xFF
  | _ => 0

/-- The channel that a push names in another member of the gang, declared for that member's kind with RPUSH (R277). -/
def Team.pushDecl (t : Team) (n ix ch : Nat) : Option ChanDecl :=
  match t.gang[ix]?, t.k.chans[ch]? with
  | some m, some d => if m = n || !d.rpush || !(if 1024 ≤ m then d.gt else d.ct) then none else some d
  | _, _ => none

/-- Target of a push that is still there: the member, its slot number and the channel's declaration. -/
def State.pushTarget (s : State) (n : Nat) (t : Team) (ix ch : Nat) : Option (Nat × Team × ChanDecl) :=
  match s.member t ix, t.pushDecl n ix ch with
  | some (m, u), some d => some (m, u, d)
  | _, _ => none

/-- The format value of the bank that holds a push's slots; that of the bank table for a member that has gone. -/
def State.pushFmt (s : State) (n : Nat) (t : Team) (ix ch : Nat) : Nat :=
  match s.pushTarget n t ix ch, t.pushDecl n ix ch with
  | some (_, u, d), _ => u.fmtReg (d.base / 0x20000)
  | none, some d =>
    let off := if t.k.kind = 2 && 1024 ≤ t.gang.getD ix 0 then t.k.nbank else 0
    (t.k.banks.getD (off + d.base / 0x20000) 0).toNat
  | none, none => 0

/-- Check 1: reserved bits, kinds, options and AUX. -/
def State.xferCheck1 (s : State) (n : Nat) (t : Team) (j : TuJob) : Option NestFail :=
  let d := j.d
  let (sk, dk, opts) := j.kind.allows
  let slotOff := j.kind = .xpushr
  let badOpt (i w : Nat) : Bool := !opts.contains i && bitsOf (Xfer.ctl d) i w ≠ 0
  if Xfer.ctl d / 2 ^ 37 ≠ 0 || !sk.contains (Xfer.skind d) || !dk.contains (Xfer.dkind d) then xferBad 9
  else if badOpt 12 1 || badOpt 15 1 || badOpt 16 1 || badOpt 17 6 || badOpt 23 14 then xferBad 9
  else if (j.kind = .xconv && !Xfer.conv d) || (Xfer.conv d && Xfer.dkind d = 2) || (Xfer.view d && Xfer.skind d ≠ 0) then xferBad 9
  else if (Xfer.skind d = 0 && 13 < Xfer.sfmt d) || ((Xfer.dkind d = 0 || Xfer.refmt d) && 13 < Xfer.dfmt d) then xferBad 9
  else if Xfer.delta d && !(2 ≤ Xfer.dfmt d && Xfer.dfmt d ≤ 6) then xferBad 9
  else if j.kind = .xdec && Xfer.sfmt d ≠ 13 then xferBad 9
  else if Xfer.src d / 2 ^ (if Xfer.skind d = 0 then 57 else 23) ≠ 0 then xferBad 0
  else if Xfer.dst d / 2 ^ (if Xfer.dkind d = 0 && !slotOff then 57 else 23) ≠ 0 then xferBad 1
  else if Xfer.aux d - (Xfer.aux d &&& j.auxUsed) ≠ 0 then xferBad 2
  else if j.kind = .xgath || j.kind = .xdec then
    -- levels that XGATH and XDEC do not have (R275, R282)
    let lv := if j.kind = .xgath then [2, 3] else [1, 2, 3]
    match lv.find? fun i => Xfer.scnt d i ≠ 1 || Xfer.sstr d i ≠ 0 with
    | some i => xferBad (if Xfer.scnt d i ≠ 1 then 10 + i else 2 + i)
    | none => none
  else if j.kind = .xpushr then
    if (t.pushDecl n (bitsOf (Xfer.aux d) 0 4) (bitsOf (Xfer.aux d) 4 4)).isNone then xferBad 2 else none
  else if j.kind = .xmc || Xfer.dkind d = 2 then
    let cs := j.coreMask (coreOfSlot n)
    if Xfer.dkind d = 2 && (Xfer.skind d ≠ 1 || !t.clusterGang) then xferBad 2
    else if cs.any fun c => (s.memberOn t c).isNone then xferBad 2
    else if Xfer.rbv d && (s.jobTargets n t j).any fun m =>
        match s.team? m with
        | some u => (u.barDecl (Xfer.rbar d)).isNone
        | none => true then xferBad 9
    else none
  else none

/-- Check 2: element counts. -/
def TuJob.check2 (j : TuJob) : Option NestFail :=
  let a := j.srcSide
  let b := j.dstSide
  if j.kind ≠ .xdec && a.count ≠ b.count then xferBad 10
  else if a.bits = 4 && a.cnt.getD 0 1 % 2 ≠ 0 then xferBad 10
  else if b.bits = 4 && b.cnt.getD 0 1 % 2 ≠ 0 then xferBad 14
  else none

def alignBad (operand addr : Nat) : Option NestFail :=
  some { cause := .align, field := 0xFF, operand := operand, addr := addr }

/-- Whether a base or stride of a side is misaligned. -/
def Side.misaligned (d : Side) : Bool :=
  if d.planes ≠ 0 then d.base % 4096 ≠ 0
  else
    let e := max 1 (d.bits / 8)
    d.base % e ≠ 0 || d.str.any fun x => x % e ≠ 0

/-- Check 3: alignment. -/
def TuJob.check3 (j : TuJob) : Option NestFail :=
  let d := j.d
  let z := fmtBits (Xfer.dfmt d) / 8
  if j.srcSide.misaligned then alignBad 7 (Xfer.src d)
  else if j.kind = .xdec && Xfer.src d % 64 ≠ 0 then alignBad 7 (Xfer.src d)
  else if j.dstSide.misaligned then alignBad 8 (Xfer.dst d)
  else if Xfer.delta d && !Xfer.conv d &&
      (Xfer.dst d % z ≠ 0 || ([1, 2, 3].any fun i => Xfer.dstr d i % z ≠ 0) || Xfer.dcnt d 0 % z ≠ 0) then alignBad 8 (Xfer.dst d)
  else if Xfer.delta d && Xfer.aux d % 2 ≠ 0 then alignBad 9 (Xfer.aux d)
  else if j.kind = .xgath && Xfer.aux d % 2 ^ 23 % 4 ≠ 0 then alignBad 9 (Xfer.aux d % 2 ^ 23)
  else if j.kind = .xdec && Xfer.aux d % 64 ≠ 0 then alignBad 9 (Xfer.aux d)
  else none

/-- The strip that the job writes: base and bytes (R265, R284). -/
def TuJob.strip (j : TuJob) : Option (Nat × Nat) :=
  if j.kind = .xdec then some (Xfer.aux j.d % 2 ^ 23, 320 * Xfer.scnt j.d 0 + 16)
  else if j.dstSide.fmt = 11 then some (if j.kind = .xconv then Xfer.aux j.d % 2 ^ 23 else 0, 1024 * j.dstSide.cnt.getD 1 1)
  else none

/-- Ranges of local bytes lie inside the bank range. -/
def Team.rangesIn (t : Team) (l : List (Nat × Nat)) : Bool :=
  t.spEnd = 2 ^ 23 || l.all fun r => r.1 + r.2 ≤ t.spEnd

def spoobAt (operand addr : Nat) : Option NestFail := some { cause := .spoob, field := 0xFF, operand := operand, addr := addr }

/-- Check 4: bank ranges, of the teams that the job reads and writes. -/
def State.xferCheck4 (s : State) (n : Nat) (t : Team) (j : TuJob) : Option NestFail :=
  let a := j.srcSide
  let b := j.dstSide
  let outside : Bool := (s.jobTargets n t j).any fun m => match s.team? m with
    | some u => !u.rangesIn b.ranges
    | none => false
  if !a.mem && !t.rangesIn a.ranges then spoobAt 7 a.base
  else if j.kind = .xpushr then
    match t.pushDecl n (bitsOf (Xfer.aux j.d) 0 4) (bitsOf (Xfer.aux j.d) 4 4) with
    | some d => if b.ranges.all fun r => r.1 + r.2 ≤ d.slotBytes then none else xferBad 1
    | none => none
  else if outside then spoobAt 8 b.base
  else if j.kind = .xgath && !t.rangesIn [(Xfer.aux j.d % 2 ^ 23, 4 * Xfer.scnt j.d 1)] then spoobAt 9 (Xfer.aux j.d % 2 ^ 23)
  else
    match j.strip with
    | some (la, k) => if t.rangesIn [(la, k)] then none else spoobAt 9 la
    | none => none

/-- The format values of the banks that ranges touch. -/
def Team.fmtsOf (t : Team) (l : List (Nat × Nat)) : List Nat :=
  ((l.flatMap fun r => unitsOf 0x20000 r.1 r.2).eraseDups).map t.fmtReg

def oneValue (l : List Nat) : Bool := l.all (· = l.headD 0)

/-- Table 11-3 for the formats of two sides. -/
def convAllowed (a b : Nat) : Bool :=
  let num (f : Nat) : Bool := (fmtInt f).isSome || (fmtFloat f).isSome
  if b = 11 then a = 7 else num a && num b

/-- Check 5: banks and the pair of formats. -/
def State.xferCheck5 (s : State) (n : Nat) (t : Team) (j : TuJob) : Option NestFail :=
  let a := j.srcSide
  let b := j.dstSide
  -- R265; a BFB16 tile has 16 planes of 4,096 bytes in either layout
  let tiles (d : Side) : Bool :=
    (d.planes = 0 && d.fmt ≠ 11) || (d.cnt.getD 0 1 = 32768 && d.cnt.getD 2 1 = 1 && d.cnt.getD 3 1 = 1 &&
      d.str.getD 0 0 % 4096 = 0 && (4096 * (if d.planes = 0 then 16 else d.planes) : Int) ≤ d.str.getD 0 0)
  let vals : List Nat := (s.jobTargets n t j).flatMap fun m => match s.team? m with
    | some u => u.fmtsOf b.ranges
    | none => []
  let pushVals : List Nat :=
    if j.kind = .xpushr then
      match s.pushTarget n t (bitsOf (Xfer.aux j.d) 0 4) (bitsOf (Xfer.aux j.d) 4 4) with
      | some (_, u, d) => u.fmtsOf [(d.base, d.slots * d.slotBytes)]
      | none => []
    else []
  if !a.mem && !oneValue (t.fmtsOf a.ranges) then xferBad 0
  else if Xfer.refmt j.d && ((b.ranges.flatMap fun r => unitsOf 0x20000 r.1 r.2).eraseDups.length ≠ 1 || !fmtValid j.dfv) then
    xferBad 9
  else if !Xfer.refmt j.d && !oneValue (vals ++ pushVals) then xferBad 1
  else if Xfer.conv j.d && !convAllowed a.fmt b.fmt then xferBad 9
  else if !tiles a then xferBad 10
  else if !tiles b then xferBad 14
  else if j.kind = .xdec && (bitsOf j.dfv 0 4 ≠ 10 || bitsOf j.dfv 4 2 ≠ 0) then xferBad 1
  else
    match j.strip with
    | some r =>
      if (t.fmtsOf [r]).all fun v => bitsOf v 0 4 = (if j.kind = .xdec then 13 else 12) then none else xferBad 2
    | none => none

/-- The first check that fails (R264) (log 29). -/
def State.xferCheck (s : State) (n : Nat) (t : Team) (j : TuJob) : Option NestFail :=
  match s.xferCheck1 n t j with
  | some f => some f
  | none => [j.check2, j.check3, s.xferCheck4 n t j, s.xferCheck5 n t j].findSome? id

/-! Words. -/

/-- The stream that issues: TU0, TU1 or GQ. -/
def State.stream (s : State) : Engine :=
  match s.sel.eng with
  | .tu0 => .tu0
  | .tu1 => .tu1
  | _ => .gq

/-- XLD (R270). -/
def execXld (a : BitVec 17) (s : State) : Out :=
  s.onTeam fun n t =>
    let la := 64 * a.toNat
    if t.spEnd < la + 64 then s.trap n t s.stream .spoob 10 la 0
    else s.setTeam n ((t.updTu s.stream fun u => { u with shadow := BitVec.ofNat 512 (ofBytes (t.spRead la 64)) }).step2 s.stream)

/-- XSET (R271, 07 R153). -/
def execXset (f : BitVec 6) (p : BitVec 2) (v : BitVec 19) (s : State) : Out :=
  s.onTeam fun n t =>
    match (xferField f.toNat).bind fun d => d.put (t.tu s.stream).shadow.toNat (19 * p.toNat) 19 v.toNat with
    | none => s.illop n t s.stream
    | some d => s.setTeam n ((t.updTu s.stream fun u => { u with shadow := BitVec.ofNat 512 d }).step s.stream)

/-- Jobs outstanding: not yet completed (R266). -/
def TuState.outstanding (u : TuState) : Nat := (u.jobs.filter (!·.done)).length

/-- XWAIT (R281). -/
def execXwait (k : BitVec 3) (s : State) : Out :=
  s.onTeam fun n t => if k.toNat < (t.tu s.stream).outstanding then s else s.setTeam n (t.step s.stream)

/-- XLOOP (R281, 09 R196). -/
def execXloop (c : BitVec 11) (l : BitVec 16) (s : State) : Out :=
  s.onTeam fun n t => s.loopWord n t s.stream (c.toNat + 1) l.toNat

/-- Records of LPOPs of loops that have been left are dropped (12 R312) (log 40). -/
def Team.trimPops (t : Team) : Team :=
  let k := t.gq.ctl.loops.length
  { t with gq := { t.gq with iterPops := t.gq.iterPops.filter fun p => p.1 ≤ k, iterEnd := t.gq.iterEnd.filter (· ≤ k) } }

/-- XJMP (R281, 09 R195, R197). -/
def execXjmp (o : BitVec 27) (s : State) : Out :=
  s.onTeam fun n t => (s.jumpWord n t s.stream o.toInt).updTeam n Team.trimPops

/-- XEND (R281). -/
def execXend (s : State) : Out := s.onTeam fun n t => s.endStream n t s.stream

/-- XSWPT (R281, 06 R137). -/
def execXswpt (p : BitVec 8) (s : State) : Out := s.onTeam fun n t => s.swptWord n t s.stream p.toNat

/-- XWAITB (R281, 06 R136). -/
def execXwaitb (b : BitVec 5) (p t' : BitVec 1) (s : State) : Out := s.onTeam fun n t => s.waitb n t s.stream b p t'

/-- A job from the shadow, numbered by the stream's go-words. -/
def Team.newJob (t : Team) (e : Engine) (k : JobKind) (co : BitVec 8) (d : BitVec 16) : TuJob :=
  let u := t.tu e
  { kind := k, desc := u.shadow, co := co.toNat, named := if d = 0 then none else some (t.cycle + 16 * d.toNat),
    pc := u.ctl.pc, seq := (u.count + 1) % 2 ^ 32, ent := 0, issued := t.cycle }

/-- A go-word (R264, R272): the completion object, the limit of eight jobs, then the checks. -/
def State.startJob (s : State) (n : Nat) (t : Team) (e : Engine) (j : TuJob) (fail : Option NestFail) : State :=
  match t.coFault j.co with
  | some c => s.trap n t e c 0 0 0
  | none =>
    if 8 ≤ (t.tu e).outstanding then s
    else
      match fail with
      | some f =>
        s.raise n { cause := f.cause, eng := e.num, operand := f.operand, field := f.field, pc := j.pc,
                    addr := BitVec.ofNat 64 f.addr, seq := j.seq }
      | none =>
        s.setTeam n ((t.updTu e fun u => { u with jobs := u.jobs ++ [j], count := u.count + 1 }).step e)

/-- The formats of the sides, as the go-word reads them (R259, R274). -/
def State.withFmts (s : State) (n : Nat) (t : Team) (j : TuJob) : TuJob :=
  let la (a : Nat) : Nat := t.fmtReg (a % 2 ^ 23 / 0x20000)
  let dv :=
    if Xfer.refmt j.d then Xfer.newFmt j.d
    else if j.kind = .xpushr then s.pushFmt n t (bitsOf (Xfer.aux j.d) 0 4) (bitsOf (Xfer.aux j.d) 4 4)
    else
      match (s.jobTargets n t j).head? with
      | some m => (match s.team? m with
          | some u => u.fmtReg (Xfer.dst j.d % 2 ^ 23 / 0x20000)
          | none => 0)
      | none => la (Xfer.dst j.d)
  { j with sfv := la (Xfer.src j.d), dfv := dv }

/-- A job word of Table 11-6. -/
def State.xferWord (s : State) (k : JobKind) (o : BitVec 8) (d : BitVec 16) : Out :=
  s.onTeam fun n t =>
    let j := s.withFmts n t (t.newJob s.stream k o d)
    s.startJob n t s.stream j (s.xferCheck n t j)

/-- XGO (R273, R280). -/
def execXgo (o : BitVec 8) (d : BitVec 16) (s : State) : Out := s.xferWord .xgo o d
/-- XMC (R278, R279). -/
def execXmc (o : BitVec 8) (d : BitVec 16) (s : State) : Out := s.xferWord .xmc o d
/-- XCONV (R274). -/
def execXconv (o : BitVec 8) (d : BitVec 16) (s : State) : Out := s.xferWord .xconv o d
/-- XDEC (R282). -/
def execXdec (o : BitVec 8) (d : BitVec 16) (s : State) : Out := s.xferWord .xdec o d
/-- XGATH (R275). -/
def execXgath (o : BitVec 8) (d : BitVec 16) (s : State) : Out := s.xferWord .xgath o d
/-- XSCAT (R276). -/
def execXscat (o : BitVec 8) (d : BitVec 16) (s : State) : Out := s.xferWord .xscat o d
/-- XPUSHR (R277). -/
def execXpushr (o : BitVec 8) (d : BitVec 16) (s : State) : Out := s.xferWord .xpushr o d

end Sys2Proof.Machine
end

