-- ==== Sys2Proof/Machine/Admit.lean ====
section
/-!
DEFINITION. Sys2Proof/Machine/Admit.lean: reading and validating a description at admission (02 R21-R45, 03 R73, R76): the task
record, the footprint card, the launch header and its tables, the kernel translation table's image (05 R107, R108).  Each
check yields the (structure, offset) pairs of Table 2-1; the least is the one reported (R23).
-/
namespace Sys2Proof.Machine

/-- The field of `n` bytes at offset `o`. -/
def fieldAt (b : List Byte) (o n : Nat) : Nat := ofBytes ((b.drop o).take n)

/-- One entry when a rule is broken. -/
def errIf (c : Bool) (st off : Nat) : List (Nat × Nat) := if c then [(st, off)] else []

/-- The lowest structure, then the lowest offset (R23) (log 25). -/
def leastErr : List (Nat × Nat) → Option (Nat × Nat)
  | [] => none
  | e :: r =>
    match leastErr r with
    | none => some e
    | some f => if f.1 < e.1 ∨ (f.1 = e.1 ∧ f.2 < e.2) then some f else some e

/-- The value of Table 2-1 (log 25). -/
def rejectValue (e : Nat × Nat) : DWord := BitVec.ofNat 64 (0x01000000 + e.1 * 2 ^ 20 + e.2 % 2 ^ 16)

/-! The task record (R24-R26, 03 R73, R76). -/

/-- Rules of Table 2-2 that a record breaks.  `tsub`: TSUB wrote it (R26) (log 25). -/
def recordErrs (r : List Byte) (tsub : Bool) : List (Nat × Nat) :=
  let f := fieldAt r
  let typ := f 1 1
  let fl := f 2 2
  let op := f 0x28 1
  errIf (2 ≤ f 0 1) 0 0 ++ errIf (typ = 0 || 8 < typ) 0 1 ++
  errIf (64 ≤ fl || (bitAt fl 1 && typ ≠ 1) || (bitAt fl 5 && !tsub)) 0 2 ++
  errIf ((7 ≤ typ && f 8 8 ≠ 0) || (typ ≤ 6 && f 8 8 = 0) || (typ = 1 && f 8 8 % 256 ≠ 0)) 0 8 ++
  errIf (f 0x10 8 % 8 ≠ 0) 0 0x10 ++ errIf (f 0x24 4 ≠ 0) 0 0x24 ++
  (if typ = 7 then errIf (f 0x29 3 ≠ 0 || op = 0 || 5 < op) 0 0x28
   else if typ = 8 then
     errIf (2 ^ 12 ≤ f 0x2C 4 || f 0x29 3 ≠ 0 || op = 0 || 2 < op) 0 0x28 ++
     errIf (f 0x34 4 ≠ 0 || (op = 1 && (f 0x30 4 = 0 || 2 ^ 31 < f 0x30 4))) 0 0x30
   else errIf (f 0x28 8 ≠ 0) 0 0x28 ++ errIf (f 0x30 8 ≠ 0) 0 0x30) ++
  errIf (!bitAt fl 5 && f 0x38 4 ≠ 0) 0 0x38 ++ errIf (!bitAt fl 5 && f 0x3C 2 ≠ 0) 0 0x3C ++
  errIf (f 0x3E 2 ≠ 0) 0 0x3E

/-! The footprint card (R27). -/

/-- Region `i` of a card's entries. -/
def footRegion (b : List Byte) (i : Nat) : Region :=
  let span := fieldAt b (16 * i + 8) 8
  { base := fieldAt b (16 * i) 8, len := bitsOf span 0 48, r := bitAt span 63, w := bitAt span 62 }

/-- Rules that region `i` breaks (log 25). -/
def regionErrs (b : List Byte) (i : Nat) : List (Nat × Nat) :=
  let g := footRegion b i
  let span := fieldAt b (16 * i + 8) 8
  errIf (2 ^ 57 ≤ g.base) 2 (0x08 + 16 * i) ++
  errIf ((!g.r && !g.w) || g.len = 0 || 2 ^ 57 < g.base + g.len || bitsOf span 48 14 ≠ 0) 2 (0x10 + 16 * i)

/-- The card: its rules broken, and its regions in order. -/
def readFoot (asid va : Nat) : StateM State (List (Nat × Nat) × List Region) := do
  if va = 0 then pure ([], [])
  else
    match ← virtM asid va 8 with
    | none | some (_, true) => pure ([(0, 0x10)], [])
    | some (h, false) =>
      let cnt := fieldAt h 0 1
      let n := if 8 < cnt then 0 else cnt
      let e0 := errIf (8 < cnt) 2 0 ++
        (match (List.range' 1 7).find? fun o => fieldAt h o 1 ≠ 0 with
         | some o => [(2, o)]
         | none => [])
      match ← virtM asid (va + 8) (16 * n) with
      | none | some (_, true) => pure ((0, 0x10) :: e0, [])
      | some (b, false) => pure (e0 ++ (List.range n).flatMap (regionErrs b), (List.range n).map (footRegion b))

/-! The launch header (R29-R32, R41, R43, R44). -/

/-- The sections that each KIND runs (R30). -/
def kindSections : Nat → List Nat
  | 0 => [0, 1, 2, 3, 4]
  | 1 => [0, 3, 4, 5]
  | _ => [0, 1, 2, 3, 4, 5]

/-- The header's own fields. -/
def headerKernel (h : List Byte) : Kernel :=
  let f := fieldAt h
  { kind := bitsOf (f 2 2) 0 2, hnd := bitAt (f 2 2) 2, kernid := BitVec.ofNat 32 (f 4 4), code := f 8 8,
    sect := (List.range 6).map fun i => (f (0x10 + 8 * i) 4, f (0x14 + 8 * i) 4),
    width := (List.range 6).map fun i => f (0x40 + i) 1,
    lattr := (List.range 6).map fun i => bitsOf (f 0x46 2) (2 * i) 2,
    ext := (List.range 6).map fun i => f (0x48 + 4 * i) 4 + 1,
    vregs := f 0x60 1, nbank := f 0x61 1, gnbank := f 0x67 1, nvar := f 0x65 1, nswpt := f 0x66 1, handler := f 0x68 4 }

/-- Teams of the kernel (R41). -/
def Kernel.teams (k : Kernel) : Nat := k.ext.foldl (· * ·) 1

/-- Teams of one gang (R44); 1 without a GANG field. -/
def Kernel.gangSize (k : Kernel) : Nat :=
  match k.lattr.findIdx? (· = 3) with
  | none => 1
  | some i => (k.ext.drop i).foldl (· * ·) 1

/-- A CLUSTER field encloses the GANG field (R44). -/
def Kernel.clusterGang (k : Kernel) : Bool :=
  match k.lattr.findIdx? (· = 3) with
  | none => false
  | some i => (k.lattr.take i).contains 2

/-- The first index whose running sum of `f` passes `lim`. -/
def sumPasses (f : Nat → Nat) (lim : Nat) : Nat → Nat → Nat → Option Nat
  | 0, _, _ => none
  | n + 1, i, acc => if lim < acc + f i then some i else sumPasses f lim n (i + 1) (acc + f i)

/-- Rules that the SECT entries break (R30, R31).  Of two sections that overlap, both break the rule (log 25). -/
def sectErrs (k : Kernel) : List (Nat × Nat) :=
  let off (i : Nat) : Nat := (k.sect.getD i (0, 0)).1
  let size (i : Nat) : Nat := (k.sect.getD i (0, 0)).2
  let gsize (i : Nat) : Nat := if [0, 3, 4, 5].contains i then size i else 0
  let bad (i : Nat) : Bool :=
    off i % 128 ≠ 0 || size i % 4 ≠ 0 || 0x20000 < size i || (size i ≠ 0 && !(kindSections k.kind).contains i) ||
    (i = 0 && size i < 4) ||
    (size i ≠ 0 && (List.range 6).any fun j => j ≠ i && size j ≠ 0 && off i < off j + size j && off j < off i + size i)
  (List.range 6).flatMap (fun i => errIf (bad i) 1 (0x10 + 8 * i)) ++
  (match sumPasses size 0x80000 6 0 0 with
   | some i => [(1, 0x10 + 8 * i)]
   | none => []) ++
  (if k.kind = 1 ∨ k.kind = 2 then
     match sumPasses gsize 0x40000 6 0 0 with
     | some i => [(1, 0x10 + 8 * i)]
     | none => []
   else [])

/-- Rules of the work identifier that the header breaks (R41, R43, R44). -/
def workErrs (k : Kernel) : List (Nat × Nat) :=
  let w (i : Nat) : Nat := k.width.getD i 0
  let e (i : Nat) : Nat := k.ext.getD i 1
  let count (i : Nat) : Nat := (k.ext.take (i + 1)).foldl (· * ·) 1
  let gangs := (k.lattr.filter (· = 3)).length
  (List.range 6).flatMap (fun i =>
    errIf (32 < w i || 64 < (k.width.take (i + 1)).sum) 1 (0x40 + i) ++
    errIf (2 ^ w i < e i || 2 ^ 32 < count i) 1 (0x48 + 4 * i)) ++
  errIf (((List.range 6).any fun i => w i = 0 && k.lattr.getD i 0 ≠ 0) || 1 < gangs || (k.kind = 2 && gangs ≠ 1) ||
         (k.kind = 1 && k.lattr.contains 2) || 16 < k.gangSize || (k.clusterGang && (4 < k.gangSize || k.kind = 2))) 1 0x46

/-- Entries of the five tables, in the order of their address fields. -/
def Kernel.tableCounts (k : Kernel) (h : List Byte) : List Nat :=
  [k.nbank + k.gnbank, fieldAt h 0x62 1, fieldAt h 0x63 1, fieldAt h 0x64 1, k.nswpt]

/-- Rules that a launch header breaks (R29-R32, R41, R44) (log 25). -/
def headerErrs (h : List Byte) (k : Kernel) : List (Nat × Nat) :=
  let f := fieldAt h
  errIf (f 0 2 ≠ 1) 1 0 ++ errIf (k.kind = 3 || 8 ≤ f 2 2) 1 2 ++ errIf (k.code % 4096 ≠ 0) 1 8 ++
  sectErrs k ++ workErrs k ++ errIf (2 ^ 12 ≤ f 0x46 2) 1 0x46 ++
  errIf (if k.kind = 1 then k.vregs ≠ 0 else !([32, 64, 128] : List Nat).contains k.vregs) 1 0x60 ++
  errIf (k.nbank = 0 || (if k.kind = 1 then 16 else 64) < k.nbank) 1 0x61 ++
  errIf (16 < f 0x62 1) 1 0x62 ++ errIf (32 < f 0x63 1) 1 0x63 ++ errIf (8 < f 0x64 1) 1 0x64 ++
  errIf (k.nvar = 0 || 3 < k.nvar) 1 0x65 ++ errIf (16 < k.nswpt) 1 0x66 ++
  errIf (if k.kind = 2 then k.gnbank = 0 || 16 < k.gnbank else k.gnbank ≠ 0) 1 0x67 ++
  errIf (if k.hnd then (k.sect.getD 0 (0, 0)).2 / 4 ≤ k.handler else k.handler ≠ 0) 1 0x68 ++
  errIf (f 0x6C 4 ≠ 0) 1 0x6C ++ errIf (f 0x98 104 ≠ 0) 1 0x98 ++
  ((k.tableCounts h).zipIdx.flatMap fun c =>
    let a := f (0x70 + 8 * c.2) 8
    errIf (if c.1 = 0 then a ≠ 0 else a = 0 || a % 64 ≠ 0) 1 (0x70 + 8 * c.2))

/-! The tables (R33-R39). -/

/-- End of the bank range of the kind of team: gather or compute. -/
def Kernel.range (k : Kernel) (gather : Bool) : Nat :=
  0x20000 * (if gather then (if k.kind = 1 then k.nbank else k.gnbank) else k.nbank)

/-- The kinds of team of a KIND, gather or not. -/
def Kernel.kinds (k : Kernel) : List Bool :=
  if k.kind = 0 then [false] else if k.kind = 1 then [true] else [false, true]

def chanEntry (e : Nat) : ChanDecl :=
  { gt := bitAt e 63, ct := bitAt e 62, rpush := bitAt e 56, slots := bitsOf e 48 6 + 1,
    slotBytes := (bitsOf e 32 9 + 1) * 512, base := bitsOf e 0 23 }

def barEntry (e : Nat) : BarDecl :=
  { gt := bitAt e 63, ct := bitAt e 62, exp := bitsOf e 32 16, addr := bitsOf e 0 23 }

def ChanDecl.stop (d : ChanDecl) : Nat := d.base + d.slotBytes * d.slots
/-- Declared for the kind of team. -/
def ChanDecl.on (d : ChanDecl) (gather : Bool) : Bool := if gather then d.gt else d.ct
def BarDecl.on (d : BarDecl) (gather : Bool) : Bool := if gather then d.gt else d.ct

/-- The entries of a table of `n` entries of `sz` bytes. -/
def tableOf (b : List Byte) (sz n : Nat) : List Nat := (List.range n).map fun i => fieldAt b (sz * i) sz

/-- Rules that the channel table breaks (R35, R36) (log 25). -/
def chanErrs (k : Kernel) (raw : List Nat) : List (Nat × Nat) :=
  let ds := raw.map chanEntry
  raw.zipIdx.flatMap fun p =>
    let e := p.1
    let i := p.2
    let d := chanEntry e
    let clash (g : Bool) : Bool :=
      d.on g &&
      (k.range g < d.stop ||
       (ds.zipIdx.any fun o => o.2 ≠ i && o.1.on g && o.1.base < d.stop && d.base < o.1.stop) ||
       (k.bars.any fun b => b.on g && b.addr < d.stop && d.base < b.addr + 16))
    errIf (d.base % 512 ≠ 0 || k.kinds.any clash) 4 (8 * i) ++ errIf (bitsOf e 23 9 ≠ 0) 4 (8 * i + 2) ++
    errIf (bitsOf e 41 7 ≠ 0) 4 (8 * i + 5) ++ errIf (bitsOf e 54 2 ≠ 0) 4 (8 * i + 6) ++
    errIf (bitsOf e 57 5 ≠ 0 || (k.kind = 0 && d.gt) || (k.kind = 1 && d.ct)) 4 (8 * i + 7)

/-- Rules that the barrier table breaks (R37) (log 25). -/
def barErrs (k : Kernel) (raw : List Nat) : List (Nat × Nat) :=
  let ds := raw.map barEntry
  raw.zipIdx.flatMap fun p =>
    let e := p.1
    let i := p.2
    let d := barEntry e
    let clash (g : Bool) : Bool :=
      d.on g &&
      (k.range g < d.addr + 16 ||
       (ds.zipIdx.any fun o => o.2 ≠ i && o.1.on g && o.1.addr < d.addr + 16 && d.addr < o.1.addr + 16))
    errIf (d.addr % 16 ≠ 0 || k.kinds.any clash) 5 (8 * i) ++ errIf (bitsOf e 23 9 ≠ 0) 5 (8 * i + 2) ++
    errIf (d.exp = 0) 5 (8 * i + 4) ++ errIf (bitsOf e 48 14 ≠ 0) 5 (8 * i + 6) ++
    errIf ((k.kind = 0 && d.gt) || (k.kind = 1 && d.ct)) 5 (8 * i + 7)

/-- Rules that the parameter window table breaks (R38) (log 25). -/
def winErrs (b : List Byte) (n : Nat) : List (Nat × Nat) :=
  (List.range n).flatMap fun i =>
    errIf (fieldAt b (16 * i) 8 % 64 ≠ 0) 6 (16 * i) ++ errIf (2 ≤ fieldAt b (16 * i + 12) 4) 6 (16 * i + 12)

/-- Rules that the variant table breaks (R39) (log 25). -/
def varErrs (k : Kernel) (b : List Byte) (n : Nat) : List (Nat × Nat) :=
  (List.range n).flatMap fun j =>
    ((List.range 6).flatMap fun e =>
      let size := (k.sect.getD e (0, 0)).2
      let ix := fieldAt b (16 * j + 2 * e) 2
      errIf (if size = 0 then ix ≠ 0 else size / 4 ≤ ix) 7 (16 * j + 2 * e)) ++
    errIf (fieldAt b (16 * j + 12) 4 ≠ 0) 7 (16 * j + 12)

/-- Read one table of the header: an unreadable one breaks a rule at its address field (R23). -/
def readTable (asid : Nat) (h : List Byte) (off bytes : Nat) : StateM State (List (Nat × Nat) × List Byte) := do
  match ← virtM asid (fieldAt h off 8) bytes with
  | none | some (_, true) => pure ([(1, off)], [])
  | some (b, false) => pure ([], b)

/-- Rules that the bank table breaks (R33): the format value of an entry, and its reserved bits [31:26], in its last byte (log 25). -/
def bankErrs (banks : List Nat) : List (Nat × Nat) :=
  banks.zipIdx.flatMap fun p => errIf (!fmtValid (p.1 % 2 ^ 26)) 3 (4 * p.2) ++ errIf (2 ^ 26 ≤ p.1) 3 (4 * p.2 + 3)

/-- The header and its tables: the rules broken, and the device's copy. -/
def readKernel (asid : Nat) (h : List Byte) : StateM State (List (Nat × Nat) × Kernel) := do
  let k := headerKernel h
  let nb := k.nbank + k.gnbank
  let nch := fieldAt h 0x62 1
  let nbar := fieldAt h 0x63 1
  let npw := fieldAt h 0x64 1
  let nvar := k.nswpt * k.nvar
  let (e0, bank) ← readTable asid h 0x70 (4 * nb)
  let (e1, chan) ← readTable asid h 0x78 (8 * nch)
  let (e2, bar) ← readTable asid h 0x80 (8 * nbar)
  let (e3, win) ← readTable asid h 0x88 (16 * npw)
  let (e4, var) ← readTable asid h 0x90 (16 * nvar)
  let banks := tableOf bank 4 nb
  let k1 := { k with bars := (tableOf bar 8 nbar).map barEntry }
  pure (headerErrs h k ++ e0 ++ e1 ++ e2 ++ e3 ++ e4 ++ bankErrs banks ++
   chanErrs k1 (tableOf chan 8 nch) ++ barErrs k (tableOf bar 8 nbar) ++ winErrs win npw ++ varErrs k var nvar,
   { k1 with
     banks := banks.map (BitVec.ofNat 26), chans := (tableOf chan 8 nch).map chanEntry,
     wins := (List.range npw).map fun i =>
       { base := fieldAt win (16 * i) 8, size := fieldAt win (16 * i + 8) 4, bound := bitAt (fieldAt win (16 * i + 12) 4) 0 },
     vars := (List.range nvar).map fun j => (List.range 6).map fun e => fieldAt var (16 * j + 2 * e) 2 })

/-! The KTT image (05 R107, R108). -/

/-- A range with its grant, rounded out to pages, and where a reject names it. -/
structure KttSource where
  lo : Nat
  hi : Nat
  r : Bool
  w : Bool
  st : Nat
  off : Nat
deriving DecidableEq, Repr

def pageUp (a : Nat) : Nat := (a + 4095) / 4096 * 4096

/-- The sources in the order of R108; an empty one is left out. -/
def kttSources (k : Kernel) (gs : List Region) : List KttSource :=
  let mk (base len : Nat) (r w : Bool) (st off : Nat) : List KttSource :=
    if len = 0 then [] else [⟨base / 4096 * 4096, pageUp (base + len), r, w, st, off⟩]
  let code := k.sect.foldl (fun m x => if x.2 = 0 then m else max m (x.1 + x.2)) 0
  mk k.code code true false 1 0x08 ++
  k.wins.zipIdx.flatMap (fun p => if p.1.bound then mk p.1.base p.1.size true false 6 (16 * p.2) else []) ++
  gs.zipIdx.flatMap (fun p => mk p.1.base p.1.len p.1.r p.1.w 2 (0x08 + 16 * p.2))

/-- The first address of a range at which a page does not translate with at least the grant (step 2). -/
def State.kttRangeFail (s : State) (asid : Nat) (r w : Bool) (hi : Nat) : Nat → Nat → Option Nat
  | 0, _ => none
  | n + 1, va =>
    if hi ≤ va then none
    else
      match s.walk asid va with
      | .error _ => some va
      | .ok e => if (!r || e.r) && (!w || e.w) then s.kttRangeFail asid r w hi n (e.va + e.size) else some va

/-- Every page of a range translates with at least the grant. -/
def State.kttRangeOk (s : State) (asid : Nat) (r w : Bool) (hi n va : Nat) : Bool := (s.kttRangeFail asid r w hi n va).isNone

/-- A page at which the build fails because of source `y` lies in the rounded range of source `x`: its address. -/
def State.kttFailIn (s : State) (asid : Nat) (x y : KttSource) : Option Nat :=
  let lo := max x.lo y.lo
  s.kttRangeFail asid y.r y.w (min x.hi y.hi) ((y.hi - lo) / 4096 + 1) lo

/-- A run of pages with one grant, order, caching and snapshot region, physically contiguous. -/
structure KttSeg where
  va : Nat
  stop : Nat
  pa : Nat
  r : Bool
  w : Bool
  order : Nat
  l1c : Bool
  sreg : Option Nat
  g : Bool
deriving DecidableEq, Repr

/-- The segments of an interval that one grant and one snapshot region cover. -/
def State.kttSegs (s : State) (asid : Nat) (r w : Bool) (sreg : Option Nat) (hi : Nat) : Nat → Nat → List KttSeg
  | 0, _ => []
  | n + 1, va =>
    if hi ≤ va then []
    else
      match s.walk asid va with
      | .error _ => []
      | .ok e =>
        let stop := min hi (e.va + e.size)
        { va := va, stop := stop, pa := e.pa + (va - e.va), r := r, w := w, order := e.order, l1c := e.l1c,
          sreg := if e.snapok then sreg else none, g := e.global } :: s.kttSegs asid r w sreg hi n stop

/-- Join neighbours that continue each other. -/
def joinSegs : List KttSeg → List KttSeg
  | [] => []
  | a :: r =>
    match joinSegs r with
    | [] => [a]
    | b :: l =>
      if a.stop = b.va ∧ a.pa + (a.stop - a.va) = b.pa ∧ a.r = b.r ∧ a.w = b.w ∧ a.order = b.order ∧ a.l1c = b.l1c ∧ a.sreg = b.sreg
      then { a with stop := b.stop } :: l else a :: b :: l

/-- The greedy cover of a run (step 3). -/
def coverSeg (g : KttSeg) : Nat → Nat → List KttEntry
  | 0, _ => []
  | n + 1, va =>
    if g.stop ≤ va then []
    else
      let pa := g.pa + (va - g.va)
      let k := (((List.range 23).map fun i => 34 - i).find? fun k =>
        va % 2 ^ k = 0 && va + 2 ^ k ≤ g.stop && pa % 2 ^ k = 0).getD 12
      { va := va, log2 := k, pa := pa, r := g.r, w := g.w, order := g.order, l1c := g.l1c, sreg := g.sreg } ::
        coverSeg g n (va + 2 ^ k)

/-- Registered regions of an ASID, as page ranges, lowest number first. -/
def State.regionPages (s : State) (asid : Nat) : List (Nat × Nat × Nat) :=
  (List.range 256).filterMap fun r => (s.region? asid r).map fun g => (r, g.1 / 4096 * 4096, pageUp (g.1 + g.2))

/-- The rising list of the points at which intervals begin or end. -/
def cutPoints (l : List Nat) : List Nat := l.foldl (fun acc x => setInsert x acc) []

/-- Build a kernel's KTT image: the reject of R108, or the entries in ascending address.  A failing page names the first source whose
rounded range holds it, whichever source's grant it fails (log 25).  An entry counts as global as soon as one leaf under it is: Table 5-5
has no such bit, and what an entry over global and other leaves matches is the model's choice (R103, R113; log 27). -/
def State.buildKtt (s : State) (asid : Nat) (srcs : List KttSource) : Except (Nat × Nat) (List KttEntry) :=
  match srcs.find? fun x => srcs.any fun y => (s.kttFailIn asid x y).isSome with
  | some x => .error (x.st, x.off)
  | none =>
    let regs := s.regionPages asid
    let cuts := cutPoints (srcs.flatMap (fun x => [x.lo, x.hi]) ++ regs.flatMap fun g => [g.2.1, g.2.2])
    let segs := (cuts.zip (cuts.drop 1)).flatMap fun p =>
      let on := srcs.filter fun x => x.lo ≤ p.1 && p.1 < x.hi
      if on.isEmpty then []
      else
        s.kttSegs asid (on.any (·.r)) (on.any (·.w))
          ((regs.find? fun g => g.2.1 ≤ p.1 && p.1 < g.2.2).map (·.1)) p.2 ((p.2 - p.1) / 4096 + 1) p.1
    let es := ((joinSegs segs).flatMap fun g => coverSeg g ((g.stop - g.va) / 4096 + 1) g.va).map fun e =>
      { e with g := segs.any fun x => x.g && decide (x.va < e.va + 2 ^ e.log2) && decide (e.va < x.stop) }
    match es[256]? with
    | none => .ok es
    | some e =>
      match srcs.find? fun x => x.lo ≤ e.va && e.va < x.hi with
      | some x => .error (x.st, x.off)
      | none => .error (1, 0x08)

/-! The whole description. -/

/-- What admission keeps of a description (R21). -/
structure Described where
  regions : List Region := []
  k : Option Kernel := none
  ktt : List KttEntry := []
  desc : List Byte := []
deriving DecidableEq, Repr

/-- What a build reports of the page tables that it reads: an entry in the hole (19 Table 19-4). -/
def kttNote (asid : Nat) (srcs : List KttSource) : StateM State Unit := modify fun s =>
  match srcs.findSome? fun x => s.kttFailIn asid x x with
  | some va => s.walkNote (s.walk asid va)
  | none => s

/-- Read and validate a description (R21-R45).  The image is built once no other rule is broken (log 25). -/
def describeM (asid : Nat) (r : List Byte) (tsub : Bool) : StateM State (Except (Nat × Nat) Described) := do
  let typ := fieldAt r 1 1
  let (fe, gs) ← readFoot asid (fieldAt r 0x10 8)
  let e0 := recordErrs r tsub ++ fe
  if typ = 1 then
    match ← virtM asid (fieldAt r 8 8) 256 with
    | none | some (_, true) => pure (.error ((leastErr ((0, 8) :: e0)).getD (0, 8)))
    | some (h, false) =>
      let (ke, k) ← readKernel asid h
      match leastErr (e0 ++ ke) with
      | some e => pure (.error e)
      | none =>
        kttNote asid (kttSources k gs)
        match (← get).buildKtt asid (kttSources k gs) with
        | .error e => pure (.error e)
        | .ok es => pure (.ok { regions := gs, k := some k, ktt := es })
  else if 1 < typ ∧ typ ≤ 6 then
    match ← virtM asid (fieldAt r 8 8) 64 with
    | none | some (_, true) => pure (.error ((leastErr ((0, 8) :: e0)).getD (0, 8)))
    | some (b, false) =>
      match leastErr e0 with
      | some e => pure (.error e)
      | none => pure (.ok { regions := gs, desc := b })
  else
    match leastErr e0 with
    | some e => pure (.error e)
    | none => pure (.ok { regions := gs })

/-- The description of a record, and what its reading reports (log 25). -/
def State.describe (s : State) (asid : Nat) (r : List Byte) (tsub : Bool) : Except (Nat × Nat) Described := ((describeM asid r tsub).run s).1
def State.described (s : State) (asid : Nat) (r : List Byte) (tsub : Bool) : State := ((describeM asid r tsub).run s).2

end Sys2Proof.Machine
end

