-- ==== Sys2Proof/Machine/EvQueue.lean ====
section
/-!
DEFINITION. Sys2Proof/Machine/EvQueue.lean: the queue manager (03 R47-R58): queue states, validation, consuming records,
admission, teardown (R78, R79), and the leaving of tasks (R59).
-/
namespace Sys2Proof.Machine

/-- The host reaches the device's registers and memory once port H has trained and while its link is up (19 R437, R429). -/
def State.hostUp (s : State) : Bool := s.start.step = 6 && s.host.linkH

/-- An access of the host (log 1). -/
def State.hostEvent (s : State) (f : State → State) : Out := s.event fun s => if s.hostUp then f s else s

/-! Validation (R49). -/

/-- The queue becomes BROKEN, with a record of type 0x41. -/
def State.queueBroken (s : State) (q : Nat) (off reason : Nat) : State :=
  (s.updQueue q fun k => { k with st := .broken, watch := none, wake := false }).logRec 0x41 [q, off, reason]

/-- The control block of a queue; the error is the offset and reason of R49.  A poisoned block names TAIL: which field reason 4 names is
not stated, and this is the model's choice (log 24). -/
def State.readBlock (s : State) (q : Nat) : Except (Nat × Nat) RingBlk :=
  let k := s.queue q
  match s.virtRead k.asid.toNat k.qcba.toNat 64 with
  | none => .error (0xFF, 3)
  | some (_, true) => .error (0, 4)
  | some (b, false) => .ok (ringBlk b)

/-- What the reading of the block reports. -/
def State.blockNote (s : State) (q : Nat) : State := (s.virtAccess (s.queue q).asid.toNat (s.queue q).qcba.toNat 64).1

/-- Every page of the ring translates and can be read (log 24). -/
def State.ringOk (s : State) (asid : Nat) (b : RingBlk) : Bool :=
  s.kttRangeOk asid true false (b.ring + 64 * b.size) (64 * b.size / 4096 + 2) b.ring

/-- Validate the block: the queue is ACTIVE, or BROKEN (R49, Table 3-5) (log 24). -/
def State.validateQueue (s : State) (q : Nat) : State :=
  let s1 := s.blockNote q
  match s.readBlock q with
  | .error e => s1.queueBroken q e.1 e.2
  | .ok b =>
    match b.bad with
    | some (reason, off) => s1.queueBroken q off reason
    | none =>
      if s.ringOk (s.queue q).asid.toNat b then
        s1.updQueue q fun k => { k with st := .active, en := true, irq := bitAt b.qflags 0, watch := none, wake := false }
      else s1.queueBroken q 0x10 3

/-- QUEUE_ENABLE: EN ← 1 (Table 3-5).  No decision has been made for the queue since it was DISABLED: the CLASS written until now is
the one in effect (log 39). -/
def State.queueEnable (s : State) (q : Nat) : State :=
  if (s.queue q).st = .disabled then (s.updQueue q fun k => { k with en := true, clsNow := k.cls }).validateQueue q else s

/-- QUEUE_DISABLE: EN ← 0 (Table 3-5). -/
def State.queueDisable (s : State) (q : Nat) : State :=
  if (s.queue q).st = .active ∨ (s.queue q).st = .broken then
    s.updQueue q fun k => { k with st := .disabled, en := false, watch := none, wake := false }
  else s

def execQueueEnable (q : Nat) (s : State) : Out := s.hostEvent fun s => if q < 272 then s.queueEnable q else s
def execQueueDisable (q : Nat) (s : State) : Out := s.hostEvent fun s => if q < 272 then s.queueDisable q else s

/-! Consuming (R53-R55). -/

/-- The window admits the queue (R55). -/
def State.windowAdmits (s : State) (q : Nat) : Bool :=
  if q < 256 then s.tasks.length < 1008 else s.tasks.length < 1024

/-- What the queue manager meets at HEAD. -/
inductive AtHead where
  | broken (off reason : Nat)
  | empty
  | unready (va : Nat)
  | ready (b : RingBlk) (rec : List Byte)
deriving DecidableEq, Repr

def State.atHead (s : State) (q : Nat) : AtHead :=
  match s.readBlock q with
  | .error e => .broken e.1 e.2
  | .ok b =>
    if b.head = b.tail then .empty
    else
      match (s.blockNote q).virtRead (s.queue q).asid.toNat (b.slot b.head) 64 with
      | none => .broken 0x10 3
      | some (_, true) => .broken 0xFF 4
      | some (r, false) => if fieldAt r 0 1 % 2 = 1 then .ready b r else .unready (b.slot b.head)

/-- What a visit's reads report. -/
def State.headNote (s : State) (q : Nat) : State :=
  match s.readBlock q with
  | .ok b => if b.head = b.tail then s.blockNote q else ((s.blockNote q).virtAccess (s.queue q).asid.toNat (b.slot b.head) 64).1
  | .error _ => s.blockNote q

/-- A queue that the queue manager is consuming. -/
def State.consuming (s : State) (q : Nat) : Bool :=
  (s.queue q).st = .active && (s.queue q).watch.isNone && s.windowAdmits q

/-- Whether a queue has a record ready. -/
def State.recordReady (s : State) (q : Nat) : Bool :=
  s.consuming q && (match s.atHead q with
    | .ready _ _ => true
    | _ => false)

/-- The queue visited next (R54): the highest class, then round-robin after the last queue visited. -/
def State.visitNext (s : State) : Option Nat :=
  [0, 1, 2, 3].findSome? fun c =>
    ((List.range 272).map fun i => ((s.sched.visit.getD c 271) + 1 + i) % 272).find? fun q =>
      (s.queue q).clsNow.toNat = c && s.recordReady q

/-- The physical line of a virtual address. -/
def State.lineOf (s : State) (asid va : Nat) : Option Nat :=
  match s.walk asid va with
  | .ok e => some ((e.pa + (va - e.va)) / 128)
  | .error _ => none

/-- The queue manager sleeps on the line of an address. -/
def State.watchLine (s : State) (q va : Nat) : State :=
  match s.lineOf (s.queue q).asid.toNat va with
  | some l => s.updQueue q fun k => { k with watch := some l, wake := false }
  | none => s.queueBroken q 0xFF 3

/-- QUEUE_WAKE (R53): a write has landed in the watched line; on the block's own line the queue is validated (R49). -/
def execQueueWake (q : Nat) (s : State) : Out :=
  s.event fun s =>
    let k := s.queue q
    if k.wake && k.st = .active then
      let own : Bool := k.watch = s.lineOf k.asid.toNat k.qcba.toNat
      let s1 := s.updQueue q fun k => { k with watch := none, wake := false }
      if own then s1.validateQueue q else s1
    else s

/-! Admission (R21, R23, R60, R70). -/

/-- MSI-X of a queue with IRQ (Table 3-1) (log 39). -/
def State.queueIrq (s : State) (q : Nat) : State := if (s.queue q).irq then s.raiseMsix q else s

/-- A record is discarded (R70). -/
def State.discardRecord (s : State) (q : Nat) (h : BitVec 32) : State :=
  (s.updQueue q fun k => { k with drops := k.drops + 1 }).logRec 0x42 [q, h.toNat]

/-- The EMPTY entry that BIND takes (Table 3-6). -/
def State.bindTo (s : State) (asid : Nat) (h : BitVec 32) : Option Nat :=
  match s.futureOf asid h with
  | some i => if (s.future i).st = .empty then some i else none
  | none => none

/-- A rejected description: BIND, then ERROR with the value of Table 2-1 (R23). -/
def State.rejectRecord (s : State) (q : Nat) (asid : Nat) (h : Option (BitVec 32)) (e : Nat × Nat) : State :=
  match h with
  | none => s
  | some h =>
    match s.bindTo asid h with
    | none => s.discardRecord q h
    | some i =>
      (s.futureWake i { s.future i with st := .error, value := rejectValue e }).queueIrq q

def Region.overlaps (a b : Region) : Bool := a.base < b.base + b.len && b.base < a.base + a.len

/-- Two footprints meet and one of the two regions is a writer (R60). -/
def footsMeet (a b : List Region) : Bool := a.any fun x => b.any fun y => x.overlaps y && (x.w || y.w)

/-- The footprint edges of a task (R60); those to kernels of its own queue are HINTED under EARLYOK (R25).  A stamped kernel
gains none from the submitter's kernel (R57). -/
def State.edgesOf (s : State) (k : Task) : List (Nat × Bool) :=
  (s.tasks.filter fun u => u.asid = k.asid && footsMeet u.regions k.regions && !(k.stamp.isSome && u.id = k.stampTid)).map fun u =>
    (u.id, bitAt k.tflags.toNat 1 && u.typ = 1 && u.queue = k.queue)

/-- What the waited futures tell a task at its admission, WAITF0 before WAITF1: which of two futures that have failed or gone stale
decides is not stated, and this order is the model's (log 16). -/
def State.toldNow (s : State) (k : Task) : Task :=
  k.waits.foldl (fun (t : Task) h =>
    match s.futureOf k.asid h with
    | none => t.told h 0 .free
    | some i => t.told h i (s.future i).st) k

/-- The task of a valid record. -/
def State.newTask (s : State) (q : Nat) (r : List Byte) (d : Described) (st : Option StampRec) : Task :=
  let f := fieldAt r
  let fl := f 2 2
  let w (i off : Nat) : List (BitVec 32) := if bitAt fl i then [BitVec.ofNat 32 (f off 4)] else []
  let k0 : Task :=
    { id := s.nextTask, queue := q, asid := (s.queue q).asid.toNat, typ := f 1 1, tflags := BitVec.ofNat 16 fl,
      tag := BitVec.ofNat 32 (f 4 4), regions := d.regions,
      resfut := if bitAt fl 2 then some (BitVec.ofNat 32 (f 0x18 4)) else none, waits := w 3 0x1C ++ w 4 0x20,
      arg0 := BitVec.ofNat 64 (f 0x28 8), arg1 := BitVec.ofNat 64 (f 0x30 8),
      stamp := st.map fun x => (x.slot, x.cnt), stampTid := (st.map (·.tid)).getD 0, stampIx := (st.map (·.tix)).getD 0,
      ordered := if bitAt fl 0 then (s.queue q).prev else none, desc := d.desc, k := d.k, ktt := d.ktt,
      cancelled := match st with
        | some x => if x.dead then some (BitVec.ofNat 32 (0x08000000 + x.slot)) else none
        | none => none }
  s.toldNow { k0 with edges := s.edgesOf k0 }

/-- Admit a record at physical address `pa` of its slot (R21). -/
def State.admitRecord (s : State) (q pa : Nat) (r : List Byte) : State :=
  let asid := (s.queue q).asid.toNat
  let fl := fieldAt r 2 2
  let h : Option (BitVec 32) := if bitAt fl 2 then some (BitVec.ofNat 32 (fieldAt r 0x18 4)) else none
  let st := if bitAt fl 5 then s.stamped.find? (·.at_ = pa) else none
  let s0 := s.described asid r st.isSome
  match s.describe asid r st.isSome with
  | .error e => s0.rejectRecord q asid h e
  | .ok d =>
    let k := s0.newTask q r d st
    let enter (s : State) : State :=
      ({ s with tasks := s.tasks ++ [k], nextTask := s.nextTask + 1 }).updQueue q fun x => { x with prev := some k.id }
    match h with
    | none => enter s0
    | some h =>
      match s0.bindTo asid h with
      | none => s0.discardRecord q h
      | some i => enter (s0.setFuture i { s0.future i with st := .pending })

/-- RECORD_ADMIT (R53): one visit of the queue manager to queue `q`.  A record that is ready is admitted when the queue's turn
has come (R54); CTRL ← 0 and HEAD ← HEAD + 1 follow. -/
def execRecordAdmit (q : Nat) (s : State) : Out :=
  s.event fun s =>
    if !s.consuming q then s
    else
      let asid := (s.queue q).asid.toNat
      let s0 := s.headNote q
      match s.atHead q with
      | .broken off reason => s0.queueBroken q off reason
      | .empty => s0.watchLine q (s.queue q).qcba.toNat
      | .unready va => s0.watchLine q va
      | .ready b r =>
        if s.visitNext ≠ some q then s
        else
          let va := b.slot b.head
          let pa := match s.walk asid va with
            | .ok e => e.pa + (va - e.va)
            | .error _ => 0
          let s1 := s0.admitRecord q pa r
          let s2 := { s1 with sched := { s1.sched with visit := s1.sched.visit.set (s.queue q).clsNow.toNat q } }
          (s2.virtWrite asid va [0]).virtWrite asid ((s.queue q).qcba.toNat + 8) (toBytes 8 (b.head + 1))

/-- A read of the allocation register (R69): the handle goes to the host. -/
def execFutureAllocRead (asid : Nat) (s : State) : Out :=
  s.hostEvent fun s =>
    if asid < 4096 then
      let (s1, h) := s.futureAlloc asid
      { s1 with host := { s1.host with out := .reg (h.setWidth 64) :: s1.host.out } }
    else s

/-! Leaving the window (R59, R97). -/

/-- A task leaves the window: its future resolves, the queue's vector fires for ERROR and CANCELLED, and the teams whose HINTED
predecessors have all left are woken. -/
def State.leaveTask (s : State) (k : Task) (st : FStateName) (v : DWord) : State :=
  let s1 := { s with tasks := s.tasks.filter (·.id ≠ k.id) }
  let s2 := s1.futureLeave k.resfut st v
  let s3 := if st = .ready then s2 else s2.queueIrq k.queue
  s3.wakeBy (fun t => t.park = some .pwait && s3.hintedLeft t.tid) none

/-! The outcome of a task (R72, R80, 12 R286). -/

/-- The value of a task that the watchdog ended (R80). -/
def Task.watchValue (k : Task) : DWord :=
  match leastOf k.wdUnits, leastOf k.wdSlots, k.ring with
  | some u, _, _ => BitVec.ofNat 64 (0x06000000 + u)
  | none, some n, _ => BitVec.ofNat 64 (0x05000000 + n)
  | none, none, some r => BitVec.ofNat 64 (0x05008000 + r)
  | none, none, none => BitVec.ofNat 64 (0x05000000 + (Config.watchdogSlot k.id).toNat)

/-- The outcome of a started task that has ended (R72, 12 R286, 17 R403). -/
def Task.outcome (k : Task) : FStateName × DWord :=
  if k.jobEnd = some .fenced then (.error, 0x090E0000)
  else if k.wdStage ≠ 0 then (.error, k.watchValue)
  else if k.typ = 1 then
    match k.fail with
    | some f => (.error, f.setWidth 64)
    | none => if k.exitErr then (.error, 0x04000000) else (.ready, 0)
  else
    match k.jobEnd with
    | some (.ok v) => (.ready, v)
    | some (.err c d) => (.error, BitVec.ofNat 64 (0x09000000 + c % 256 * 65536 + d % 65536))
    | _ => (.ready, 0)

/-! Teardown (R78, R79). -/

/-- Futures of the records between HEAD and TAIL (Table 3-8 step 1), in ring order, and what the reads report. -/
def State.ringNotes (s : State) (asid : Nat) (b : RingBlk) : State × List (BitVec 32) :=
  (List.range b.count).foldl (fun acc i =>
    let (s1, x) := acc.1.virtAccess asid (b.slot (b.head + i)) 64
    match x with
    | none | some (_, true) => (s1, acc.2)
    | some (r, false) =>
      let h := BitVec.ofNat 32 (fieldAt r 0x18 4)
      if fieldAt r 0 1 % 2 = 1 && bitAt (fieldAt r 2 2) 2 then
        match s.futureOf asid h with
        | some i => if (s.future i).st = .pending ∨ (s.future i).st = .empty then (s1, acc.2 ++ [h]) else (s1, acc.2)
        | none => (s1, acc.2)
      else (s1, acc.2)) (s, [])

/-- The class 0x07 value of a queue torn down (Table 3-7). -/
def tornValue (q : Nat) : BitVec 32 := BitVec.ofNat 32 (0x07000000 + q)

/-- A kill by the watchdog: a record of type 0x21, and the slot that the task's value may name (03 R80). -/
def State.watchKill (s : State) (n : Nat) (v : Nat) : State :=
  match s.team? n with
  | none => s
  | some t =>
    ((s.logRec 0x21 [t.queue, t.tag.toNat, n]).updTask t.tid fun k => { k with wdSlots := setInsert n k.wdSlots }).discardTeam n
      (BitVec.ofNat 32 v)

/-- A team that was asked to halt has halted: it is killed when the request was a kill, otherwise it stays halted (R94, R95) (log 22). -/
def State.haltDone (s : State) (n : Nat) : State :=
  match s.team? n with
  | none => s
  | some t =>
    match t.kill with
    | some v => if v / 2 ^ 24 = 5 then s.watchKill n v else s.discardTeam n (BitVec.ofNat 32 v)
    | none => s.setTeam n { t with halted := true }

/-- Ask a team to halt; `kill` makes the halt a kill.  For a team that does not issue the request completes at once (R95) (log 22). -/
def State.askHalt (s : State) (n : Nat) (kill : Option Nat) : State :=
  let s1 := s.updTeam n fun u => { u with preempt := true, kill := if u.kill.isSome then u.kill else kill }
  if (s.core (coreOfSlot n)).issuing = some n then s1 else s1.haltDone n

/-- Members of a team's gang, or the team alone, that hold their slots. -/
def State.gangHere (s : State) (n : Nat) : List Nat :=
  match s.team? n with
  | none => []
  | some t => (if t.gang.contains n then t.gang else [n]).filter fun m => ((s.team? m).map (·.tid)) = some t.tid

/-- Ask every engine of a team to halt; a gang is asked as a whole (04 R95) (log 22). -/
def State.requestHalt (s : State) (n : Nat) (kill : Option Nat) : State :=
  (s.gangHere n).foldl (fun (s : State) m => s.askHalt m kill) s

/-- The resident teams of a task. -/
def State.teamsOf (s : State) (tid : Nat) : List Nat := (s.teams.filter fun e => e.2.tid = tid).map (·.1)

/-- Swapped-out teams of a killed task are discarded. -/
def State.dropSwapped (s : State) (tid : Nat) : State := { s with swapped := s.swapped.filter (·.tid ≠ tid) }

/-- A started task whose teams have all exited, or whose job has ended, is neither cancelled nor killed: it retires with its own
outcome (R59, Table 3-8). -/
def State.finished (s : State) (k : Task) : Bool :=
  k.started && (if k.typ = 1 then
    (s.teamsOf k.id).isEmpty && !(s.swapped.any (·.tid = k.id)) && (match k.k with
      | some x => k.exited.length = x.teams
      | none => true)
  else k.jobEnd.isSome)

/-- Steps 1 to 3 of Table 3-8.  A torn-down task's `stop` holds its value (log 39). -/
def State.tearStart (s : State) (q : Nat) (reset : Bool) : State :=
  let asid := (s.queue q).asid.toNat
  let blk : Option RingBlk := match s.readBlock q with
    | .ok b => some b
    | .error _ => none
  let (s0, notes) := match blk with
    | some b => if b.size < b.count then (s.blockNote q, []) else (s.blockNote q).ringNotes asid b
    | none => (s.blockNote q, [])
  let s1 := s0.updQueue q fun k =>
    { k with st := .teardown, watch := none, wake := false, resetting := reset, unread := blk.isNone, notes := notes }
  let s2 : State := match blk with
    | some b => if b.size < b.count then s1 else s1.virtWrite asid ((s.queue q).qcba.toNat + 8) (toBytes 8 b.tail)
    | none => s1
  let s3 : State := { s2 with tasks := s2.tasks.map fun (k : Task) => if k.queue = q && !s2.finished k then { k with stop := some (tornValue q).toNat, haltAt := s.time.toNat } else k }
  (s3.tasks.filter fun (k : Task) => k.queue = q && k.started && k.stop.isSome).foldl (fun (s : State) (k : Task) =>
    (s.teamsOf k.id).foldl (fun (s : State) n => s.requestHalt n (some (tornValue q).toNat)) (s.dropSwapped k.id)) s3

/-- TEARDOWN ← 1 and RESET ← 1 (Table 3-5). -/
def State.tearQueue (s : State) (q : Nat) (reset : Bool) : State :=
  if (s.queue q).st = .teardown then s else s.tearStart q reset

def execQueueTeardown (q : Nat) (s : State) : Out := s.hostEvent fun s => if q < 272 then s.tearQueue q false else s
def execQueueReset (q : Nat) (s : State) : Out := s.hostEvent fun s => if q < 272 then s.tearQueue q true else s

/-- Writes of a task's teams that have not drained (R59). -/
def State.taskUndrained (s : State) (tid : Nat) : Bool :=
  s.fabric.any (fun w => w.slot.isSome && w.tid = tid) || s.atomq.any fun a => a.tid = tid

/-- Step 4 may end: the queue's teams and jobs have halted and their writes have drained. -/
def State.tornDown (s : State) (q : Nat) : Bool :=
  (s.tasks.filter fun k => k.queue = q).all fun k =>
    (s.teamsOf k.id).isEmpty && !(s.swapped.any (·.tid = k.id)) && !s.taskUndrained k.id &&
    !(k.ring.isSome && k.jobEnd.isNone)

/-- Open levels that a queue's teams opened, outermost first in each region: (ASID, region, level). -/
def State.levelsOf (s : State) (q : Nat) : List (Nat × Nat × Nat) :=
  s.snaps.filterMap fun p =>
    (p.2.levels.findIdx? (·.queue = q)).map fun i => (p.1 / 256, p.1 % 256, i)

/-- The levels of the queue that are still open, counted. -/
def State.levelCount (s : State) (q : Nat) : Nat :=
  (s.snaps.map fun p => (p.2.levels.filter (·.queue = q)).length).sum

/-- Steps 4 to 7 of Table 3-8, then the end of Table 3-5 (log 39). -/
def State.tearFinish (s : State) (q : Nat) : State :=
  let rejected := s.levelCount q
  let s1 := (s.levelsOf q).foldl (fun (s : State) l => s.rejectPoint l.1 l.2.1 l.2.2) s
  let mine := s1.tasks.filter fun k =>
    k.queue = q || (k.cancelled.isSome && ((s1.task? k.stampTid).map (·.queue)) = some q)
  let s2 := mine.foldl (fun (s : State) k =>
    if k.queue = q && k.stop.isNone then s.leaveTask k k.outcome.1 k.outcome.2
    else s.leaveTask k .cancelled ((k.cancelled.getD (tornValue q)).setWidth 64)) s1
  let asid := (s.queue q).asid.toNat
  let s3 := (s.queue q).notes.foldl (fun (s : State) h =>
    match s.futureOf asid h with
    | none => s
    | some i =>
      if (s.future i).st = .pending ∨ (s.future i).st = .empty then
        s.futureWake i { s.future i with st := .cancelled, value := (tornValue q).setWidth 64 }
      else s) s2
  let s4 := (s3.logRec 0x40 [q, (mine.filter fun k => k.queue = q && k.stop.isSome).length, rejected]).queueIrq q
  let s5 := s4.updQueue q fun k => { k with st := .disabled, en := false, notes := [], resetting := false, unread := false }
  if (s.queue q).resetting then
    let s6 := if (s.queue q).unread then s5
      else match s5.readBlock q with
        | .ok b => (s5.blockNote q).virtWrite asid ((s.queue q).qcba.toNat + 8) (toBytes 8 b.tail)
        | .error _ => s5.blockNote q
    s6.validateQueue q
  else s5

/-- TEARDOWN_FINISH (R78). -/
def execTeardownFinish (q : Nat) (s : State) : Out :=
  s.event fun s => if (s.queue q).st = .teardown && s.tornDown q then s.tearFinish q else s

end Sys2Proof.Machine
end

