-- ==== Sys2Proof/Machine/EvTask.lean ====
section
/-!
DEFINITION. Sys2Proof/Machine/EvTask.lean: the dependence resolver (03 R59-R64): when a task may start, future and ticket
operation tasks (R73, R76), and how a task leaves the window.
-/
namespace Sys2Proof.Machine

/-! When a task may start (R61, R57, 04 R96). -/

/-- What a task's waited futures say: all READY, one not yet decided, or the value of the failure. -/
inductive WaitRes where
  | ready | waiting
  | fails (v : DWord)
deriving DecidableEq, Repr

/-- The task's waits: each future tells it at its admission and whenever it changes (`Task.told`). -/
def Task.waitRes (k : Task) : WaitRes :=
  match k.waitFail, k.waits with
  | some v, _ => .fails v
  | none, [] => .ready
  | none, _ => .waiting

/-- Every team of a kernel has executed PSTART or exited (04 R96). -/
def State.allPstarted (s : State) (u : Task) : Bool :=
  let here := (s.teams.map (·.2) ++ s.swapped).filter fun t => t.tid = u.id && t.pstarted && !u.exited.contains t.teamix
  match u.k with
  | some k => u.exited.length + here.length = k.teams
  | none => false

/-- Every edge is satisfied: its task has left, or it is HINTED and every team of it has started (R60, 04 R96). -/
def State.edgesMet (s : State) (k : Task) : Bool :=
  k.edges.all fun e =>
    match s.task? e.1 with
    | none => true
    | some u => e.2 && s.allPstarted u

/-- The queue predecessor of an ORDERED task has left (R61). -/
def State.orderMet (s : State) (k : Task) : Bool :=
  match k.ordered with
  | none => true
  | some u => (s.task? u).isNone

/-- The writes that a stamp names have drained to device scope (R57). -/
def State.stampMet (s : State) (k : Task) : Bool :=
  match k.stamp with
  | none => true
  | some (n, cnt) => !s.unstamped n k.stampTid k.stampIx cnt

/-- A task that waits for nothing: its first team may be placed, its job may start, its operation is performed. -/
def State.startable (s : State) (k : Task) : Bool :=
  k.stop.isNone && k.cancelled.isNone && k.wdStage = 0 && k.waitRes = .ready && s.edgesMet k && s.orderMet k &&
  s.stampMet k

/-! Operation tasks (R73, R76). -/

/-- A refused operation: class 0x0A. -/
def refusedValue (op : Nat) : DWord := BitVec.ofNat 64 (0x0A000000 + op)

/-- A future operation task of one code. -/
def State.futureTask (s : State) (tid op : Nat) : State :=
  match s.task? tid with
  | none => s
  | some k =>
    if k.typ = 7 ∧ k.arg0.toNat % 256 = op ∧ s.startable k then
      match s.futureOf k.asid (BitVec.ofNat 32 (k.arg0.toNat / 2 ^ 32)) with
      | none => s.leaveTask k .error (refusedValue op)
      | some i =>
        let (s1, ok) := s.futureOp i op k.arg1
        if ok then s1.leaveTask k .ready 0 else s1.leaveTask k .error (refusedValue op)
    else s

/-- TASK_FUTURE_RESOLVE (R73). -/
def execTaskFutureResolve (tid : Nat) (s : State) : Out := s.event fun s => s.futureTask tid 1
/-- TASK_FUTURE_FAIL (R73). -/
def execTaskFutureFail (tid : Nat) (s : State) : Out := s.event fun s => s.futureTask tid 2
/-- TASK_FUTURE_CANCEL (R73). -/
def execTaskFutureCancel (tid : Nat) (s : State) : Out := s.event fun s => s.futureTask tid 3
/-- TASK_FUTURE_FREE (R73). -/
def execTaskFutureFree (tid : Nat) (s : State) : Out := s.event fun s => s.futureTask tid 4
/-- TASK_FUTURE_RESET (R73). -/
def execTaskFutureReset (tid : Nat) (s : State) : Out := s.event fun s => s.futureTask tid 5

/-- A ticket operation task of one code: a disabled or foreign dispenser refuses (R74, R76). -/
def State.ticketTask (s : State) (tid op : Nat) (act : State → Nat → Nat → State) : State :=
  match s.task? tid with
  | none => s
  | some k =>
    if k.typ = 8 ∧ k.arg0.toNat % 256 = op ∧ s.startable k then
      let n := bitsOf k.arg0.toNat 32 12
      if s.ticketOk k.asid n then (act s n (k.arg1.toNat % 2 ^ 32)).leaveTask k .ready 0
      else s.leaveTask k .error (refusedValue op)
    else s

/-- TASK_TICKET_SERVE (R76). -/
def execTaskTicketServe (tid : Nat) (s : State) : Out :=
  s.event fun s => s.ticketTask tid 1 fun s n v => s.ticketServe n v
/-- TASK_TICKET_INIT (R76): it wakes nobody. -/
def execTaskTicketInit (tid : Nat) (s : State) : Out :=
  s.event fun s => s.ticketTask tid 2 fun s n v =>
    s.setTicket n { s.ticket n with next := BitVec.ofNat 32 v, serve := BitVec.ofNat 32 v }

/-! Retiring (R59, R61, R72, R80). -/

/-- A started task has ended: its teams have exited, or its job has, and its writes have drained (R59).  A task that the
watchdog stopped starts no more teams. -/
def State.taskEnded (s : State) (k : Task) : Bool :=
  if k.typ = 1 then
    (s.teamsOf k.id).isEmpty && !(s.swapped.any (·.tid = k.id)) && !s.taskUndrained k.id &&
    (k.wdStage ≠ 0 || (match k.k with
      | some x => k.exited.length = x.teams
      | none => true))
  else k.jobEnd.isSome

/-- The queue of a stamped task's submitter is being torn down: the task waits for step 5 (R79). -/
def State.submitterTorn (s : State) (k : Task) : Bool :=
  match s.task? k.stampTid with
  | some u => k.stamp.isSome && (s.queue u.queue).st = .teardown
  | none => false

/-- TASK_RETIRE (R59): a task leaves the window when it has ended, or when a waited future or its submitter's kill decides
it; a kernel waits for its HINTED predecessors (04 R97). -/
def execTaskRetire (tid : Nat) (s : State) : Out :=
  s.event fun s =>
    match s.task? tid with
    | none => s
    | some k =>
      if k.stop.isSome ∨ (k.typ = 1 ∧ !s.hintedLeft k.id) then s
      else if k.started then
        if s.taskEnded k then s.leaveTask k k.outcome.1 k.outcome.2 else s
      else
        match k.cancelled, k.waitRes with
        | some v, _ => if s.submitterTorn k then s else s.leaveTask k .cancelled (v.setWidth 64)
        | none, .fails v => s.leaveTask k .error v
        | _, _ => s

end Sys2Proof.Machine
end

