-- ==== Sys2Proof/Machine/EvDispatch.lean ====
section
/-!
DEFINITION. Sys2Proof/Machine/EvDispatch.lean: the team dispatcher (04 R82-R93) and the fairness rules (03 R65-R67): where a
team may go, whose team is placed, placement, kernel slots, swapping.
-/
namespace Sys2Proof.Machine

/-! The team numbers of a kernel (02 R41-R44). -/

/-- Teams below one value of field `i`: the product of the extents after it. -/
def Kernel.below (k : Kernel) (i : Nat) : Nat := (k.ext.drop (i + 1)).foldl (· * ·) 1
/-- Field `i` of the team at a TEAMIX. -/
def Kernel.fieldOf (k : Kernel) (ix i : Nat) : Nat := ix / k.below i % k.ext.getD i 1
/-- The group of field `i` (R43) that the team belongs to. -/
def Kernel.groupOf (k : Kernel) (ix i : Nat) : Nat := ix / (k.below i * k.ext.getD i 1)

/-- The WID of a team (R41). -/
def Kernel.wid (k : Kernel) (ix : Nat) : Nat :=
  (List.range 6).foldl (fun v i => v * 2 ^ k.width.getD i 0 + k.fieldOf ix i) 0

/-- The first TEAMIX of the team's gang; GANGIX is the distance from it (R44). -/
def Kernel.gangBase (k : Kernel) (ix : Nat) : Nat := ix / k.gangSize * k.gangSize
def Kernel.hasGang (k : Kernel) : Bool := k.lattr.contains 3
def Kernel.gangix (k : Kernel) (ix : Nat) : Nat := if k.hasGang then ix - k.gangBase ix else 0

/-- Teams that are placed together with a team: its gang, or itself alone. -/
def Kernel.together (k : Kernel) (ix : Nat) : List Nat :=
  if k.hasGang then List.range' (k.gangBase ix) k.gangSize else [ix]

/-- The team runs on a gather core (R30). -/
def Kernel.onGather (k : Kernel) (ix : Nat) : Bool := k.kind = 1 || (k.kind = 2 && k.gangix ix = 0)

/-- CLUSTER groups of a compute team, as keys of a task's `groups`.  A group that a CLUSTER field inside the GANG field makes of a KIND = 2
gang holds its GANGIX 0 team too, which runs on a gather core and so in no cluster: R43 does not say what becomes of it, and the
model leaves the gather team out of the group (log 43). -/
def Kernel.clusterKeys (k : Kernel) (ix : Nat) : List Nat :=
  if k.onGather ix then []
  else ((List.range 6).filter fun i => k.lattr.getD i 0 = 2).map fun i => 6 * k.groupOf ix i + i

/-- ORDERED (R43): every team of the group with a lower value of the field has been placed. -/
def Kernel.orderOk (k : Kernel) (placed : List Nat) (ix : Nat) : Bool :=
  (List.range 6).all fun i =>
    k.lattr.getD i 0 ≠ 1 ||
    (let first := k.groupOf ix i * (k.below i * k.ext.getD i 1)
     let n := k.fieldOf ix i * k.below i
     (placed.filter fun j => first ≤ j && j < first + n).length = n)

/-! Room on a core (R82-R85). -/

/-- Banks of a team of the kernel on a core or gather core. -/
def Kernel.banksOn (k : Kernel) (gather : Bool) : Nat := if gather && k.kind = 2 then k.gnbank else k.nbank

/-- Teams that stay on a core when those in `gone` have left. -/
def State.staying (s : State) (c : Nat) (gone : List Nat) : List Team :=
  (slotsOf c).filterMap fun n => if gone.contains n then none else s.team? n

/-- The conditions of R83 for one more team of the kernel. -/
def State.roomOn (s : State) (c : Nat) (k : Kernel) (tid : Nat) (gone : List Nat) : Bool :=
  let ts := s.staying c gone
  let kernels := (ts.map (·.tid)).eraseDups
  let hasMe : Bool := c < 64 && (k.sect.getD 2 (0, 0)).2 ≠ 0
  let mes := (ts.filter fun t => t.words .me ≠ 0).length + (if hasMe then 1 else 0)
  ts.length < 16 && !(s.core c).fenced && (kernels.contains tid || kernels.length < 2) &&
  (if c < 64 then
     (ts.map (·.k.vregs)).sum + k.vregs ≤ 2048 &&
     (ts.map (·.bankCount)).sum + k.banksOn false + (if ts.isEmpty then 0 else 4 * mes) ≤ 64
   else (ts.map (·.bankCount)).sum + k.banksOn true ≤ 16)

/-- Cores of a kind that a group may use: of one cluster, else of one die. -/
def coresIn (gather : Bool) (die : Nat) (cluster : Option Nat) : List Nat :=
  if gather then List.range' (64 + 4 * die) 4
  else
    match cluster with
    | some cl => List.range' (4 * cl) 4
    | none => List.range' (16 * die) 16

/-- The cluster to which the team's CLUSTER groups are bound (R86). -/
def Task.boundTo (t : Task) (k : Kernel) (ix : Nat) : Option Nat :=
  (k.clusterKeys ix).findSome? fun g => SMap.get? t.groups g

/-- Whether the team, or its gang, finds room somewhere once the teams in `gone` have left. -/
def State.findsRoom (s : State) (t : Task) (k : Kernel) (ix : Nat) (gone : List Nat) : Bool :=
  let ms := k.together ix
  let gath := (ms.filter k.onGather).length
  let comp := ms.length - gath
  let bound := t.boundTo k ix
  (List.range 4).any fun d =>
    let cls : List (Option Nat) :=
      match bound with
      | some cl => if cl / 4 = d then [some cl] else []
      | none => if k.clusterGang then (List.range' (4 * d) 4).map some else [none]
    cls.any fun cl =>
      gath ≤ ((coresIn true d none).filter fun c => s.roomOn c k t.id gone).length &&
      comp ≤ ((coresIn false d cl).filter fun c => s.roomOn c k t.id gone).length

/-! Eviction (R90-R92). -/

/-- Bytes of a team's image (Table 4-5). -/
def Team.imageSize (t : Team) : Nat :=
  16384 + (if t.gather then 0 else t.k.vregs * 512) + t.bankCount * 131072 +
  (if !t.gather && t.words .me ≠ 0 then 524288 else 0)

def State.poolBase (s : State) : Nat := bitsOf s.host.swpbase.toNat 12 40 * 4096
def State.poolBytes (s : State) : Nat := bitsOf s.host.swpsize.toNat 12 28 * 4096

/-- The images in the pool: offset and size (R91). -/
def State.images (s : State) : List (Nat × Nat) :=
  (s.swapped ++ (s.teams.filter fun e => e.2.res = .swappingOut).map (·.2)).map fun t => (t.image, t.imageSize)

/-- A place in the pool for an image of `size` bytes: the lowest offset, 0 or the end of another image, at which it fits.  The spec does
not say where in the pool an image goes (log 43). -/
def poolPlace (pool : Nat) (imgs : List (Nat × Nat)) (size : Nat) : Option Nat :=
  leastOf ((0 :: imgs.map fun m => m.1 + m.2).filter fun o =>
    o + size ≤ pool && imgs.all fun m => o + size ≤ m.1 || m.1 + m.2 ≤ o)

/-- Places for several images, in order; none when one finds no room. -/
def poolPlaces (pool : Nat) : List (Nat × Nat) → List Nat → Option (List Nat)
  | _, [] => some []
  | imgs, n :: r =>
    match poolPlace pool imgs n with
    | none => none
    | some o => (poolPlaces pool ((o, n) :: imgs) r).map (o :: ·)

/-- The places that the images of these teams take, when the pool has room for all of them. -/
def State.roomFor (s : State) (ns : List Nat) : Option (List Nat) :=
  poolPlaces s.poolBytes s.images (ns.map fun m => ((s.team? m).map Team.imageSize).getD 0)

/-- The teams begin to move to the pool, when it has room for all of them (R91, R92). -/
def State.swapOut (s : State) (ns : List Nat) : State :=
  match s.roomFor ns with
  | none => s
  | some os => (ns.zip os).foldl (fun (s : State) p => s.updTeam p.1 fun t => { t with res := .swappingOut, image := p.2 }) s

/-- The quantum of a queue's teams in ns: 0 selects 200 us (Table 3-2). -/
def Queue.quantum (q : Queue) : Nat := 1000 * (if q.quantNow = 0 then 200 else q.quantNow.toNat)

/-- One team may be evicted for a team of class `cls` (R92).  A team that is being switched in, and does not issue yet, is not eligible:
R92 says neither, and this is the model's choice (log 43). -/
def State.evictable (s : State) (cls : Nat) (starving : Bool) (n : Nat) : Bool :=
  match s.team? n with
  | none => false
  | some t =>
    let c := s.core (coreOfSlot n)
    c.issuing ≠ some n && c.incoming ≠ some n && t.res = .resident && t.kill.isNone &&
    (t.park.isSome || (s.queue t.queue).quantum ≤ t.issueTime) &&
    (starving || cls ≤ (s.queue t.queue).clsNow.toNat)

/-- A team may be evicted with its whole gang, and the pool has room for the images. -/
def State.victimOk (s : State) (cls : Nat) (starving : Bool) (n : Nat) : Bool :=
  let g := s.gangHere n
  g.all (s.evictable cls starving) && (s.roomFor g).isSome

/-- The longest resident of the slots (R92). -/
def State.longest (s : State) : List Nat → Option Nat
  | [] => none
  | n :: r =>
    match s.longest r with
    | none => some n
    | some m => if ((s.team? m).map (·.since)).getD 0 < ((s.team? n).map (·.since)).getD 0 then some m else some n

/-- The gang that the dispatcher evicts from core `c`. -/
def State.victim (s : State) (c cls : Nat) (starving : Bool) : List Nat :=
  match s.longest ((slotsOf c).filter (s.victimOk cls starving)) with
  | some n => s.gangHere n
  | none => []

/-! Whose team is placed (03 R65, R66, R81). -/

/-- The dispatcher places no team of a queue that the watchdog throttles (R81). -/
def State.throttled (s : State) (q : Nat) : Bool := s.tasks.any fun k => k.queue = q && k.wdStage ≠ 0

/-- A kernel whose teams may be placed. -/
def State.open_ (s : State) (t : Task) : Bool :=
  t.stop.isNone && t.cancelled.isNone && t.wdStage = 0 && (t.started || s.startable t)

/-- The teams of a gang, or one team, wait for a place: all swapped out, or none placed yet and the next of their ORDERED groups. -/
def State.waits (s : State) (t : Task) (k : Kernel) (ix : Nat) : Bool :=
  ((k.together ix).all fun i => s.swapped.any fun u => u.tid = t.id && u.teamix = i) ||
  ((k.together ix).all (fun i => !t.placed.contains i) && k.orderOk t.placed ix)

/-- Every slot whose team could be evicted for a class. -/
def State.allEvictable (s : State) (cls : Nat) (starving : Bool) : List Nat :=
  (s.teams.map (·.1)).filter (s.victimOk cls starving)

/-- A task has a dispatchable team (R66): one that waits for a place and finds room, after evictions if need be (R92).  `starving` says
whether the placement would be a starvation placement. -/
def State.taskDispatchable (s : State) (starving : Bool) (t : Task) : Bool :=
  !s.power.t3 && !s.throttled t.queue && s.open_ t &&
  (match t.k with
   | none => false
   | some k =>
     (t.placed.length < k.teams || s.swapped.any (·.tid = t.id)) &&
     (let gone := s.allEvictable (s.queue t.queue).cls.toNat starving
      (List.range k.teams).any fun ix => s.waits t k ix && s.findsRoom t k ix gone))

/-- A queue has a dispatchable team (R66). -/
def State.dispatchable (s : State) (starving : Bool) (q : Nat) : Bool :=
  s.tasks.any fun t => t.queue = q && s.taskDispatchable starving t

def State.classHas (s : State) (starving : Bool) (cls : Nat) : Bool :=
  s.tasks.any fun t => (s.queue t.queue).cls.toNat = cls && s.taskDispatchable starving t

/-- Since when each class has held a dispatchable team, as far as a starvation placement could place it, up to the moment at which TIME
moves on; a class without one stops being starved (R65). -/
def State.noteClasses (s : State) : State :=
  let held (c : Nat) : Option Nat :=
    if s.classHas true c then some (((s.sched.heldAt.getD c none)).getD s.time.toNat) else none
  let h := (List.range 4).map held
  if h = s.sched.heldAt then s
  else { s with sched := { s.sched with heldAt := h, starved := s.sched.starved.filter fun c => (h.getD c none).isSome } }

/-- TIME moves on to an instant; it never goes back. -/
def State.advanceTo (s : State) (ns : Nat) : State :=
  { s.noteClasses with time := BitVec.ofNat 64 (max s.time.toNat ns) }

/-- Starved classes that still have a dispatchable team, longest first (R65). -/
def State.starvedNow (s : State) : List Nat := s.sched.starved.filter (s.classHas true)

/-- A class may receive the next placement: the highest one, or the longest starved, which must have one of 16. -/
def State.classTurn (s : State) (cls : Nat) : Bool :=
  match s.starvedNow with
  | [] => (List.range cls).all fun c => !s.classHas false c
  | c :: _ => cls = c || (s.sched.since < 15 && (List.range cls).all fun d => !s.classHas false d)

/-- The loop of R66 over the queues of a class from `q` on: the deficits, and the queue when it is found.  `ok` says which
queues have a dispatchable team. -/
def State.drr (s : State) (inCls ok : Nat → Bool) : Nat → Nat → State × Option Nat
  | 0, _ => (s, none)
  | n + 1, q =>
    if !inCls q then s.drr inCls ok n ((q + 1) % 272)
    else if !ok q then (s.updQueue q fun k => { k with dc := 0 }).drr inCls ok n ((q + 1) % 272)
    else if 0 < (s.queue q).dc then (s, some q)
    else
      (s.updQueue q fun k => { k with dc := k.dc + 16000 * (max k.weight.toNat 1 : Nat) }).drr inCls ok n ((q + 1) % 272)

/-- Rounds after which some dispatchable queue's deficit is positive. -/
def State.drrFuel (s : State) : Nat :=
  272 * (s.queues.foldl (fun m p => max m (p.2.dc.natAbs / 16000)) 0 + 3)

/-- The choice of R66 within a class, with the class pointer left at the queue. -/
def State.chooseQueue (s : State) (starving : Bool) (cls q : Nat) : State × Option Nat :=
  let (s1, r) := s.drr (fun r => (s.queue r).cls.toNat = cls) (fun r => r = q || s.dispatchable starving r) s.drrFuel
    (s.sched.ptr.getD cls 0)
  (match r with
   | some x => { s1 with sched := { s1.sched with ptr := s1.sched.ptr.set cls x } }
   | none => s1, r)

/-- The counters of R65 after a placement of a class. -/
def State.notePlacement (s : State) (cls : Nat) : State :=
  let st := s.starvedNow
  { s with sched := { s.sched with
      starved := st, since := if st.head? = some cls ∨ st = [] then 0 else s.sched.since + 1,
      placedAt := s.sched.placedAt.set cls s.time.toNat } }

/-! Placing (R33, R37, R86). -/

/-- A slot may take the member of the kernel's teams: its kind of core, and the cluster of its groups (R86). -/
def Task.suits (t : Task) (k : Kernel) (p : Nat × Nat) : Bool :=
  let c := coreOfSlot p.2
  decide (p.2 < 1280) && (decide (64 ≤ c) == k.onGather p.1) &&
  (match t.boundTo k p.1 with
   | some cl => decide (c < 64) && c / 4 = cl
   | none => true)

/-- Whether places are legal for the members, in their order. -/
def State.placesOk (s : State) (t : Task) (k : Kernel) (ix : Nat) (places : List (Nat × Nat)) : Bool :=
  let cores := places.map fun p => coreOfSlot p.2
  places.map (·.1) = k.together ix &&
  (places.all fun p =>
    (s.team? p.2).isNone && t.suits k p && s.roomOn (coreOfSlot p.2) k t.id []) &&
  cores.eraseDups.length = cores.length && (cores.map dieOf).eraseDups.length ≤ 1 &&
  places.all fun p => places.all fun r =>
    coreOfSlot p.2 / 4 = coreOfSlot r.2 / 4 || !((k.clusterKeys p.1).any (k.clusterKeys r.1).contains)

/-- A team at its placement: banks cleared and their formats written, barrier objects written, everything else at its
placement value. -/
def placedTeam (s : State) (t : Task) (k : Kernel) (gang : List Nat) (ix n : Nat) : Team :=
  let g := k.onGather ix
  let base := if g && k.kind = 2 then k.nbank else 0
  let t0 : Team :=
    { slot := n, tid := t.id, teamix := ix, gangix := k.gangix ix, wid := BitVec.ofNat 64 (k.wid ix), gang := gang,
      gather := g, asid := t.asid, queue := t.queue, tag := t.tag, k := k, banksReady := false, since := s.time.toNat,
      fmts := (List.range (k.banksOn g)).foldl (fun m b => SMap.put 0 m b (k.banks.getD (base + b) 0)) [] }
  (k.bars.filter (·.on g)).foldl (fun (t : Team) d =>
    t.setBar d { exp := d.exp, phase := false, arrover := false, byteover := false, pend := d.exp, pbytes := 0, count := 0 }) t0

/-- The kernel holds a kernel slot of the core; a free one begins to load (R85). -/
def State.takeKslot (s : State) (c tid : Nat) : State :=
  s.updCore c fun k =>
    if (k.ks0.map (·.tid)) = some tid ∨ (k.ks1.map (·.tid)) = some tid then k
    else if k.ks0.isNone then { k with ks0 := some { tid := tid } }
    else { k with ks1 := some { tid := tid } }

/-- One member takes its slot: a new team, or an image that begins to move in.  A gated cluster has power again.  An image's room in the
pool is free from the start of the swap-in: when within the swap-in it becomes free is not stated (log 43). -/
def State.placeOne (s : State) (t : Task) (k : Kernel) (gang : List Nat) (p : Nat × Nat) : State :=
  let c := coreOfSlot p.2
  let s1 := (s.takeKslot c t.id).updClk (domainOf c) fun k => { k with gated := false, refusing := false }
  match s1.swapped.find? fun u => u.tid = t.id && u.teamix = p.1 with
  | some u =>
    ({ s1 with swapped := s1.swapped.filter fun u => !(u.tid = t.id && u.teamix = p.1) }).setTeam p.2
      { u with slot := p.2, gang := gang, res := .swappingIn }
  | none => s1.setTeam p.2 (placedTeam s1 t k gang p.1 p.2)

/-- The task's own record of a placement. -/
def Task.noted (t : Task) (k : Kernel) (now : Nat) (places : List (Nat × Nat)) : Task :=
  { t with
    placed := places.foldl (fun l p => setInsert p.1 l) t.placed,
    slots := places.foldl (fun l p => setInsert p.2 l) t.slots,
    groups := places.foldl (fun m p => (k.clusterKeys p.1).foldl (fun m g =>
      if (SMap.get? m g).isSome then m else SMap.insert m g (coreOfSlot p.2 / 4)) m) t.groups,
    started := true, startTime := if t.started then t.startTime else now }

/-- TEAM_PLACE (R86): the dispatcher places the team, or its gang, of the queue that R65 and R66 choose.  With a list of
teams to evict it swaps those out first, and the placement follows once there is room (R92). -/
def execTeamPlace (tid ix : Nat) (places : List (Nat × Nat)) (evict : List Nat) (s : State) : Out :=
  s.event fun s =>
    match s.task? tid with
    | none => s
    | some t =>
      match t.k with
      | none => s
      | some k =>
        let cls := (s.queue t.queue).cls.toNat
        let starving : Bool := s.starvedNow.head? = some cls
        if s.power.t3 || s.throttled t.queue || !s.open_ t || k.teams ≤ ix || !s.waits t k ix || !s.classTurn cls then s
        else
          match s.chooseQueue starving cls t.queue with
          | (s1, some q) =>
            if q ≠ t.queue then s
            else if evict ≠ [] then
              match places with
              | p :: _ =>
                let c := coreOfSlot p.2
                if (k.together ix).contains p.1 && t.suits k p && !s.roomOn c k tid [] && evict = s.victim c cls starving &&
                   s.findsRoom t k ix (s.allEvictable cls starving) then s.swapOut evict
                else s
              | [] => s
            else if !s.placesOk t k ix places then s
            else
              let s2 := s1.notePlacement cls
              let gang := if k.hasGang then places.map (·.2) else []
              let s3 := places.foldl (fun (s : State) p => s.placeOne t k gang p) s2
              (s3.updTask tid fun t => t.noted k s.time.toNat places).updQueue q fun x =>
                { x with lvlNow := x.lvlcap, quantNow := x.quant, clsNow := x.cls }
          | (_, none) => s

/-- CLASS_STARVED (R65): the class has held a dispatchable team for 1 ms without a placement. -/
def execClassStarved (cls : Nat) (s : State) : Out :=
  s.event fun s =>
    let held : Bool := match s.sched.heldAt.getD cls none with
      | some h => max h (s.sched.placedAt.getD cls 0) + 1000000 ≤ s.time.toNat
      | none => false
    if s.classHas true cls && !s.sched.starved.contains cls && held then
      { s with sched := { s.sched with starved := s.starvedNow ++ [cls] } }
    else s

/-! Kernel slots and banks (R85, R345, 05 R116, 15 R369). -/

/-- Read the bytes of a code range through the kernel's image: each part with its poison. -/
def State.codeBytes (s : State) (ps : List Part) : State × List Byte × List (Nat × Nat) :=
  ps.foldl (fun (acc : State × List Byte × List (Nat × Nat)) p =>
    let (s1, bs, m) := acc.1.readPhys p.pa p.len
    let bad := (unitsOf 64 p.pa p.len).filter fun g =>
      match destOf p.pa with
      | .hbm => s1.marks.contains g
      | _ => m
    let at_ := acc.2.1.length
    (s1, acc.2.1 ++ bs, acc.2.2 ++ bad.map fun g => (at_ + (64 * g - p.pa), at_ + (64 * g + 64 - p.pa)))) (s, [], [])

/-- Sections, and the words of poisoned granules, that a slot holds after loading; none when an entry is revoked. -/
def State.loadSections (s : State) (k : Kernel) (ks : KSlot) (es : List Nat) :
    State × Option (List Section × List (Nat × Nat)) :=
  (List.range 6).foldl (fun (acc : State × Option (List Section × List (Nat × Nat))) i =>
    match acc.2 with
    | none => acc
    | some (ss, bad) =>
      let (off, size) := k.sect.getD i (0, 0)
      if !es.contains i ∨ size = 0 then (acc.1, some (ss ++ [{}], bad))
      else
        match kttParts ks .r (size / 4096 + 2) (k.code + off) size with
        | .error _ => (acc.1, none)
        | .ok ps =>
          let (s1, bs, marks) := acc.1.codeBytes ps
          let ws := (List.range (size / 4)).map fun j => (j, BitVec.ofNat 32 (fieldAt bs (4 * j) 4))
          let hit := (List.range (size / 4)).filter fun j => marks.any fun m => m.1 < 4 * j + 4 && 4 * j < m.2
          (s1, some (ss ++ [{ size := size / 4, words := ws.filter fun w => w.2 ≠ 0 }], bad ++ hit.map fun j => (i, j)))) (s, some ([], []))

/-- Teams of a task on a core. -/
def State.teamsOn (s : State) (c tid : Nat) : List Nat :=
  (slotsOf c).filter fun n => match s.team? n with
    | some t => t.tid = tid
    | none => false

/-- KERNEL_SLOT_LOADED (R85): the slot holds the code and the KTT bank; on a revoked entry it loads nothing and its teams are
killed (05 R116). -/
def execKernelSlotLoaded (core ks : Nat) (s : State) : Out :=
  s.event fun s =>
    let c := s.core core
    match if ks = 0 then c.ks0 else c.ks1 with
    | none => s
    | some a =>
      match (s.task? a.tid).bind fun t => t.k.map fun k => (t, k) with
      | none => s
      | some (t, k) =>
        if a.loaded then s
        else
          let a1 : KSlot := { tid := a.tid, ktt := t.ktt }
          match s.loadSections k a1 (if core < 64 then [0, 1, 2, 3, 4] else [0, 3, 4, 5]) with
          | (s1, none) => (s1.teamsOn core a.tid).foldl (fun (s : State) n => s.killTeam n (BitVec.ofNat 32 0x04000005)) s1
          | (s1, some (ss, bad)) =>
            let a2 : KSlot := { a1 with loaded := true, sects := ss, bad := bad }
            let s2 := s1.updCore core fun c => if ks = 0 then { c with ks0 := some a2 } else { c with ks1 := some a2 }
            ((s2.teamsOn core a.tid).foldl (fun (s : State) n => s.invalidateKinds n [0, 1]) s2).wakeCore core

/-- BANK_CLEAR_DONE (14 R345): the team's banks are clear. -/
def execBankClearDone (slot : Nat) (s : State) : Out :=
  s.event fun s =>
    match s.team? slot with
    | none => s
    | some t =>
      if t.banksReady then s
      else ((s.setTeam slot { t with banksReady := true }).invalidateKinds slot [0, 1]).wakeCore (coreOfSlot slot)

/-! Swapping (R91, 09 R211, 15 R364, R369). -/

/-- The image of a team is written into the pool (R90, R91).  No rule gives its layout: each byte is a free value (log 43). -/
def State.writeImage (s : State) (t : Team) : State :=
  let a := s.poolBase + t.image
  let bs := (List.range t.imageSize).map fun i => Config.imageByte s.free i
  { s with mem := SMap.putRun 0 s.mem a bs, marks := markWrite 64 s.marks a t.imageSize false, free := s.free + 1,
           queues := wakeQueues s.queues a t.imageSize }

/-- A poisoned granule in an image reaches the team as an error of its saved context (17 Table 17-6). -/
def State.imageMarked (s : State) (t : Team) : Bool := s.hbmMarked (s.poolBase + t.image) t.imageSize

/-- SWAP_OUT_DONE (R91): the team's dirty lines and writes have drained, its load blocks are dropped, its image is in the
pool and its slot is free. -/
def execSwapOutDone (slot : Nat) (s : State) : Out :=
  s.event fun s =>
    match s.team? slot with
    | none => s
    | some t0 =>
      if t0.res ≠ .swappingOut then s
      else
        let s1 := ((s.writeBackTeam slot [0, 1, 2]).performWrites fun w => w.slot = some slot).applyAtoms fun a => a.slot = slot
        let lines := t0.blocks.flatMap fun b => b.2.lines.map (·.1)
        let s2 := lines.foldl (fun (s : State) l => (s.l1WriteBack (coreOfSlot slot) l).l1Drop (coreOfSlot slot) l) s1
        match s2.team? slot with
        | none => s2
        | some t =>
          let img := { t with res := .swapped, blocks := t.blocks.map fun b => (b.1, { b.2 with flag := false }) }
          ({ (s2.writeImage t).releaseSlot slot with swapped := s2.swapped ++ [img] }).updTask t.tid fun k =>
            { k with slots := k.slots.filter (· ≠ slot) }

/-- Refill the lines of a team's load blocks (09 R211). -/
def State.refillBlocks (s : State) (n : Nat) (t : Team) : State :=
  let ktt := ((s.task? t.tid).map (·.ktt)).getD []
  let fill (s : State) (l : Nat × Nat) : State :=
    match ktt.find? fun e => e.covers l.2 && !e.rev with
    | some e => s.l1Fill (coreOfSlot n) l.1 t.asid l.2 e.order
    | none => s
  let s1 := t.blocks.foldl (fun (s : State) b => b.2.lines.foldl fill s) s
  s1.updTeam n fun t => { t with blocks := t.blocks.map fun b => (b.1, { b.2 with flag := !b.2.evicted }) }

/-- SWAP_IN_DONE (R91): the team is resident again.  The swap-in acts as an acquire at system scope (15 R369). -/
def execSwapInDone (slot : Nat) (s : State) : Out :=
  s.event fun s =>
    match s.team? slot with
    | none => s
    | some t =>
      if t.res ≠ .swappingIn then s
      else
        let t1 := { t with res := .resident, since := s.time.toNat, issueTime := 0, tdSlot := t.tdSlot || s.imageMarked t }
        let s1 := ((s.setTeam slot t1).invalidateKinds slot [0, 1]).refillBlocks slot t1
        ((s1.gangHere slot).map coreOfSlot).eraseDups.foldl State.wakeCore s1

/-! Occupancy and quanta (03 R67, 04 R87). -/

/-- OCCUPANCY_TICK (R67): at the next multiple of 10 us every issuing team's occupancy is charged. -/
def execOccupancyTick (s : State) : Out :=
  s.event fun s =>
    let s1 := s.advanceTo s.sched.chargeAt
    let s2 : State := { s1 with sched := { s1.sched with chargeAt := s1.sched.chargeAt + 10000 } }
    (s2.cores.filterMap fun p => p.2.issuing).foldl State.charge s2

/-- QUANTUM_EXPIRY (R87): the issuing team's quantum is over; the core switches as for YIELD, but not while its handler runs (17 R402). -/
def execQuantumExpiry (core : Nat) (s : State) : Out :=
  s.event fun s =>
    match (s.core core).issuing with
    | none => s
    | some n =>
      match s.team? n with
      | none => s
      | some t =>
        if t.inHandler || s.time.toNat < t.issuedAt + (s.queue t.queue).quantum then s
        else if ((s.nextReady core (n % 16)).getD n) = n then s.setTeam n { t with issuedAt := s.time.toNat }
        else s.leave n

end Sys2Proof.Machine
end

