-- ==== Sys2Proof/Machine/EvSwitch.lean ====
section
/-!
DEFINITION. Sys2Proof/Machine/EvSwitch.lean: switching a core (04 R87-R89), pre-emption (R94, R95; 17 R404), the watchdog and
the fence (03 R80, 17 R410).
-/
namespace Sys2Proof.Machine

/-- Time of `n` cycles of a core's clock, in ns. -/
def State.cyclesNs (s : State) (c n : Nat) : Nat := 40 * n / (16 + (s.clk (domainOf c)).step)

/-- SWITCH_COMPLETE (R88): 256 cycles after the halt the incoming team issues.  A team that is no longer ready is passed over. -/
def execSwitchComplete (core : Nat) (s : State) : Out :=
  s.event fun s =>
    let c := s.core core
    match c.issuing, c.incoming with
    | none, some n =>
      let s1 := s.updCore core fun k => { k with incoming := none, at_ := max k.at_ s.time.toNat + s.cyclesNs core 256 }
      match if s.ready n then some n else s.nextReady core c.last with
      | some m => s1.startIssue m (((s.team? m).map fun t => t.hasEngine .me).getD false)
      | none => s1
    | _, _ => s

/-! Pre-emption. -/

/-- A halted gang moves to the pool when it has room (18 Table 18-4, T3) (log 22). -/
def State.swapHalted (s : State) (n : Nat) : State :=
  let ok (m : Nat) : Bool := match s.team? m with
    | some t => t.halted && t.res = .resident
    | none => false
  if s.power.t3 && (s.gangHere n).all ok then s.swapOut (s.gangHere n) else s

/-- What follows a halt that is no kill (log 22): while T3 is asserted the team stays halted and moves to the pool; a halt that the
dispatcher asked for ends with the switch, and the team is ready again. -/
def State.afterHalt (s : State) (n : Nat) : State :=
  match s.team? n with
  | none => s
  | some t =>
    if !t.halted ∨ t.kill.isSome then s
    else if s.power.t3 then s.swapHalted n
    else (s.setTeam n { t with halted := false, preempt := false }).wakeCore (coreOfSlot n)

/-- PREEMPT_REQUEST (R94, R95): the dispatcher asks a team to halt; the whole gang is asked (log 22). -/
def execPreemptRequest (slot : Nat) (s : State) : Out :=
  s.event fun s => (s.gangHere slot).foldl State.afterHalt (s.requestHalt slot none)

/-- TEAM_HALTED (R94, 17 Table 17-5): every engine of an issuing team has halted and its reads have landed; the team is killed, or its
core switches (log 41). -/
def execTeamHalted (slot : Nat) (s : State) : Out :=
  s.event fun s =>
    match s.team? slot with
    | none => s
    | some t =>
      if !t.preempt || t.halted || !s.landed slot t then s
      else
        let s1 := s.haltDone slot
        let s2 := if (s1.team? slot).isSome && (s1.core (coreOfSlot slot)).issuing = some slot
          then s1.switchOut (coreOfSlot slot) slot else s1
        s2.afterHalt slot

/-- When T3 deasserts, the halted teams resume from their boundaries (18 Table 18-4). -/
def State.resumeHalted (s : State) : State :=
  let up (t : Team) : Team := if t.kill.isNone then { t with halted := false, preempt := false } else t
  let s1 : State := { s with teams := s.teams.map fun e => (e.1, up e.2), swapped := s.swapped.map up }
  ((s1.teams.map fun e => coreOfSlot e.1).eraseDups).foldl State.wakeCore s1

/-! The watchdog (03 R80). -/

/-- WATCHDOG_PREEMPT (R80 step 1): every team is asked to halt and killed as it halts; a swapped-out team is killed at once, with a
record that names the slot it last held (log 39). -/
def execWatchdogPreempt (tid : Nat) (s : State) : Out :=
  s.event fun s =>
    match s.task? tid with
    | none => s
    | some k =>
      let tp := (s.queue k.queue).tp.toNat
      if !k.started || s.finished k || k.wdStage ≠ 0 || k.stop.isSome || tp = 0 || s.time.toNat < k.startTime + 16000 * tp then s
      else
        let ns := s.teamsOf tid
        let s1 := s.logRec 0x20 [k.queue, k.tag.toNat, ns.length + (s.swapped.filter (·.tid = tid)).length]
        let s2 := s1.updTask tid fun k => { k with wdStage := 1, haltAt := s.time.toNat }
        let s3 := (s2.swapped.filter (·.tid = tid)).foldl (fun (s : State) t => s.logRec 0x21 [t.queue, t.tag.toNat, t.slot]) s2
        ns.foldl (fun (s : State) n => s.requestHalt n (some 0x05000000)) (s3.dropSwapped tid)

/-- Accesses of a team that are in flight are cancelled; its writes leave the write-drain count (R80, 17 R410). -/
def State.cancelFlight (s : State) (n : Nat) : State :=
  { s with fabric := s.fabric.filter fun w => w.slot ≠ some n, atomq := s.atomq.filter fun a => a.slot ≠ n,
           host := { s.host with outReqs := s.host.outReqs.filter fun q => q.slot ≠ n } }

/-- The record of the watchdog's kill of a job that has not ended, with 0x8000 and the ring stop in place of a slot (R80) (log 39). -/
def State.jobRecord (s : State) (k : Task) : State :=
  match k.ring with
  | some r => if k.jobEnd.isNone && k.stop.isNone then s.logRec 0x21 [k.queue, k.tag.toNat, 0x8000 + r] else s
  | none => s

/-- A job of a device engine stops: at an element boundary, or by force, which its engine now reports (R78, R80) (log 39). -/
def State.jobStopped (s : State) (k : Task) : State :=
  (if k.wdStage = 1 then s.jobRecord k else s).updTask k.id fun (u : Task) =>
    { u with jobEnd := some .stopped, forced := u.forced.filter (· < 128) }

/-- WATCHDOG_FORCE_KILL (R80 step 2): T_k after the request; it also serves a teardown (R78 step 3) (log 39). -/
def execWatchdogForceKill (tid : Nat) (s : State) : Out :=
  s.event fun s =>
    match s.task? tid with
    | none => s
    | some k =>
      let tk := max (s.queue k.queue).tk.toNat 10
      if (k.wdStage ≠ 1 && !(k.wdStage = 0 && k.stop.isSome)) || !k.started || s.time.toNat < k.haltAt + 1000 * tk then s
      else
        let ns := s.teamsOf tid
        let units := (ns.map coreOfSlot).eraseDups ++ (match k.ring with
          | some r => [128 + r]
          | none => [])
        let s1 := s.updTask tid fun k => { k with wdStage := 2, forced := units, forcedAt := s.time.toNat }
        (ns.foldl (fun (s : State) n =>
          match s.team? n with
          | none => s
          | some t => ((s.cancelStamped n t).cancelFlight n).watchKill n (k.stop.getD 0x05000000)) s1).jobRecord k

/-- Fence a core or gather core: isolated, its L1 lost, its requests cancelled, every resident team killed, reset (17 R410) (log 39). -/
def State.fenceCore (s : State) (c : Nat) (tid : Nat) : State :=
  let ns := (slotsOf c).filter fun n => (s.team? n).isSome
  let s1 := ns.foldl (fun (s : State) n =>
    match s.team? n with
    | some t => (s.cancelStamped n t).cancelFlight n
    | none => s) s
  let s2 := s1.updCore c fun k => { k with fenced := true, l1 := [], rows := [] }
  let s3 := ns.foldl (fun (s : State) n =>
    match s.team? n with
    | some t =>
      (if t.tid = tid then s.updTask tid fun k => { k with wdSlots := setInsert n k.wdSlots } else s).killTeam n
        (BitVec.ofNat 32 (0x06000000 + c))
    | none => s) s2
  s3.updCore c fun k => { k with ks0 := none, ks1 := none, issuing := none, incoming := none }

/-- WATCHDOG_FENCE (R80 step 3): T_f after the kill, a unit that has not reported it is fenced.  Units 0-79 are cores and
gather cores, 128-151 device engines; `cut` says that the fence cancels an access of the job (17 R410) (log 39). -/
def execWatchdogFence (tid : Nat) (f : FencedUnit) (s : State) : Out :=
  s.event fun s =>
    match s.task? tid with
    | none => s
    | some k =>
      let tf := max (s.queue k.queue).tf.toNat 10
      if k.wdStage ≠ 2 || !k.forced.contains f.unit || s.time.toNat < k.forcedAt + 1000 * tf then s
      else
        let killed := if f.unit < 80 then ((slotsOf f.unit).filter fun n => (s.team? n).isSome).length else 0
        let s1 := s.logRec 0x22 [k.queue, unitNum f.unit, killed]
        let s2 := s1.updTask tid fun k => { k with wdUnits := setInsert f.unit k.wdUnits, forced := k.forced.filter (· ≠ f.unit) }
        if f.unit < 80 then s2.fenceCore f.unit tid
        else (s2.setTlb (f.unit - 128) []).updTask tid fun k =>
            { k with jobEnd := if k.jobEnd.isSome then k.jobEnd else some (if f.cut then .fenced else .stopped) }

/-- FENCE_RETURN (17 R410 step 5). -/
def execFenceReturn (unit : Nat) (s : State) : Out :=
  s.event fun s => if (s.core unit).fenced then s.updCore unit fun k => { k with fenced := false } else s

end Sys2Proof.Machine
end

