-- ==== Sys2Proof/WellFormed.lean ====
section
/-!
DEFINITION. Sys2Proof/WellFormed.lean: the field values that 07 R140 lets an instruction word hold whatever the state.
Tests against the team's declared resources (VREGS, channels, barriers) need the state and stand with the meanings.
-/
namespace Sys2Proof

/-- Operand selectors that may stand as a source (07 Table 7-7). -/
def selSrc (v : BitVec 8) : Bool :=
  v.toNat ≤ 0x88 || (0x90 ≤ v.toNat && v.toNat ≤ 0x97) || (0xA0 ≤ v.toNat && v.toNat ≤ 0xAF)

/-- Operand selectors that may stand as a destination (07 Table 7-7). -/
def selDst (v : BitVec 8) : Bool :=
  v.toNat ≤ 0x80 || (0x90 ≤ v.toNat && v.toNat ≤ 0x97)

/-- Special register numbers that 07 Table 7-13 lists. -/
def sprListed (n : Nat) : Bool :=
  n ≤ 0x006 || n = 0x008 || (0x010 ≤ n && n ≤ 0x017) || n = 0x020 || n = 0x021 || n = 0x030 || n = 0x031

/-- Completion object ids that 07 Table 7-12 lists. -/
def coListed (o : Nat) : Bool :=
  o ≤ 0x10 || (0x20 ≤ o && o ≤ 0x3F)

/-- Width and bit offset of field F of the nest descriptor (13 Table 13-2). -/
def nestField (f : Nat) : Option (Nat × Nat) :=
  match f with
  | 0 => some (32, 0x00 * 8) | 1 => some (16, 0x04 * 8) | 2 => some (23, 0x06 * 8) | 3 => some (23, 0x09 * 8)
  | 4 => some (23, 0x0C * 8) | 5 => some (23, 0x0F * 8) | 6 => some (23, 0x12 * 8) | 7 => some (23, 0x15 * 8)
  | 8 => some (32, 0x18 * 8) | 9 => some (32, 0x1C * 8) | 10 => some (32, 0x20 * 8) | 11 => some (32, 0x24 * 8)
  | 12 => some (32, 0x28 * 8)
  | f =>
    if f ≤ 48 then
      let at' := (14 * ((f - 13) / 6)) * 8
      match (f - 13) % 6 with
      | 0 => some (16, 0x2C * 8 + at')
      | 1 => some (24, 0x2E * 8 + at')
      | 2 => some (24, 0x31 * 8 + at')
      | 3 => some (24, 0x34 * 8 + at')
      | 4 => some (16, 0x37 * 8 + at')
      | _ => some (3, 0x39 * 8 + at')
    else none

/-- NSET and NSETH refuse an unknown F and a set bit at or above the field's width (07 R151). -/
def nestValueFits (f v : Nat) : Bool :=
  match nestField f with
  | some (w, _) => v < 2 ^ w
  | none => false

/-- Width and bit offset of field F of the transfer descriptor (11 Table 11-4). -/
def xferField (f : Nat) : Option (Nat × Nat) :=
  match f with
  | 0 => some (57, 0x00 * 8) | 1 => some (57, 0x08 * 8) | 2 => some (57, 0x10 * 8)
  | 3 => some (24, 0x18 * 8) | 4 => some (24, 0x1B * 8) | 5 => some (24, 0x1E * 8)
  | 6 => some (24, 0x21 * 8) | 7 => some (24, 0x24 * 8) | 8 => some (24, 0x27 * 8)
  | 9 => some (48, 0x2A * 8)
  | f => if f ≤ 17 then some (16, (0x30 + 2 * (f - 10)) * 8) else none

/-- XSET refuses an unknown F and a set bit at or above the field's width (07 R153). -/
def xferValueFits (f v : Nat) : Bool :=
  match xferField f with
  | some (w, _) => v < 2 ^ w
  | none => false

/-- Every field holds a value its table lists (07 R140).  An operation or event of the device has no encoding and so no
ill-formed field: which of its arguments find an object to act on depends on the state. -/
def Instr.wellFormed : Instr → Bool
  | .add _ _ _ => true
  | .sub _ _ _ => true
  | .and _ _ _ => true
  | .or _ _ _ => true
  | .xor _ _ _ => true
  | .shl _ _ _ => true
  | .shr _ _ _ => true
  | .sar _ _ _ => true
  | .slt _ _ _ => true
  | .sltu _ _ _ => true
  | .min _ _ _ => true
  | .max _ _ _ => true
  | .minu _ _ _ => true
  | .maxu _ _ _ => true
  | .cmov _ _ _ => true
  | .andn _ _ _ => true
  | .mul _ _ _ => true
  | .mulh _ _ _ => true
  | .mulhu _ _ _ => true
  | .div _ _ _ => true
  | .divu _ _ _ => true
  | .rem _ _ _ => true
  | .remu _ _ _ => true
  | .clz _ _ => true
  | .ctz _ _ => true
  | .popc _ _ => true
  | .bfx _ _ _ => true
  | .bfxs _ _ _ => true
  | .bfi _ _ _ => true
  | .addi _ _ _ => true
  | .andi _ _ _ => true
  | .ori _ _ _ => true
  | .xori _ _ _ => true
  | .slti _ _ _ => true
  | .sltui _ _ _ => true
  | .shli _ _ _ => true
  | .shri _ _ _ => true
  | .sari _ _ _ => true
  | .lui _ _ => true
  | .auipc _ _ => true
  | .beq _ _ _ => true
  | .bne _ _ _ => true
  | .blt _ _ _ => true
  | .bge _ _ _ => true
  | .bltu _ _ _ => true
  | .bgeu _ _ _ => true
  | .j _ => true
  | .jal _ => true
  | .jalr _ _ _ => true
  | .loop _ l => l ≠ 0
  | .ldb _ _ _ _ => true
  | .ldbu _ _ _ _ => true
  | .ldh _ _ _ _ => true
  | .ldhu _ _ _ _ => true
  | .ldw _ _ _ _ => true
  | .ldwu _ _ _ _ => true
  | .ldd _ _ _ _ => true
  | .stb _ _ _ => true
  | .sth _ _ _ => true
  | .stw _ _ _ => true
  | .std _ _ _ => true
  | .lds _ _ _ _ => true
  | .sts _ _ _ _ => true
  | .ldp _ _ _ _ => true
  | .atomSwap _ _ _ _ _ => true
  | .atomAdd _ _ _ _ _ => true
  | .atomAnd _ _ _ _ _ => true
  | .atomOr _ _ _ _ _ => true
  | .atomXor _ _ _ _ _ => true
  | .atomMin _ _ _ _ _ => true
  | .atomMax _ _ _ _ _ => true
  | .atomMinu _ _ _ _ _ => true
  | .atomMaxu _ _ _ _ _ => true
  | .cas _ _ _ _ _ => true
  | .redAdd _ _ _ _ _ => true
  | .redAnd _ _ _ _ _ => true
  | .redOr _ _ _ _ _ => true
  | .redXor _ _ _ _ _ => true
  | .redMin _ _ _ _ _ => true
  | .redMax _ _ _ _ _ => true
  | .redMinu _ _ _ _ _ => true
  | .redMaxu _ _ _ _ _ => true
  | .redFadd32 _ _ _ _ => true
  | .redFadd64 _ _ _ _ => true
  | .lda _ _ u z _ => (z ≠ 3 || u = 0)
  | .stl _ _ _ _ => true
  | .fenceAcq _ => true
  | .fenceRel _ => true
  | .ldblk f _ _ => f.toNat ≤ 31
  | .blkwait f => f.toNat ≤ 31
  | .blkfree f => f.toNat ≤ 31
  | .chwf _ _ => true
  | .chwe _ _ => true
  | .chap _ _ => true
  | .chac _ _ => true
  | .chst _ _ => true
  | .binit _ => true
  | .barr _ => true
  | .bexp _ _ => true
  | .bwait _ _ => true
  | .estart m => m ≠ 0
  | .ewait m => m ≠ 0
  | .estop m => m ≠ 0
  | .mfs _ n => sprListed n.toNat
  | .mts _ n => sprListed n.toNat
  | .swpt _ => true
  | .falloc _ => true
  | .fresResolve _ _ _ => true
  | .fresFail _ _ _ => true
  | .fresCancel _ _ => true
  | .fresFree _ _ => true
  | .fresReset _ _ => true
  | .fwait _ _ => true
  | .fpoll _ _ => true
  | .tktake _ _ => true
  | .tkwait _ _ => true
  | .tkserve _ => true
  | .qenq _ _ _ => true
  | .qdeq _ _ _ => true
  | .tsub _ _ _ => true
  | .snap _ _ _ => true
  | .sresv _ _ _ => true
  | .sacc _ => true
  | .srej _ => true
  | .sqry _ _ => true
  | .ldv _ _ _ => true
  | .tdcls _ _ => true
  | .tdscan _ _ => true
  | .cwb _ _ => true
  | .cinv _ _ => true
  | .cwbi _ _ => true
  | .trap _ => true
  | .brk _ => true
  | .vsetsh _ _ _ _ => true
  | .vchmap _ _ _ => true
  | .vsetpat _ _ _ _ => true
  | .vsetpatHdr _ _ => true
  | .vloop _ l => l ≠ 0
  | .vjmp _ => true
  | .vswpt _ => true
  | .vadvc _ => true
  | .vadvp _ => true
  | .vwaitb _ _ => true
  | .vadd d a b => selDst d && selSrc a && selSrc b
  | .vsub d a b => selDst d && selSrc a && selSrc b
  | .vmul d a b => selDst d && selSrc a && selSrc b
  | .vmulh d a b => selDst d && selSrc a && selSrc b
  | .vfma d a b => selDst d && selSrc a && selSrc b
  | .vfms d a b => selDst d && selSrc a && selSrc b
  | .vmin d a b => selDst d && selSrc a && selSrc b
  | .vmax d a b => selDst d && selSrc a && selSrc b
  | .vabs d a => selDst d && selSrc a
  | .vneg d a => selDst d && selSrc a
  | .vadds d a b => selDst d && selSrc a && selSrc b
  | .vsubs d a b => selDst d && selSrc a && selSrc b
  | .vavg d a b => selDst d && selSrc a && selSrc b
  | .vabd d a b => selDst d && selSrc a && selSrc b
  | .vand d a b => selDst d && selSrc a && selSrc b
  | .vor d a b => selDst d && selSrc a && selSrc b
  | .vxor d a b => selDst d && selSrc a && selSrc b
  | .vnot d a => selDst d && selSrc a
  | .vshl d a b => selDst d && selSrc a && selSrc b
  | .vshr d a b => selDst d && selSrc a && selSrc b
  | .vsar d a b => selDst d && selSrc a && selSrc b
  | .vshli d a _ => selDst d && selSrc a
  | .vshri d a _ => selDst d && selSrc a
  | .vsari d a _ => selDst d && selSrc a
  | .vclz d a => selDst d && selSrc a
  | .vpopc d a => selDst d && selSrc a
  | .vdiv d a b => selDst d && selSrc a && selSrc b
  | .vsqrt d a => selDst d && selSrc a
  | .vrcp d a => selDst d && selSrc a
  | .vrsq d a => selDst d && selSrc a
  | .vexp2 d a => selDst d && selSrc a
  | .vlog2 d a => selDst d && selSrc a
  | .vclass d a => selDst d && selSrc a
  | .vcmp c _ a b => selSrc a && selSrc b && c.toNat ≤ 7
  | .vsel d a b => selDst d && selSrc a && selSrc b
  | .mand _ _ _ => true
  | .mor _ _ _ => true
  | .mxor _ _ _ => true
  | .mnot _ _ => true
  | .mpopc _ _ => true
  | .mfirst _ _ => true
  | .vcvt d a t => selDst d && selSrc a && t.toNat ≤ 10
  | .vwiden d a t => selDst d && selSrc a && t.toNat ≤ 10
  | .vnarrow d a t => selDst d && selSrc a && t.toNat ≤ 10
  | .vquant d a b => selDst d && selSrc a && selSrc b
  | .vdeq d a b => selDst d && selSrc a && selSrc b
  | .vrsum d a => selDst d && selSrc a
  | .vrmax d a => selDst d && selSrc a
  | .vrmin d a => selDst d && selSrc a
  | .vscan d a => selDst d && selSrc a
  | .vperm d a b => selDst d && selSrc a && selSrc b
  | .vslide d a _ => selDst d && selSrc a
  | .vbcast d a _ => selDst d && selSrc a
  | .vcomp d a => selDst d && selSrc a
  | .vexpd d a => selDst d && selSrc a
  | .kli _ _ => true
  | .kadd _ _ _ => true
  | .kmul _ _ _ => true
  | .kfadd _ _ _ => true
  | .kget _ a _ => selSrc a
  | .vins d _ _ => selDst d
  | .kmfs _ n => sprListed n.toNat
  | .xsetXreg _ _ => true
  | .xaddi _ _ => true
  | .vld d _ _ => selDst d
  | .vst d _ _ => selSrc d
  | .vlds d _ _ _ => selDst d
  | .vsts d _ _ _ => selSrc d
  | .vldx d _ a => selDst d && selSrc a
  | .vstx d _ a => selSrc d && selSrc a
  | .vldp d _ _ => selDst d
  | .vldb d _ _ => selDst d
  | .nset f v => nestValueFits f.toNat v.toNat
  | .nseth f v => nestValueFits f.toNat (v.toNat * 2 ^ 20)
  | .nld _ => true
  | .mgo o _ _ => coListed o.toNat
  | .mwait n => n.toNat ≤ 3
  | .mloop _ l => l ≠ 0
  | .mjmp _ => true
  | .mswpt _ => true
  | .mwaitb _ _ _ => true
  | .xld _ => true
  | .xset f p v => p.toNat ≤ 2 && xferValueFits f.toNat (v.toNat * 2 ^ (19 * p.toNat))
  | .xgo o _ => coListed o.toNat
  | .xwait _ => true
  | .xmc o _ => coListed o.toNat
  | .xconv o _ => coListed o.toNat
  | .xdec o _ => coListed o.toNat
  | .xgath o _ => coListed o.toNat
  | .xscat o _ => coListed o.toNat
  | .xloop _ l => l ≠ 0
  | .xjmp _ => true
  | .xswpt _ => true
  | .xwaitb _ _ _ => true
  | .xpushr o _ => coListed o.toNat
  | .lpop o _ _ => coListed o.toNat
  | .lpeek o _ _ => coListed o.toNat
  | .gfetch o _ _ => coListed o.toNat
  | .gshift o _ _ => coListed o.toNat
  | .gpool o _ _ => coListed o.toNat
  | .gdone o => coListed o.toNat
  | .fenceFullT => true
  | .fenceFullC => true
  | .fenceFullD => true
  | .fenceFullS => true
  | .yield => true
  | .pstart => true
  | .pwait => true
  | .exit => true
  | .exitErr => true
  | .eret => true
  | .vend => true
  | .mend => true
  | .mclr0 => true
  | .mclr1 => true
  | .mclrBoth => true
  | .mdrain => true
  | .xend => true
  | .switchPointJump _ => true
  | .registerWrite _ _ => true
  | .queueEnable _ => true
  | .queueDisable _ => true
  | .queueTeardown _ => true
  | .queueReset _ => true
  | .teardownFinish _ => true
  | .futureAllocRead _ => true
  | .queueWake _ => true
  | .recordAdmit _ => true
  | .taskFutureResolve _ => true
  | .taskFutureFail _ => true
  | .taskFutureCancel _ => true
  | .taskFutureFree _ => true
  | .taskFutureReset _ => true
  | .taskTicketServe _ => true
  | .taskTicketInit _ => true
  | .teamPlace _ _ _ _ => true
  | .kernelSlotLoaded _ _ => true
  | .bankClearDone _ => true
  | .swapOutDone _ => true
  | .swapInDone _ => true
  | .occupancyTick => true
  | .classStarved _ => true
  | .quantumExpiry _ => true
  | .switchComplete _ => true
  | .meSwitchDone _ => true
  | .preemptRequest _ => true
  | .teamHalted _ => true
  | .watchdogPreempt _ => true
  | .watchdogForceKill _ => true
  | .watchdogFence _ _ => true
  | .fenceReturn _ => true
  | .taskRetire _ => true
  | .decodeJob _ _ => true
  | .cmuJob _ => true
  | .listJob _ => true
  | .copyJob _ _ => true
  | .collectiveJob _ _ => true
  | .collectiveStagePass _ => true
  | .collectiveTimeout _ => true
  | .tlbMissProbe _ _ _ => true
  | .pageWalk _ _ _ _ => true
  | .invalidateGo _ => true
  | .invalidateAck => true
  | .loadDataArrival _ _ => true
  | .timedLanding _ _ => true
  | .lateLandingFreeze _ => true
  | .completionDeadline _ _ => true
  | .tuJobComplete _ _ => true
  | .pushClaim _ _ => true
  | .windowLanding _ => true
  | .nestValidated _ => true
  | .meBLoadDone _ => true
  | .mePassDone _ => true
  | .meBoundaryDone _ => true
  | .meDrainDone _ => true
  | .nestComplete _ => true
  | .mclrClear _ => true
  | .mdrainClear _ => true
  | .loadBlockFilled _ _ => true
  | .writeDrainDone _ => true
  | .taggedWrite _ => true
  | .restorerWorkDone => true
  | .lineRecall _ => true
  | .atomicApply _ => true
  | .patrolScrub _ _ _ => true
  | .uncorrectableError _ _ _ => true
  | .correctedError _ => true
  | .faultHalt _ => true
  | .handlerEntry _ => true
  | .asyncFault _ => true
  | .clusterGate _ => true
  | .gatedBounce _ _ _ => true
  | .powerEstimateTick _ => true
  | .fllStep _ => true
  | .boostArbiterSample => true
  | .permitIntervalEnd => true
  | .bstbudWrite _ => true
  | .pwrqWrite _ _ => true
  | .sensorSample _ => true
  | .t4PowerRemove => true
  | .hostBar2Read _ _ => true
  | .hostBar2Write _ _ _ => true
  | .hostAtomicop _ _ _ _ _ => true
  | .peerRequest _ _ _ _ _ _ _ => true
  | .outboundCompletion _ _ _ => true
  | .completionTimeout _ => true
  | .linkDown _ => true
  | .linkRetrain _ _ _ => true
  | .getVersion => true
  | .getCapabilities => true
  | .negotiateAlgorithms _ => true
  | .getDigests => true
  | .getCertificate _ => true
  | .challenge _ => true
  | .getMeasurements _ => true
  | .keyExchange _ => true
  | .finish _ => true
  | .endSession => true
  | .logRead _ _ => true
  | .marginingRequest _ => true
  | .marginingDone => true
  | .powerOnStart => true
  | .firmwareVerified _ _ _ => true
  | .sensorsRead _ => true
  | .selfHeatEnd _ => true
  | .hbmTrained _ => true
  | .pcieTrained _ => true
  | .schedulerStarted _ => true
  | .hbmRetrain _ _ => true
  | .deviceUnitReply _ => true
  | .marginingCommand _ _ _ => true
  | .powerLoss => true
  | .recordsSummarised _ _ _ => true

end Sys2Proof
end

