-- ==== Sys2Proof/Decode.lean ====
section
/-!
DEFINITION. Sys2Proof/Decode.lean: from the 32 bits of a word to an instruction of the engine that issues it, or a named
rejection (07 R139-R154), and the encoder back.  Each engine decodes words with its own formats, so `decode` takes the
engine.  Fields are read with division and remainder on the word's number, so that a round trip is linear arithmetic.
-/
namespace Sys2Proof

/-- The number in bits [lo + n - 1 : lo] of a word. -/
def fld (w lo n : Nat) : Nat := w / 2 ^ lo % 2 ^ n

/-- The same field as a bit vector of its width. -/
def bf (w lo n : Nat) : BitVec n := BitVec.ofNat n (w / 2 ^ lo)

theorem bf_toNat (w lo n : Nat) : (bf w lo n).toNat = fld w lo n := by
  simp [bf, fld]

/-- Why a word is no instruction of the engine that issues it (07 R140); each raises ILLOP at the word. -/
inductive DecodeError where
  /-- the word is all zero -/
  | zeroWord
  /-- no row of the engine's tables has the word's fixed bits: a reserved opcode, function, sub-function, condition or
  part, or a set bit in a field marked zero -/
  | reserved
  /-- a gather-only word outside the GQ -/
  | gatherOnly
  /-- a field holds a value outside the range its table states -/
  | badField
deriving DecidableEq, Repr

def sqOp01 (w : Nat) : Option Instr :=
  if fld w 0 8 = 0x0 then some (.add (bf w 20 6) (bf w 14 6) (bf w 8 6))
  else if fld w 0 8 = 0x1 then some (.sub (bf w 20 6) (bf w 14 6) (bf w 8 6))
  else if fld w 0 8 = 0x2 then some (.and (bf w 20 6) (bf w 14 6) (bf w 8 6))
  else if fld w 0 8 = 0x3 then some (.or (bf w 20 6) (bf w 14 6) (bf w 8 6))
  else if fld w 0 8 = 0x4 then some (.xor (bf w 20 6) (bf w 14 6) (bf w 8 6))
  else if fld w 0 8 = 0x5 then some (.shl (bf w 20 6) (bf w 14 6) (bf w 8 6))
  else if fld w 0 8 = 0x6 then some (.shr (bf w 20 6) (bf w 14 6) (bf w 8 6))
  else if fld w 0 8 = 0x7 then some (.sar (bf w 20 6) (bf w 14 6) (bf w 8 6))
  else if fld w 0 8 = 0x8 then some (.slt (bf w 20 6) (bf w 14 6) (bf w 8 6))
  else if fld w 0 8 = 0x9 then some (.sltu (bf w 20 6) (bf w 14 6) (bf w 8 6))
  else if fld w 0 8 = 0xA then some (.min (bf w 20 6) (bf w 14 6) (bf w 8 6))
  else if fld w 0 8 = 0xB then some (.max (bf w 20 6) (bf w 14 6) (bf w 8 6))
  else if fld w 0 8 = 0xC then some (.minu (bf w 20 6) (bf w 14 6) (bf w 8 6))
  else if fld w 0 8 = 0xD then some (.maxu (bf w 20 6) (bf w 14 6) (bf w 8 6))
  else if fld w 0 8 = 0xE then some (.cmov (bf w 20 6) (bf w 14 6) (bf w 8 6))
  else if fld w 0 8 = 0xF then some (.andn (bf w 20 6) (bf w 14 6) (bf w 8 6))
  else if fld w 0 8 = 0x10 then some (.mul (bf w 20 6) (bf w 14 6) (bf w 8 6))
  else if fld w 0 8 = 0x11 then some (.mulh (bf w 20 6) (bf w 14 6) (bf w 8 6))
  else if fld w 0 8 = 0x12 then some (.mulhu (bf w 20 6) (bf w 14 6) (bf w 8 6))
  else if fld w 0 8 = 0x13 then some (.div (bf w 20 6) (bf w 14 6) (bf w 8 6))
  else if fld w 0 8 = 0x14 then some (.divu (bf w 20 6) (bf w 14 6) (bf w 8 6))
  else if fld w 0 8 = 0x15 then some (.rem (bf w 20 6) (bf w 14 6) (bf w 8 6))
  else if fld w 0 8 = 0x16 then some (.remu (bf w 20 6) (bf w 14 6) (bf w 8 6))
  else if fld w 0 8 = 0x18 ∧ fld w 8 6 = 0x0 then some (.clz (bf w 20 6) (bf w 14 6))
  else if fld w 0 8 = 0x19 ∧ fld w 8 6 = 0x0 then some (.ctz (bf w 20 6) (bf w 14 6))
  else if fld w 0 8 = 0x1A ∧ fld w 8 6 = 0x0 then some (.popc (bf w 20 6) (bf w 14 6))
  else if fld w 0 8 = 0x20 then some (.bfx (bf w 20 6) (bf w 14 6) (bf w 8 6))
  else if fld w 0 8 = 0x21 then some (.bfxs (bf w 20 6) (bf w 14 6) (bf w 8 6))
  else if fld w 0 8 = 0x22 then some (.bfi (bf w 20 6) (bf w 14 6) (bf w 8 6))
  else none

def sqOp08 (w : Nat) : Option Instr :=
  if fld w 6 8 = 0x0 then some (.shli (bf w 20 6) (bf w 14 6) (bf w 0 6))
  else if fld w 6 8 = 0x40 then some (.shri (bf w 20 6) (bf w 14 6) (bf w 0 6))
  else if fld w 6 8 = 0x80 then some (.sari (bf w 20 6) (bf w 14 6) (bf w 0 6))
  else none

def sqOp14 (w : Nat) : Option Instr :=
  if fld w 13 1 = 0x0 ∧ fld w 20 6 = 0x0 then some (.loop (bf w 14 6) (bf w 0 13))
  else none

def sqOp1C (w : Nat) : Option Instr :=
  if fld w 8 6 = 0x0 then some (.stb (bf w 20 6) (bf w 14 6) (bf w 0 8))
  else none

def sqOp1D (w : Nat) : Option Instr :=
  if fld w 8 6 = 0x0 then some (.sth (bf w 20 6) (bf w 14 6) (bf w 0 8))
  else none

def sqOp1E (w : Nat) : Option Instr :=
  if fld w 8 6 = 0x0 then some (.stw (bf w 20 6) (bf w 14 6) (bf w 0 8))
  else none

def sqOp1F (w : Nat) : Option Instr :=
  if fld w 8 6 = 0x0 then some (.std (bf w 20 6) (bf w 14 6) (bf w 0 8))
  else none

def sqOp23 (w : Nat) : Option Instr :=
  if fld w 0 4 = 0x0 then some (.atomSwap (bf w 20 6) (bf w 14 6) (bf w 8 6) (bf w 6 2) (bf w 4 2))
  else if fld w 0 4 = 0x1 then some (.atomAdd (bf w 20 6) (bf w 14 6) (bf w 8 6) (bf w 6 2) (bf w 4 2))
  else if fld w 0 4 = 0x2 then some (.atomAnd (bf w 20 6) (bf w 14 6) (bf w 8 6) (bf w 6 2) (bf w 4 2))
  else if fld w 0 4 = 0x3 then some (.atomOr (bf w 20 6) (bf w 14 6) (bf w 8 6) (bf w 6 2) (bf w 4 2))
  else if fld w 0 4 = 0x4 then some (.atomXor (bf w 20 6) (bf w 14 6) (bf w 8 6) (bf w 6 2) (bf w 4 2))
  else if fld w 0 4 = 0x5 then some (.atomMin (bf w 20 6) (bf w 14 6) (bf w 8 6) (bf w 6 2) (bf w 4 2))
  else if fld w 0 4 = 0x6 then some (.atomMax (bf w 20 6) (bf w 14 6) (bf w 8 6) (bf w 6 2) (bf w 4 2))
  else if fld w 0 4 = 0x7 then some (.atomMinu (bf w 20 6) (bf w 14 6) (bf w 8 6) (bf w 6 2) (bf w 4 2))
  else if fld w 0 4 = 0x8 then some (.atomMaxu (bf w 20 6) (bf w 14 6) (bf w 8 6) (bf w 6 2) (bf w 4 2))
  else none

def sqOp24 (w : Nat) : Option Instr :=
  if fld w 0 4 = 0x0 then some (.cas (bf w 20 6) (bf w 14 6) (bf w 8 6) (bf w 6 2) (bf w 4 2))
  else none

def sqOp25 (w : Nat) : Option Instr :=
  if fld w 0 4 = 0x0 ∧ fld w 6 1 = 0x0 ∧ fld w 21 5 = 0x1 then some (.redAdd (bf w 20 1) (bf w 14 6) (bf w 8 6) (bf w 7 1) (bf w 4 2))
  else if fld w 0 4 = 0x1 ∧ fld w 6 1 = 0x0 ∧ fld w 21 5 = 0x1 then some (.redAnd (bf w 20 1) (bf w 14 6) (bf w 8 6) (bf w 7 1) (bf w 4 2))
  else if fld w 0 4 = 0x2 ∧ fld w 6 1 = 0x0 ∧ fld w 21 5 = 0x1 then some (.redOr (bf w 20 1) (bf w 14 6) (bf w 8 6) (bf w 7 1) (bf w 4 2))
  else if fld w 0 4 = 0x3 ∧ fld w 6 1 = 0x0 ∧ fld w 21 5 = 0x1 then some (.redXor (bf w 20 1) (bf w 14 6) (bf w 8 6) (bf w 7 1) (bf w 4 2))
  else if fld w 0 4 = 0x4 ∧ fld w 6 1 = 0x0 ∧ fld w 21 5 = 0x1 then some (.redMin (bf w 20 1) (bf w 14 6) (bf w 8 6) (bf w 7 1) (bf w 4 2))
  else if fld w 0 4 = 0x5 ∧ fld w 6 1 = 0x0 ∧ fld w 21 5 = 0x1 then some (.redMax (bf w 20 1) (bf w 14 6) (bf w 8 6) (bf w 7 1) (bf w 4 2))
  else if fld w 0 4 = 0x6 ∧ fld w 6 1 = 0x0 ∧ fld w 21 5 = 0x1 then some (.redMinu (bf w 20 1) (bf w 14 6) (bf w 8 6) (bf w 7 1) (bf w 4 2))
  else if fld w 0 4 = 0x7 ∧ fld w 6 1 = 0x0 ∧ fld w 21 5 = 0x1 then some (.redMaxu (bf w 20 1) (bf w 14 6) (bf w 8 6) (bf w 7 1) (bf w 4 2))
  else if fld w 0 4 = 0x8 ∧ fld w 6 1 = 0x0 ∧ fld w 20 1 = 0x0 ∧ fld w 21 5 = 0x1 then some (.redFadd32 (bf w 14 6) (bf w 8 6) (bf w 7 1) (bf w 4 2))
  else if fld w 0 4 = 0x9 ∧ fld w 6 1 = 0x0 ∧ fld w 20 1 = 0x1 ∧ fld w 21 5 = 0x1 then some (.redFadd64 (bf w 14 6) (bf w 8 6) (bf w 7 1) (bf w 4 2))
  else none

def sqOp26 (w : Nat) : Option Instr :=
  if fld w 5 9 = 0x0 then some (.lda (bf w 20 6) (bf w 14 6) (bf w 4 1) (bf w 2 2) (bf w 0 2))
  else if fld w 4 1 = 0x0 ∧ fld w 5 9 = 0x20 then some (.stl (bf w 20 6) (bf w 14 6) (bf w 2 2) (bf w 0 2))
  else if fld w 0 2 = 0x0 ∧ fld w 2 2 = 0x0 ∧ fld w 4 1 = 0x0 ∧ fld w 5 9 = 0x40 ∧ fld w 14 6 = 0x0 ∧ fld w 20 6 = 0x0 then some (.fenceFullT)
  else if fld w 0 2 = 0x1 ∧ fld w 2 2 = 0x0 ∧ fld w 4 1 = 0x0 ∧ fld w 5 9 = 0x40 ∧ fld w 14 6 = 0x0 ∧ fld w 20 6 = 0x0 then some (.fenceFullC)
  else if fld w 0 2 = 0x2 ∧ fld w 2 2 = 0x0 ∧ fld w 4 1 = 0x0 ∧ fld w 5 9 = 0x40 ∧ fld w 14 6 = 0x0 ∧ fld w 20 6 = 0x0 then some (.fenceFullD)
  else if fld w 0 2 = 0x3 ∧ fld w 2 2 = 0x0 ∧ fld w 4 1 = 0x0 ∧ fld w 5 9 = 0x40 ∧ fld w 14 6 = 0x0 ∧ fld w 20 6 = 0x0 then some (.fenceFullS)
  else if fld w 2 2 = 0x1 ∧ fld w 4 1 = 0x0 ∧ fld w 5 9 = 0x40 ∧ fld w 14 6 = 0x0 ∧ fld w 20 6 = 0x0 then some (.fenceAcq (bf w 0 2))
  else if fld w 2 2 = 0x2 ∧ fld w 4 1 = 0x0 ∧ fld w 5 9 = 0x40 ∧ fld w 14 6 = 0x0 ∧ fld w 20 6 = 0x0 then some (.fenceRel (bf w 0 2))
  else none

def sqOp27 (w : Nat) : Option Instr :=
  if fld w 6 8 = 0x0 then some (.ldblk (bf w 20 6) (bf w 14 6) (bf w 0 6))
  else if fld w 0 6 = 0x0 ∧ fld w 6 8 = 0x10 ∧ fld w 14 6 = 0x0 then some (.blkwait (bf w 20 6))
  else if fld w 0 6 = 0x0 ∧ fld w 6 8 = 0x20 ∧ fld w 14 6 = 0x0 then some (.blkfree (bf w 20 6))
  else none

def sqOp28 (w : Nat) : Option Instr :=
  if fld w 10 10 = 0x0 ∧ fld w 20 6 = 0x0 then some (.chwf (bf w 4 6) (bf w 0 4))
  else if fld w 10 10 = 0x1 ∧ fld w 20 6 = 0x0 then some (.chwe (bf w 4 6) (bf w 0 4))
  else if fld w 10 10 = 0x2 ∧ fld w 20 6 = 0x0 then some (.chap (bf w 4 6) (bf w 0 4))
  else if fld w 10 10 = 0x3 ∧ fld w 20 6 = 0x0 then some (.chac (bf w 4 6) (bf w 0 4))
  else if fld w 4 6 = 0x0 ∧ fld w 10 10 = 0x4 then some (.chst (bf w 20 6) (bf w 0 4))
  else none

def sqOp29 (w : Nat) : Option Instr :=
  if fld w 5 9 = 0x0 ∧ fld w 14 6 = 0x0 ∧ fld w 20 6 = 0x0 then some (.binit (bf w 0 5))
  else if fld w 5 9 = 0x20 ∧ fld w 14 6 = 0x0 ∧ fld w 20 6 = 0x0 then some (.barr (bf w 0 5))
  else if fld w 5 9 = 0x40 ∧ fld w 20 6 = 0x0 then some (.bexp (bf w 14 6) (bf w 0 5))
  else if fld w 5 9 = 0x60 ∧ fld w 20 6 = 0x0 then some (.bwait (bf w 14 6) (bf w 0 5))
  else none

def sqOp2A (w : Nat) : Option Instr :=
  if fld w 5 21 = 0x0 then some (.estart (bf w 0 5))
  else if fld w 5 21 = 0x20 then some (.ewait (bf w 0 5))
  else if fld w 5 21 = 0x40 then some (.estop (bf w 0 5))
  else none

def sqOp2B (w : Nat) : Option Instr :=
  if fld w 10 4 = 0x0 ∧ fld w 14 6 = 0x0 then some (.mfs (bf w 20 6) (bf w 0 10))
  else if fld w 10 4 = 0x1 ∧ fld w 20 6 = 0x0 then some (.mts (bf w 14 6) (bf w 0 10))
  else none

def sqOp2C (w : Nat) : Option Instr :=
  if fld w 0 1 = 0x0 ∧ fld w 1 7 = 0x0 ∧ fld w 8 18 = 0x0 then some (.yield)
  else if fld w 8 18 = 0x4 then some (.swpt (bf w 0 8))
  else if fld w 0 1 = 0x0 ∧ fld w 1 7 = 0x0 ∧ fld w 8 18 = 0x8 then some (.pstart)
  else if fld w 0 1 = 0x0 ∧ fld w 1 7 = 0x0 ∧ fld w 8 18 = 0xC then some (.pwait)
  else if fld w 0 1 = 0x0 ∧ fld w 1 7 = 0x0 ∧ fld w 8 18 = 0x10 then some (.exit)
  else if fld w 0 1 = 0x1 ∧ fld w 1 7 = 0x0 ∧ fld w 8 18 = 0x10 then some (.exitErr)
  else none

def sqOp2D (w : Nat) : Option Instr :=
  if fld w 0 8 = 0x0 ∧ fld w 8 6 = 0x0 ∧ fld w 14 6 = 0x0 then some (.falloc (bf w 20 6))
  else if fld w 0 8 = 0x1 then some (.fresResolve (bf w 20 6) (bf w 14 6) (bf w 8 6))
  else if fld w 0 8 = 0x2 then some (.fresFail (bf w 20 6) (bf w 14 6) (bf w 8 6))
  else if fld w 0 8 = 0x3 ∧ fld w 8 6 = 0x0 then some (.fresCancel (bf w 20 6) (bf w 14 6))
  else if fld w 0 8 = 0x4 ∧ fld w 8 6 = 0x0 then some (.fresFree (bf w 20 6) (bf w 14 6))
  else if fld w 0 8 = 0x5 ∧ fld w 8 6 = 0x0 then some (.fresReset (bf w 20 6) (bf w 14 6))
  else if fld w 0 8 = 0x8 ∧ fld w 8 6 = 0x0 then some (.fwait (bf w 20 6) (bf w 14 6))
  else if fld w 0 8 = 0x9 ∧ fld w 8 6 = 0x0 then some (.fpoll (bf w 20 6) (bf w 14 6))
  else none

def sqOp2E (w : Nat) : Option Instr :=
  if fld w 0 8 = 0x0 ∧ fld w 8 6 = 0x0 then some (.tktake (bf w 20 6) (bf w 14 6))
  else if fld w 0 8 = 0x1 ∧ fld w 20 6 = 0x0 then some (.tkwait (bf w 14 6) (bf w 8 6))
  else if fld w 0 8 = 0x2 ∧ fld w 8 6 = 0x0 ∧ fld w 20 6 = 0x0 then some (.tkserve (bf w 14 6))
  else none

def sqOp2F (w : Nat) : Option Instr :=
  if fld w 0 8 = 0x0 then some (.qenq (bf w 20 6) (bf w 14 6) (bf w 8 6))
  else if fld w 0 8 = 0x1 then some (.qdeq (bf w 20 6) (bf w 14 6) (bf w 8 6))
  else none

def sqOp30 (w : Nat) : Option Instr :=
  if fld w 0 8 = 0x0 then some (.tsub (bf w 20 6) (bf w 14 6) (bf w 8 6))
  else none

def sqOp31 (w : Nat) : Option Instr :=
  if fld w 0 8 = 0x0 then some (.snap (bf w 20 6) (bf w 14 6) (bf w 8 6))
  else if fld w 0 8 = 0x1 then some (.sresv (bf w 20 6) (bf w 14 6) (bf w 8 6))
  else if fld w 0 8 = 0x2 ∧ fld w 8 6 = 0x0 ∧ fld w 20 6 = 0x0 then some (.sacc (bf w 14 6))
  else if fld w 0 8 = 0x3 ∧ fld w 8 6 = 0x0 ∧ fld w 20 6 = 0x0 then some (.srej (bf w 14 6))
  else if fld w 0 8 = 0x4 ∧ fld w 8 6 = 0x0 then some (.sqry (bf w 20 6) (bf w 14 6))
  else if fld w 0 8 = 0x5 then some (.ldv (bf w 20 6) (bf w 14 6) (bf w 8 6))
  else none

def sqOp32 (w : Nat) : Option Instr :=
  if fld w 0 10 = 0x0 ∧ fld w 10 4 = 0x0 then some (.tdcls (bf w 20 6) (bf w 14 6))
  else if fld w 10 4 = 0x1 ∧ fld w 20 6 = 0x0 then some (.tdscan (bf w 14 6) (bf w 0 10))
  else none

def sqOp33 (w : Nat) : Option Instr :=
  if fld w 10 4 = 0x0 ∧ fld w 20 6 = 0x0 then some (.cwb (bf w 14 6) (bf w 0 10))
  else if fld w 10 4 = 0x1 ∧ fld w 20 6 = 0x0 then some (.cinv (bf w 14 6) (bf w 0 10))
  else if fld w 10 4 = 0x2 ∧ fld w 20 6 = 0x0 then some (.cwbi (bf w 14 6) (bf w 0 10))
  else none

def sqOp34 (w : Nat) : Option Instr :=
  if fld w 10 16 = 0x0 then some (.trap (bf w 0 10))
  else if fld w 10 16 = 0x1 then some (.brk (bf w 0 10))
  else if fld w 0 10 = 0x0 ∧ fld w 10 16 = 0x2 then some (.eret)
  else none

/-- The row of a SQ word (07 R142-R144, Tables 7-1 to 7-4) whose fixed bits the word has.  Fields are read in place; values a
field may not hold are refused by `decode`. -/
def decodeSq (w : Nat) : Option Instr :=
  match w / 2 ^ 26 with
  | 0x01 => sqOp01 w
  | 0x02 => some (.addi (bf w 20 6) (bf w 14 6) (bf w 0 14))
  | 0x03 => some (.andi (bf w 20 6) (bf w 14 6) (bf w 0 14))
  | 0x04 => some (.ori (bf w 20 6) (bf w 14 6) (bf w 0 14))
  | 0x05 => some (.xori (bf w 20 6) (bf w 14 6) (bf w 0 14))
  | 0x06 => some (.slti (bf w 20 6) (bf w 14 6) (bf w 0 14))
  | 0x07 => some (.sltui (bf w 20 6) (bf w 14 6) (bf w 0 14))
  | 0x08 => sqOp08 w
  | 0x09 => some (.lui (bf w 20 6) (bf w 0 20))
  | 0x0A => some (.auipc (bf w 20 6) (bf w 0 20))
  | 0x0B => some (.beq (bf w 20 6) (bf w 14 6) (bf w 0 14))
  | 0x0C => some (.bne (bf w 20 6) (bf w 14 6) (bf w 0 14))
  | 0x0D => some (.blt (bf w 20 6) (bf w 14 6) (bf w 0 14))
  | 0x0E => some (.bge (bf w 20 6) (bf w 14 6) (bf w 0 14))
  | 0x0F => some (.bltu (bf w 20 6) (bf w 14 6) (bf w 0 14))
  | 0x10 => some (.bgeu (bf w 20 6) (bf w 14 6) (bf w 0 14))
  | 0x11 => some (.j (bf w 0 26))
  | 0x12 => some (.jal (bf w 0 26))
  | 0x13 => some (.jalr (bf w 20 6) (bf w 14 6) (bf w 0 14))
  | 0x14 => sqOp14 w
  | 0x15 => some (.ldb (bf w 20 6) (bf w 14 6) (bf w 8 6) (bf w 0 8))
  | 0x16 => some (.ldbu (bf w 20 6) (bf w 14 6) (bf w 8 6) (bf w 0 8))
  | 0x17 => some (.ldh (bf w 20 6) (bf w 14 6) (bf w 8 6) (bf w 0 8))
  | 0x18 => some (.ldhu (bf w 20 6) (bf w 14 6) (bf w 8 6) (bf w 0 8))
  | 0x19 => some (.ldw (bf w 20 6) (bf w 14 6) (bf w 8 6) (bf w 0 8))
  | 0x1A => some (.ldwu (bf w 20 6) (bf w 14 6) (bf w 8 6) (bf w 0 8))
  | 0x1B => some (.ldd (bf w 20 6) (bf w 14 6) (bf w 8 6) (bf w 0 8))
  | 0x1C => sqOp1C w
  | 0x1D => sqOp1D w
  | 0x1E => sqOp1E w
  | 0x1F => sqOp1F w
  | 0x20 => some (.lds (bf w 20 6) (bf w 14 6) (bf w 12 2) (bf w 0 12))
  | 0x21 => some (.sts (bf w 20 6) (bf w 14 6) (bf w 12 2) (bf w 0 12))
  | 0x22 => some (.ldp (bf w 20 6) (bf w 14 6) (bf w 11 3) (bf w 0 11))
  | 0x23 => sqOp23 w
  | 0x24 => sqOp24 w
  | 0x25 => sqOp25 w
  | 0x26 => sqOp26 w
  | 0x27 => sqOp27 w
  | 0x28 => sqOp28 w
  | 0x29 => sqOp29 w
  | 0x2A => sqOp2A w
  | 0x2B => sqOp2B w
  | 0x2C => sqOp2C w
  | 0x2D => sqOp2D w
  | 0x2E => sqOp2E w
  | 0x2F => sqOp2F w
  | 0x30 => sqOp30 w
  | 0x31 => sqOp31 w
  | 0x32 => sqOp32 w
  | 0x33 => sqOp33 w
  | 0x34 => sqOp34 w
  | _ => none

def veOp01 (w : Nat) : Option Instr :=
  if fld w 11 13 = 0x0 then some (.vsetsh (bf w 9 2) (bf w 7 2) (bf w 4 3) (bf w 0 4))
  else none

def veOp02 (w : Nat) : Option Instr :=
  if fld w 4 16 = 0x0 then some (.vchmap (bf w 23 1) (bf w 20 3) (bf w 0 4))
  else none

def veOp03 (w : Nat) : Option Instr :=
  if fld w 13 7 = 0x0 then some (.vsetpat (bf w 20 4) (bf w 12 1) (bf w 7 5) (bf w 0 7))
  else if fld w 11 1 = 0x0 ∧ fld w 12 1 = 0x0 ∧ fld w 13 7 = 0x40 ∧ fld w 20 4 = 0x0 then some (.vsetpatHdr (bf w 7 4) (bf w 0 7))
  else none

def veOp05 (w : Nat) : Option Instr :=
  if fld w 20 4 = 0x0 then some (.vjmp (bf w 0 20))
  else none

def veOp06 (w : Nat) : Option Instr :=
  if fld w 0 24 = 0x0 then some (.vend)
  else none

def veOp07 (w : Nat) : Option Instr :=
  if fld w 8 16 = 0x0 then some (.vswpt (bf w 0 8))
  else none

def veOp08 (w : Nat) : Option Instr :=
  if fld w 4 20 = 0x0 then some (.vadvc (bf w 0 4))
  else none

def veOp09 (w : Nat) : Option Instr :=
  if fld w 4 20 = 0x0 then some (.vadvp (bf w 0 4))
  else none

def veOp0A (w : Nat) : Option Instr :=
  if fld w 5 15 = 0x0 then some (.vwaitb (bf w 20 4) (bf w 0 5))
  else none

def veOp18 (w : Nat) : Option Instr :=
  if fld w 0 8 = 0x0 then some (.vabs (bf w 16 8) (bf w 8 8))
  else none

def veOp19 (w : Nat) : Option Instr :=
  if fld w 0 8 = 0x0 then some (.vneg (bf w 16 8) (bf w 8 8))
  else none

def veOp23 (w : Nat) : Option Instr :=
  if fld w 0 8 = 0x0 then some (.vnot (bf w 16 8) (bf w 8 8))
  else none

def veOp27 (w : Nat) : Option Instr :=
  if fld w 5 3 = 0x0 then some (.vshli (bf w 16 8) (bf w 8 8) (bf w 0 5))
  else none

def veOp28 (w : Nat) : Option Instr :=
  if fld w 5 3 = 0x0 then some (.vshri (bf w 16 8) (bf w 8 8) (bf w 0 5))
  else none

def veOp29 (w : Nat) : Option Instr :=
  if fld w 5 3 = 0x0 then some (.vsari (bf w 16 8) (bf w 8 8) (bf w 0 5))
  else none

def veOp2A (w : Nat) : Option Instr :=
  if fld w 0 8 = 0x0 then some (.vclz (bf w 16 8) (bf w 8 8))
  else none

def veOp2B (w : Nat) : Option Instr :=
  if fld w 0 8 = 0x0 then some (.vpopc (bf w 16 8) (bf w 8 8))
  else none

def veOp31 (w : Nat) : Option Instr :=
  if fld w 0 8 = 0x0 then some (.vsqrt (bf w 16 8) (bf w 8 8))
  else none

def veOp32 (w : Nat) : Option Instr :=
  if fld w 0 8 = 0x0 then some (.vrcp (bf w 16 8) (bf w 8 8))
  else none

def veOp33 (w : Nat) : Option Instr :=
  if fld w 0 8 = 0x0 then some (.vrsq (bf w 16 8) (bf w 8 8))
  else none

def veOp34 (w : Nat) : Option Instr :=
  if fld w 0 8 = 0x0 then some (.vexp2 (bf w 16 8) (bf w 8 8))
  else none

def veOp35 (w : Nat) : Option Instr :=
  if fld w 0 8 = 0x0 then some (.vlog2 (bf w 16 8) (bf w 8 8))
  else none

def veOp36 (w : Nat) : Option Instr :=
  if fld w 0 8 = 0x0 then some (.vclass (bf w 16 8) (bf w 8 8))
  else none

def veOp40 (w : Nat) : Option Instr :=
  if fld w 16 1 = 0x0 then some (.vcmp (bf w 20 4) (bf w 17 3) (bf w 8 8) (bf w 0 8))
  else none

def veOp42 (w : Nat) : Option Instr :=
  if fld w 3 5 = 0x0 ∧ fld w 11 5 = 0x0 ∧ fld w 19 5 = 0x0 then some (.mand (bf w 16 3) (bf w 8 3) (bf w 0 3))
  else none

def veOp43 (w : Nat) : Option Instr :=
  if fld w 3 5 = 0x0 ∧ fld w 11 5 = 0x0 ∧ fld w 19 5 = 0x0 then some (.mor (bf w 16 3) (bf w 8 3) (bf w 0 3))
  else none

def veOp44 (w : Nat) : Option Instr :=
  if fld w 3 5 = 0x0 ∧ fld w 11 5 = 0x0 ∧ fld w 19 5 = 0x0 then some (.mxor (bf w 16 3) (bf w 8 3) (bf w 0 3))
  else none

def veOp45 (w : Nat) : Option Instr :=
  if fld w 0 8 = 0x0 ∧ fld w 11 5 = 0x0 ∧ fld w 19 5 = 0x0 then some (.mnot (bf w 16 3) (bf w 8 3))
  else none

def veOp46 (w : Nat) : Option Instr :=
  if fld w 0 8 = 0x0 ∧ fld w 11 5 = 0x0 ∧ fld w 20 4 = 0x0 then some (.mpopc (bf w 16 4) (bf w 8 3))
  else none

def veOp47 (w : Nat) : Option Instr :=
  if fld w 0 8 = 0x0 ∧ fld w 11 5 = 0x0 ∧ fld w 20 4 = 0x0 then some (.mfirst (bf w 16 4) (bf w 8 3))
  else none

def veOp50 (w : Nat) : Option Instr :=
  if fld w 4 4 = 0x0 then some (.vcvt (bf w 16 8) (bf w 8 8) (bf w 0 4))
  else none

def veOp51 (w : Nat) : Option Instr :=
  if fld w 4 4 = 0x0 then some (.vwiden (bf w 16 8) (bf w 8 8) (bf w 0 4))
  else none

def veOp52 (w : Nat) : Option Instr :=
  if fld w 4 4 = 0x0 then some (.vnarrow (bf w 16 8) (bf w 8 8) (bf w 0 4))
  else none

def veOp60 (w : Nat) : Option Instr :=
  if fld w 0 8 = 0x0 then some (.vrsum (bf w 16 8) (bf w 8 8))
  else none

def veOp61 (w : Nat) : Option Instr :=
  if fld w 0 8 = 0x0 then some (.vrmax (bf w 16 8) (bf w 8 8))
  else none

def veOp62 (w : Nat) : Option Instr :=
  if fld w 0 8 = 0x0 then some (.vrmin (bf w 16 8) (bf w 8 8))
  else none

def veOp63 (w : Nat) : Option Instr :=
  if fld w 0 8 = 0x0 then some (.vscan (bf w 16 8) (bf w 8 8))
  else none

def veOp66 (w : Nat) : Option Instr :=
  if fld w 4 4 = 0x0 then some (.vbcast (bf w 16 8) (bf w 8 8) (bf w 0 4))
  else none

def veOp67 (w : Nat) : Option Instr :=
  if fld w 0 8 = 0x0 then some (.vcomp (bf w 16 8) (bf w 8 8))
  else none

def veOp68 (w : Nat) : Option Instr :=
  if fld w 0 8 = 0x0 then some (.vexpd (bf w 16 8) (bf w 8 8))
  else none

def veOp71 (w : Nat) : Option Instr :=
  if fld w 4 4 = 0x0 ∧ fld w 12 4 = 0x0 ∧ fld w 20 4 = 0x0 then some (.kadd (bf w 16 4) (bf w 8 4) (bf w 0 4))
  else none

def veOp72 (w : Nat) : Option Instr :=
  if fld w 4 4 = 0x0 ∧ fld w 12 4 = 0x0 ∧ fld w 20 4 = 0x0 then some (.kmul (bf w 16 4) (bf w 8 4) (bf w 0 4))
  else none

def veOp73 (w : Nat) : Option Instr :=
  if fld w 4 4 = 0x0 ∧ fld w 12 4 = 0x0 ∧ fld w 20 4 = 0x0 then some (.kfadd (bf w 16 4) (bf w 8 4) (bf w 0 4))
  else none

def veOp74 (w : Nat) : Option Instr :=
  if fld w 4 4 = 0x0 ∧ fld w 20 4 = 0x0 then some (.kget (bf w 16 4) (bf w 8 8) (bf w 0 4))
  else none

def veOp75 (w : Nat) : Option Instr :=
  if fld w 4 4 = 0x0 ∧ fld w 12 4 = 0x0 then some (.vins (bf w 16 8) (bf w 8 4) (bf w 0 4))
  else none

def veOp76 (w : Nat) : Option Instr :=
  if fld w 10 10 = 0x0 then some (.kmfs (bf w 20 4) (bf w 0 10))
  else none

def veOp77 (w : Nat) : Option Instr :=
  if fld w 0 8 = 0x0 ∧ fld w 12 4 = 0x0 ∧ fld w 20 4 = 0x0 then some (.xsetXreg (bf w 16 4) (bf w 8 4))
  else none

def veOp84 (w : Nat) : Option Instr :=
  if fld w 8 4 = 0x0 then some (.vldx (bf w 16 8) (bf w 12 4) (bf w 0 8))
  else none

def veOp85 (w : Nat) : Option Instr :=
  if fld w 8 4 = 0x0 then some (.vstx (bf w 16 8) (bf w 12 4) (bf w 0 8))
  else none

/-- The row of a VE word (07 R146-R149, Tables 7-6 to 7-9) whose fixed bits the word has.  Fields are read in place; values a
field may not hold are refused by `decode`. -/
def decodeVe (w : Nat) : Option Instr :=
  match w / 2 ^ 24 with
  | 0x01 => veOp01 w
  | 0x02 => veOp02 w
  | 0x03 => veOp03 w
  | 0x04 => some (.vloop (bf w 20 4) (bf w 0 20))
  | 0x05 => veOp05 w
  | 0x06 => veOp06 w
  | 0x07 => veOp07 w
  | 0x08 => veOp08 w
  | 0x09 => veOp09 w
  | 0x0A => veOp0A w
  | 0x10 => some (.vadd (bf w 16 8) (bf w 8 8) (bf w 0 8))
  | 0x11 => some (.vsub (bf w 16 8) (bf w 8 8) (bf w 0 8))
  | 0x12 => some (.vmul (bf w 16 8) (bf w 8 8) (bf w 0 8))
  | 0x13 => some (.vmulh (bf w 16 8) (bf w 8 8) (bf w 0 8))
  | 0x14 => some (.vfma (bf w 16 8) (bf w 8 8) (bf w 0 8))
  | 0x15 => some (.vfms (bf w 16 8) (bf w 8 8) (bf w 0 8))
  | 0x16 => some (.vmin (bf w 16 8) (bf w 8 8) (bf w 0 8))
  | 0x17 => some (.vmax (bf w 16 8) (bf w 8 8) (bf w 0 8))
  | 0x18 => veOp18 w
  | 0x19 => veOp19 w
  | 0x1A => some (.vadds (bf w 16 8) (bf w 8 8) (bf w 0 8))
  | 0x1B => some (.vsubs (bf w 16 8) (bf w 8 8) (bf w 0 8))
  | 0x1C => some (.vavg (bf w 16 8) (bf w 8 8) (bf w 0 8))
  | 0x1D => some (.vabd (bf w 16 8) (bf w 8 8) (bf w 0 8))
  | 0x20 => some (.vand (bf w 16 8) (bf w 8 8) (bf w 0 8))
  | 0x21 => some (.vor (bf w 16 8) (bf w 8 8) (bf w 0 8))
  | 0x22 => some (.vxor (bf w 16 8) (bf w 8 8) (bf w 0 8))
  | 0x23 => veOp23 w
  | 0x24 => some (.vshl (bf w 16 8) (bf w 8 8) (bf w 0 8))
  | 0x25 => some (.vshr (bf w 16 8) (bf w 8 8) (bf w 0 8))
  | 0x26 => some (.vsar (bf w 16 8) (bf w 8 8) (bf w 0 8))
  | 0x27 => veOp27 w
  | 0x28 => veOp28 w
  | 0x29 => veOp29 w
  | 0x2A => veOp2A w
  | 0x2B => veOp2B w
  | 0x30 => some (.vdiv (bf w 16 8) (bf w 8 8) (bf w 0 8))
  | 0x31 => veOp31 w
  | 0x32 => veOp32 w
  | 0x33 => veOp33 w
  | 0x34 => veOp34 w
  | 0x35 => veOp35 w
  | 0x36 => veOp36 w
  | 0x40 => veOp40 w
  | 0x41 => some (.vsel (bf w 16 8) (bf w 8 8) (bf w 0 8))
  | 0x42 => veOp42 w
  | 0x43 => veOp43 w
  | 0x44 => veOp44 w
  | 0x45 => veOp45 w
  | 0x46 => veOp46 w
  | 0x47 => veOp47 w
  | 0x50 => veOp50 w
  | 0x51 => veOp51 w
  | 0x52 => veOp52 w
  | 0x53 => some (.vquant (bf w 16 8) (bf w 8 8) (bf w 0 8))
  | 0x54 => some (.vdeq (bf w 16 8) (bf w 8 8) (bf w 0 8))
  | 0x60 => veOp60 w
  | 0x61 => veOp61 w
  | 0x62 => veOp62 w
  | 0x63 => veOp63 w
  | 0x64 => some (.vperm (bf w 16 8) (bf w 8 8) (bf w 0 8))
  | 0x65 => some (.vslide (bf w 16 8) (bf w 8 8) (bf w 0 8))
  | 0x66 => veOp66 w
  | 0x67 => veOp67 w
  | 0x68 => veOp68 w
  | 0x70 => some (.kli (bf w 20 4) (bf w 0 20))
  | 0x71 => veOp71 w
  | 0x72 => veOp72 w
  | 0x73 => veOp73 w
  | 0x74 => veOp74 w
  | 0x75 => veOp75 w
  | 0x76 => veOp76 w
  | 0x77 => veOp77 w
  | 0x78 => some (.xaddi (bf w 20 4) (bf w 0 20))
  | 0x80 => some (.vld (bf w 16 8) (bf w 12 4) (bf w 0 12))
  | 0x81 => some (.vst (bf w 16 8) (bf w 12 4) (bf w 0 12))
  | 0x82 => some (.vlds (bf w 16 8) (bf w 12 4) (bf w 8 4) (bf w 0 8))
  | 0x83 => some (.vsts (bf w 16 8) (bf w 12 4) (bf w 8 4) (bf w 0 8))
  | 0x84 => veOp84 w
  | 0x85 => veOp85 w
  | 0x86 => some (.vldp (bf w 16 8) (bf w 12 4) (bf w 0 12))
  | 0x87 => some (.vldb (bf w 16 8) (bf w 12 4) (bf w 0 12))
  | _ => none

def meOp03 (w : Nat) : Option Instr :=
  if fld w 0 7 = 0x0 ∧ fld w 23 5 = 0x0 then some (.nld (bf w 7 16))
  else none

def meOp04 (w : Nat) : Option Instr :=
  if fld w 16 3 = 0x0 then some (.mgo (bf w 20 8) (bf w 19 1) (bf w 0 16))
  else none

def meOp05 (w : Nat) : Option Instr :=
  if fld w 3 25 = 0x0 then some (.mwait (bf w 0 3))
  else none

def meOp08 (w : Nat) : Option Instr :=
  if fld w 0 28 = 0x0 then some (.mend)
  else none

def meOp09 (w : Nat) : Option Instr :=
  if fld w 8 20 = 0x0 then some (.mswpt (bf w 0 8))
  else none

def meOp0A (w : Nat) : Option Instr :=
  if fld w 0 2 = 0x1 ∧ fld w 2 26 = 0x0 then some (.mclr0)
  else if fld w 0 2 = 0x2 ∧ fld w 2 26 = 0x0 then some (.mclr1)
  else if fld w 0 2 = 0x3 ∧ fld w 2 26 = 0x0 then some (.mclrBoth)
  else none

def meOp0B (w : Nat) : Option Instr :=
  if fld w 0 28 = 0x0 then some (.mdrain)
  else none

def meOp0C (w : Nat) : Option Instr :=
  if fld w 0 18 = 0x0 ∧ fld w 25 3 = 0x0 then some (.mwaitb (bf w 20 5) (bf w 19 1) (bf w 18 1))
  else none

/-- The row of a ME step word (07 R151, Table 7-10) whose fixed bits the word has.  Fields are read in place; values a
field may not hold are refused by `decode`. -/
def decodeMe (w : Nat) : Option Instr :=
  match w / 2 ^ 28 with
  | 0x01 => some (.nset (bf w 20 8) (bf w 0 20))
  | 0x02 => some (.nseth (bf w 20 8) (bf w 0 20))
  | 0x03 => meOp03 w
  | 0x04 => meOp04 w
  | 0x05 => meOp05 w
  | 0x06 => some (.mloop (bf w 16 12) (bf w 0 16))
  | 0x07 => some (.mjmp (bf w 0 28))
  | 0x08 => meOp08 w
  | 0x09 => meOp09 w
  | 0x0A => meOp0A w
  | 0x0B => meOp0B w
  | 0x0C => meOp0C w
  | _ => none

def tuOp01 (w : Nat) : Option Instr :=
  if fld w 0 6 = 0x0 ∧ fld w 23 4 = 0x0 then some (.xld (bf w 6 17))
  else none

def tuOp03 (w : Nat) : Option Instr :=
  if fld w 16 3 = 0x0 then some (.xgo (bf w 19 8) (bf w 0 16))
  else none

def tuOp04 (w : Nat) : Option Instr :=
  if fld w 3 24 = 0x0 then some (.xwait (bf w 0 3))
  else none

def tuOp05 (w : Nat) : Option Instr :=
  if fld w 16 3 = 0x0 then some (.xmc (bf w 19 8) (bf w 0 16))
  else none

def tuOp06 (w : Nat) : Option Instr :=
  if fld w 16 3 = 0x0 then some (.xconv (bf w 19 8) (bf w 0 16))
  else none

def tuOp07 (w : Nat) : Option Instr :=
  if fld w 16 3 = 0x0 then some (.xdec (bf w 19 8) (bf w 0 16))
  else none

def tuOp08 (w : Nat) : Option Instr :=
  if fld w 16 3 = 0x0 then some (.xgath (bf w 19 8) (bf w 0 16))
  else none

def tuOp09 (w : Nat) : Option Instr :=
  if fld w 16 3 = 0x0 then some (.xscat (bf w 19 8) (bf w 0 16))
  else none

def tuOp0C (w : Nat) : Option Instr :=
  if fld w 0 27 = 0x0 then some (.xend)
  else none

def tuOp0D (w : Nat) : Option Instr :=
  if fld w 8 19 = 0x0 then some (.xswpt (bf w 0 8))
  else none

def tuOp0E (w : Nat) : Option Instr :=
  if fld w 0 18 = 0x0 ∧ fld w 25 2 = 0x0 then some (.xwaitb (bf w 20 5) (bf w 19 1) (bf w 18 1))
  else none

def tuOp0F (w : Nat) : Option Instr :=
  if fld w 16 3 = 0x0 then some (.xpushr (bf w 19 8) (bf w 0 16))
  else none

def tuOp1D (w : Nat) : Option Instr :=
  if fld w 0 19 = 0x0 then some (.gdone (bf w 19 8))
  else none

/-- The row of a TU or GQ step word (07 R153, Table 7-11) whose fixed bits the word has.  Fields are read in place; values a
field may not hold are refused by `decode`. -/
def decodeTu (w : Nat) : Option Instr :=
  match w / 2 ^ 27 with
  | 0x01 => tuOp01 w
  | 0x02 => some (.xset (bf w 21 6) (bf w 19 2) (bf w 0 19))
  | 0x03 => tuOp03 w
  | 0x04 => tuOp04 w
  | 0x05 => tuOp05 w
  | 0x06 => tuOp06 w
  | 0x07 => tuOp07 w
  | 0x08 => tuOp08 w
  | 0x09 => tuOp09 w
  | 0x0A => some (.xloop (bf w 16 11) (bf w 0 16))
  | 0x0B => some (.xjmp (bf w 0 27))
  | 0x0C => tuOp0C w
  | 0x0D => tuOp0D w
  | 0x0E => tuOp0E w
  | 0x0F => tuOp0F w
  | 0x18 => some (.lpop (bf w 19 8) (bf w 16 3) (bf w 0 16))
  | 0x19 => some (.lpeek (bf w 19 8) (bf w 16 3) (bf w 0 16))
  | 0x1A => some (.gfetch (bf w 19 8) (bf w 16 3) (bf w 0 16))
  | 0x1B => some (.gshift (bf w 19 8) (bf w 16 3) (bf w 0 16))
  | 0x1C => some (.gpool (bf w 19 8) (bf w 16 3) (bf w 0 16))
  | 0x1D => tuOp1D w
  | _ => none

/-- A row's fixed bits with its fields put in at their places. -/
def enc0 (m : Nat) : Nat := m
def enc1 (m : Nat) {n0 : Nat} (x0 : BitVec n0) (l0 : Nat) : Nat :=
  m + x0.toNat * 2 ^ l0
def enc2 (m : Nat) {n0 n1 : Nat} (x0 : BitVec n0) (l0 : Nat) (x1 : BitVec n1) (l1 : Nat) : Nat :=
  m + x0.toNat * 2 ^ l0 + x1.toNat * 2 ^ l1
def enc3 (m : Nat) {n0 n1 n2 : Nat} (x0 : BitVec n0) (l0 : Nat) (x1 : BitVec n1) (l1 : Nat) (x2 : BitVec n2) (l2 : Nat) : Nat :=
  m + x0.toNat * 2 ^ l0 + x1.toNat * 2 ^ l1 + x2.toNat * 2 ^ l2
def enc4 (m : Nat) {n0 n1 n2 n3 : Nat} (x0 : BitVec n0) (l0 : Nat) (x1 : BitVec n1) (l1 : Nat) (x2 : BitVec n2) (l2 : Nat) (x3 : BitVec n3) (l3 : Nat) : Nat :=
  m + x0.toNat * 2 ^ l0 + x1.toNat * 2 ^ l1 + x2.toNat * 2 ^ l2 + x3.toNat * 2 ^ l3
def enc5 (m : Nat) {n0 n1 n2 n3 n4 : Nat} (x0 : BitVec n0) (l0 : Nat) (x1 : BitVec n1) (l1 : Nat) (x2 : BitVec n2) (l2 : Nat) (x3 : BitVec n3) (l3 : Nat) (x4 : BitVec n4) (l4 : Nat) : Nat :=
  m + x0.toNat * 2 ^ l0 + x1.toNat * 2 ^ l1 + x2.toNat * 2 ^ l2 + x3.toNat * 2 ^ l3 + x4.toNat * 2 ^ l4

/-- The word that an instruction word's fields stand in (07 Tables 7-1 to 7-11); none for an operation or event of the
device, which has no encoding. -/
def encode : Instr → Option Nat
  | .add d a b => some (enc3 0x04000000 d 20 a 14 b 8)
  | .sub d a b => some (enc3 0x04000001 d 20 a 14 b 8)
  | .and d a b => some (enc3 0x04000002 d 20 a 14 b 8)
  | .or d a b => some (enc3 0x04000003 d 20 a 14 b 8)
  | .xor d a b => some (enc3 0x04000004 d 20 a 14 b 8)
  | .shl d a b => some (enc3 0x04000005 d 20 a 14 b 8)
  | .shr d a b => some (enc3 0x04000006 d 20 a 14 b 8)
  | .sar d a b => some (enc3 0x04000007 d 20 a 14 b 8)
  | .slt d a b => some (enc3 0x04000008 d 20 a 14 b 8)
  | .sltu d a b => some (enc3 0x04000009 d 20 a 14 b 8)
  | .min d a b => some (enc3 0x0400000A d 20 a 14 b 8)
  | .max d a b => some (enc3 0x0400000B d 20 a 14 b 8)
  | .minu d a b => some (enc3 0x0400000C d 20 a 14 b 8)
  | .maxu d a b => some (enc3 0x0400000D d 20 a 14 b 8)
  | .cmov d a b => some (enc3 0x0400000E d 20 a 14 b 8)
  | .andn d a b => some (enc3 0x0400000F d 20 a 14 b 8)
  | .mul d a b => some (enc3 0x04000010 d 20 a 14 b 8)
  | .mulh d a b => some (enc3 0x04000011 d 20 a 14 b 8)
  | .mulhu d a b => some (enc3 0x04000012 d 20 a 14 b 8)
  | .div d a b => some (enc3 0x04000013 d 20 a 14 b 8)
  | .divu d a b => some (enc3 0x04000014 d 20 a 14 b 8)
  | .rem d a b => some (enc3 0x04000015 d 20 a 14 b 8)
  | .remu d a b => some (enc3 0x04000016 d 20 a 14 b 8)
  | .clz d a => some (enc2 0x04000018 d 20 a 14)
  | .ctz d a => some (enc2 0x04000019 d 20 a 14)
  | .popc d a => some (enc2 0x0400001A d 20 a 14)
  | .bfx d a b => some (enc3 0x04000020 d 20 a 14 b 8)
  | .bfxs d a b => some (enc3 0x04000021 d 20 a 14 b 8)
  | .bfi d a b => some (enc3 0x04000022 d 20 a 14 b 8)
  | .addi d a i => some (enc3 0x08000000 d 20 a 14 i 0)
  | .andi d a i => some (enc3 0x0C000000 d 20 a 14 i 0)
  | .ori d a i => some (enc3 0x10000000 d 20 a 14 i 0)
  | .xori d a i => some (enc3 0x14000000 d 20 a 14 i 0)
  | .slti d a i => some (enc3 0x18000000 d 20 a 14 i 0)
  | .sltui d a i => some (enc3 0x1C000000 d 20 a 14 i 0)
  | .shli d a n => some (enc3 0x20000000 d 20 a 14 n 0)
  | .shri d a n => some (enc3 0x20001000 d 20 a 14 n 0)
  | .sari d a n => some (enc3 0x20002000 d 20 a 14 n 0)
  | .lui d i => some (enc2 0x24000000 d 20 i 0)
  | .auipc d i => some (enc2 0x28000000 d 20 i 0)
  | .beq a b o => some (enc3 0x2C000000 a 20 b 14 o 0)
  | .bne a b o => some (enc3 0x30000000 a 20 b 14 o 0)
  | .blt a b o => some (enc3 0x34000000 a 20 b 14 o 0)
  | .bge a b o => some (enc3 0x38000000 a 20 b 14 o 0)
  | .bltu a b o => some (enc3 0x3C000000 a 20 b 14 o 0)
  | .bgeu a b o => some (enc3 0x40000000 a 20 b 14 o 0)
  | .j o => some (enc1 0x44000000 o 0)
  | .jal o => some (enc1 0x48000000 o 0)
  | .jalr d a i => some (enc3 0x4C000000 d 20 a 14 i 0)
  | .loop a l => some (enc2 0x50000000 a 14 l 0)
  | .ldb d b r p => some (enc4 0x54000000 d 20 b 14 r 8 p 0)
  | .ldbu d b r p => some (enc4 0x58000000 d 20 b 14 r 8 p 0)
  | .ldh d b r p => some (enc4 0x5C000000 d 20 b 14 r 8 p 0)
  | .ldhu d b r p => some (enc4 0x60000000 d 20 b 14 r 8 p 0)
  | .ldw d b r p => some (enc4 0x64000000 d 20 b 14 r 8 p 0)
  | .ldwu d b r p => some (enc4 0x68000000 d 20 b 14 r 8 p 0)
  | .ldd d b r p => some (enc4 0x6C000000 d 20 b 14 r 8 p 0)
  | .stb d b p => some (enc3 0x70000000 d 20 b 14 p 0)
  | .sth d b p => some (enc3 0x74000000 d 20 b 14 p 0)
  | .stw d b p => some (enc3 0x78000000 d 20 b 14 p 0)
  | .std d b p => some (enc3 0x7C000000 d 20 b 14 p 0)
  | .lds d a z o => some (enc4 0x80000000 d 20 a 14 z 12 o 0)
  | .sts d a z o => some (enc4 0x84000000 d 20 a 14 z 12 o 0)
  | .ldp d a w o => some (enc4 0x88000000 d 20 a 14 w 11 o 0)
  | .atomSwap d a b o c => some (enc5 0x8C000000 d 20 a 14 b 8 o 6 c 4)
  | .atomAdd d a b o c => some (enc5 0x8C000001 d 20 a 14 b 8 o 6 c 4)
  | .atomAnd d a b o c => some (enc5 0x8C000002 d 20 a 14 b 8 o 6 c 4)
  | .atomOr d a b o c => some (enc5 0x8C000003 d 20 a 14 b 8 o 6 c 4)
  | .atomXor d a b o c => some (enc5 0x8C000004 d 20 a 14 b 8 o 6 c 4)
  | .atomMin d a b o c => some (enc5 0x8C000005 d 20 a 14 b 8 o 6 c 4)
  | .atomMax d a b o c => some (enc5 0x8C000006 d 20 a 14 b 8 o 6 c 4)
  | .atomMinu d a b o c => some (enc5 0x8C000007 d 20 a 14 b 8 o 6 c 4)
  | .atomMaxu d a b o c => some (enc5 0x8C000008 d 20 a 14 b 8 o 6 c 4)
  | .cas d a b o c => some (enc5 0x90000000 d 20 a 14 b 8 o 6 c 4)
  | .redAdd s a b o c => some (enc5 0x94200000 s 20 a 14 b 8 o 7 c 4)
  | .redAnd s a b o c => some (enc5 0x94200001 s 20 a 14 b 8 o 7 c 4)
  | .redOr s a b o c => some (enc5 0x94200002 s 20 a 14 b 8 o 7 c 4)
  | .redXor s a b o c => some (enc5 0x94200003 s 20 a 14 b 8 o 7 c 4)
  | .redMin s a b o c => some (enc5 0x94200004 s 20 a 14 b 8 o 7 c 4)
  | .redMax s a b o c => some (enc5 0x94200005 s 20 a 14 b 8 o 7 c 4)
  | .redMinu s a b o c => some (enc5 0x94200006 s 20 a 14 b 8 o 7 c 4)
  | .redMaxu s a b o c => some (enc5 0x94200007 s 20 a 14 b 8 o 7 c 4)
  | .redFadd32 a b o c => some (enc4 0x94200008 a 14 b 8 o 7 c 4)
  | .redFadd64 a b o c => some (enc4 0x94300009 a 14 b 8 o 7 c 4)
  | .lda d a u z c => some (enc5 0x98000000 d 20 a 14 u 4 z 2 c 0)
  | .stl d a z c => some (enc4 0x98000400 d 20 a 14 z 2 c 0)
  | .fenceAcq c => some (enc1 0x98000804 c 0)
  | .fenceRel c => some (enc1 0x98000808 c 0)
  | .ldblk f a n => some (enc3 0x9C000000 f 20 a 14 n 0)
  | .blkwait f => some (enc1 0x9C000400 f 20)
  | .blkfree f => some (enc1 0x9C000800 f 20)
  | .chwf n c => some (enc2 0xA0000000 n 4 c 0)
  | .chwe n c => some (enc2 0xA0000400 n 4 c 0)
  | .chap n c => some (enc2 0xA0000800 n 4 c 0)
  | .chac n c => some (enc2 0xA0000C00 n 4 c 0)
  | .chst d c => some (enc2 0xA0001000 d 20 c 0)
  | .binit b => some (enc1 0xA4000000 b 0)
  | .barr b => some (enc1 0xA4000400 b 0)
  | .bexp a b => some (enc2 0xA4000800 a 14 b 0)
  | .bwait a b => some (enc2 0xA4000C00 a 14 b 0)
  | .estart m => some (enc1 0xA8000000 m 0)
  | .ewait m => some (enc1 0xA8000400 m 0)
  | .estop m => some (enc1 0xA8000800 m 0)
  | .mfs d n => some (enc2 0xAC000000 d 20 n 0)
  | .mts a n => some (enc2 0xAC000400 a 14 n 0)
  | .swpt n => some (enc1 0xB0000400 n 0)
  | .falloc d => some (enc1 0xB4000000 d 20)
  | .fresResolve d a b => some (enc3 0xB4000001 d 20 a 14 b 8)
  | .fresFail d a b => some (enc3 0xB4000002 d 20 a 14 b 8)
  | .fresCancel d a => some (enc2 0xB4000003 d 20 a 14)
  | .fresFree d a => some (enc2 0xB4000004 d 20 a 14)
  | .fresReset d a => some (enc2 0xB4000005 d 20 a 14)
  | .fwait d a => some (enc2 0xB4000008 d 20 a 14)
  | .fpoll d a => some (enc2 0xB4000009 d 20 a 14)
  | .tktake d a => some (enc2 0xB8000000 d 20 a 14)
  | .tkwait a b => some (enc2 0xB8000001 a 14 b 8)
  | .tkserve a => some (enc1 0xB8000002 a 14)
  | .qenq d a b => some (enc3 0xBC000000 d 20 a 14 b 8)
  | .qdeq d a b => some (enc3 0xBC000001 d 20 a 14 b 8)
  | .tsub d a b => some (enc3 0xC0000000 d 20 a 14 b 8)
  | .snap d a b => some (enc3 0xC4000000 d 20 a 14 b 8)
  | .sresv d a b => some (enc3 0xC4000001 d 20 a 14 b 8)
  | .sacc a => some (enc1 0xC4000002 a 14)
  | .srej a => some (enc1 0xC4000003 a 14)
  | .sqry d a => some (enc2 0xC4000004 d 20 a 14)
  | .ldv d a b => some (enc3 0xC4000005 d 20 a 14 b 8)
  | .tdcls d a => some (enc2 0xC8000000 d 20 a 14)
  | .tdscan a n => some (enc2 0xC8000400 a 14 n 0)
  | .cwb a n => some (enc2 0xCC000000 a 14 n 0)
  | .cinv a n => some (enc2 0xCC000400 a 14 n 0)
  | .cwbi a n => some (enc2 0xCC000800 a 14 n 0)
  | .trap n => some (enc1 0xD0000000 n 0)
  | .brk n => some (enc1 0xD0000400 n 0)
  | .vsetsh p r m t => some (enc4 0x01000000 p 9 r 7 m 4 t 0)
  | .vchmap p j c => some (enc3 0x02000000 p 23 j 20 c 0)
  | .vsetpat k s w o => some (enc4 0x03000000 k 20 s 12 w 7 o 0)
  | .vsetpatHdr f p => some (enc2 0x03080000 f 7 p 0)
  | .vloop k l => some (enc2 0x04000000 k 20 l 0)
  | .vjmp o => some (enc1 0x05000000 o 0)
  | .vswpt n => some (enc1 0x07000000 n 0)
  | .vadvc c => some (enc1 0x08000000 c 0)
  | .vadvp c => some (enc1 0x09000000 c 0)
  | .vwaitb k b => some (enc2 0x0A000000 k 20 b 0)
  | .vadd d a b => some (enc3 0x10000000 d 16 a 8 b 0)
  | .vsub d a b => some (enc3 0x11000000 d 16 a 8 b 0)
  | .vmul d a b => some (enc3 0x12000000 d 16 a 8 b 0)
  | .vmulh d a b => some (enc3 0x13000000 d 16 a 8 b 0)
  | .vfma d a b => some (enc3 0x14000000 d 16 a 8 b 0)
  | .vfms d a b => some (enc3 0x15000000 d 16 a 8 b 0)
  | .vmin d a b => some (enc3 0x16000000 d 16 a 8 b 0)
  | .vmax d a b => some (enc3 0x17000000 d 16 a 8 b 0)
  | .vabs d a => some (enc2 0x18000000 d 16 a 8)
  | .vneg d a => some (enc2 0x19000000 d 16 a 8)
  | .vadds d a b => some (enc3 0x1A000000 d 16 a 8 b 0)
  | .vsubs d a b => some (enc3 0x1B000000 d 16 a 8 b 0)
  | .vavg d a b => some (enc3 0x1C000000 d 16 a 8 b 0)
  | .vabd d a b => some (enc3 0x1D000000 d 16 a 8 b 0)
  | .vand d a b => some (enc3 0x20000000 d 16 a 8 b 0)
  | .vor d a b => some (enc3 0x21000000 d 16 a 8 b 0)
  | .vxor d a b => some (enc3 0x22000000 d 16 a 8 b 0)
  | .vnot d a => some (enc2 0x23000000 d 16 a 8)
  | .vshl d a b => some (enc3 0x24000000 d 16 a 8 b 0)
  | .vshr d a b => some (enc3 0x25000000 d 16 a 8 b 0)
  | .vsar d a b => some (enc3 0x26000000 d 16 a 8 b 0)
  | .vshli d a n => some (enc3 0x27000000 d 16 a 8 n 0)
  | .vshri d a n => some (enc3 0x28000000 d 16 a 8 n 0)
  | .vsari d a n => some (enc3 0x29000000 d 16 a 8 n 0)
  | .vclz d a => some (enc2 0x2A000000 d 16 a 8)
  | .vpopc d a => some (enc2 0x2B000000 d 16 a 8)
  | .vdiv d a b => some (enc3 0x30000000 d 16 a 8 b 0)
  | .vsqrt d a => some (enc2 0x31000000 d 16 a 8)
  | .vrcp d a => some (enc2 0x32000000 d 16 a 8)
  | .vrsq d a => some (enc2 0x33000000 d 16 a 8)
  | .vexp2 d a => some (enc2 0x34000000 d 16 a 8)
  | .vlog2 d a => some (enc2 0x35000000 d 16 a 8)
  | .vclass d a => some (enc2 0x36000000 d 16 a 8)
  | .vcmp c m a b => some (enc4 0x40000000 c 20 m 17 a 8 b 0)
  | .vsel d a b => some (enc3 0x41000000 d 16 a 8 b 0)
  | .mand d a b => some (enc3 0x42000000 d 16 a 8 b 0)
  | .mor d a b => some (enc3 0x43000000 d 16 a 8 b 0)
  | .mxor d a b => some (enc3 0x44000000 d 16 a 8 b 0)
  | .mnot d a => some (enc2 0x45000000 d 16 a 8)
  | .mpopc d a => some (enc2 0x46000000 d 16 a 8)
  | .mfirst d a => some (enc2 0x47000000 d 16 a 8)
  | .vcvt d a t => some (enc3 0x50000000 d 16 a 8 t 0)
  | .vwiden d a t => some (enc3 0x51000000 d 16 a 8 t 0)
  | .vnarrow d a t => some (enc3 0x52000000 d 16 a 8 t 0)
  | .vquant d a b => some (enc3 0x53000000 d 16 a 8 b 0)
  | .vdeq d a b => some (enc3 0x54000000 d 16 a 8 b 0)
  | .vrsum d a => some (enc2 0x60000000 d 16 a 8)
  | .vrmax d a => some (enc2 0x61000000 d 16 a 8)
  | .vrmin d a => some (enc2 0x62000000 d 16 a 8)
  | .vscan d a => some (enc2 0x63000000 d 16 a 8)
  | .vperm d a b => some (enc3 0x64000000 d 16 a 8 b 0)
  | .vslide d a s => some (enc3 0x65000000 d 16 a 8 s 0)
  | .vbcast d a k => some (enc3 0x66000000 d 16 a 8 k 0)
  | .vcomp d a => some (enc2 0x67000000 d 16 a 8)
  | .vexpd d a => some (enc2 0x68000000 d 16 a 8)
  | .kli k i => some (enc2 0x70000000 k 20 i 0)
  | .kadd d a b => some (enc3 0x71000000 d 16 a 8 b 0)
  | .kmul d a b => some (enc3 0x72000000 d 16 a 8 b 0)
  | .kfadd d a b => some (enc3 0x73000000 d 16 a 8 b 0)
  | .kget d a b => some (enc3 0x74000000 d 16 a 8 b 0)
  | .vins d a b => some (enc3 0x75000000 d 16 a 8 b 0)
  | .kmfs k n => some (enc2 0x76000000 k 20 n 0)
  | .xsetXreg d a => some (enc2 0x77000000 d 16 a 8)
  | .xaddi x i => some (enc2 0x78000000 x 20 i 0)
  | .vld d x o => some (enc3 0x80000000 d 16 x 12 o 0)
  | .vst d x o => some (enc3 0x81000000 d 16 x 12 o 0)
  | .vlds d x k o => some (enc4 0x82000000 d 16 x 12 k 8 o 0)
  | .vsts d x k o => some (enc4 0x83000000 d 16 x 12 k 8 o 0)
  | .vldx d x a => some (enc3 0x84000000 d 16 x 12 a 0)
  | .vstx d x a => some (enc3 0x85000000 d 16 x 12 a 0)
  | .vldp d x o => some (enc3 0x86000000 d 16 x 12 o 0)
  | .vldb d x o => some (enc3 0x87000000 d 16 x 12 o 0)
  | .nset f v => some (enc2 0x10000000 f 20 v 0)
  | .nseth f v => some (enc2 0x20000000 f 20 v 0)
  | .nld a => some (enc1 0x30000000 a 7)
  | .mgo o c d => some (enc3 0x40000000 o 20 c 19 d 0)
  | .mwait n => some (enc1 0x50000000 n 0)
  | .mloop c l => some (enc2 0x60000000 c 16 l 0)
  | .mjmp o => some (enc1 0x70000000 o 0)
  | .mswpt n => some (enc1 0x90000000 n 0)
  | .mwaitb b p t => some (enc3 0xC0000000 b 20 p 19 t 18)
  | .xld a => some (enc1 0x08000000 a 6)
  | .xset f p v => some (enc3 0x10000000 f 21 p 19 v 0)
  | .xgo o d => some (enc2 0x18000000 o 19 d 0)
  | .xwait n => some (enc1 0x20000000 n 0)
  | .xmc o d => some (enc2 0x28000000 o 19 d 0)
  | .xconv o d => some (enc2 0x30000000 o 19 d 0)
  | .xdec o d => some (enc2 0x38000000 o 19 d 0)
  | .xgath o d => some (enc2 0x40000000 o 19 d 0)
  | .xscat o d => some (enc2 0x48000000 o 19 d 0)
  | .xloop c l => some (enc2 0x50000000 c 16 l 0)
  | .xjmp o => some (enc1 0x58000000 o 0)
  | .xswpt n => some (enc1 0x68000000 n 0)
  | .xwaitb b p t => some (enc3 0x70000000 b 20 p 19 t 18)
  | .xpushr o d => some (enc2 0x78000000 o 19 d 0)
  | .lpop o e d => some (enc3 0xC0000000 o 19 e 16 d 0)
  | .lpeek o e d => some (enc3 0xC8000000 o 19 e 16 d 0)
  | .gfetch o e d => some (enc3 0xD0000000 o 19 e 16 d 0)
  | .gshift o e d => some (enc3 0xD8000000 o 19 e 16 d 0)
  | .gpool o e d => some (enc3 0xE0000000 o 19 e 16 d 0)
  | .gdone o => some (enc1 0xE8000000 o 19)
  | .fenceFullT => some (enc0 0x98000800)
  | .fenceFullC => some (enc0 0x98000801)
  | .fenceFullD => some (enc0 0x98000802)
  | .fenceFullS => some (enc0 0x98000803)
  | .yield => some (enc0 0xB0000000)
  | .pstart => some (enc0 0xB0000800)
  | .pwait => some (enc0 0xB0000C00)
  | .exit => some (enc0 0xB0001000)
  | .exitErr => some (enc0 0xB0001001)
  | .eret => some (enc0 0xD0000800)
  | .vend => some (enc0 0x06000000)
  | .mend => some (enc0 0x80000000)
  | .mclr0 => some (enc0 0xA0000001)
  | .mclr1 => some (enc0 0xA0000002)
  | .mclrBoth => some (enc0 0xA0000003)
  | .mdrain => some (enc0 0xB0000000)
  | .xend => some (enc0 0x60000000)
  | .switchPointJump _ => none
  | .registerWrite _ _ => none
  | .queueEnable _ => none
  | .queueDisable _ => none
  | .queueTeardown _ => none
  | .queueReset _ => none
  | .teardownFinish _ => none
  | .futureAllocRead _ => none
  | .queueWake _ => none
  | .recordAdmit _ => none
  | .taskFutureResolve _ => none
  | .taskFutureFail _ => none
  | .taskFutureCancel _ => none
  | .taskFutureFree _ => none
  | .taskFutureReset _ => none
  | .taskTicketServe _ => none
  | .taskTicketInit _ => none
  | .teamPlace _ _ _ _ => none
  | .kernelSlotLoaded _ _ => none
  | .bankClearDone _ => none
  | .swapOutDone _ => none
  | .swapInDone _ => none
  | .occupancyTick => none
  | .classStarved _ => none
  | .quantumExpiry _ => none
  | .switchComplete _ => none
  | .meSwitchDone _ => none
  | .preemptRequest _ => none
  | .teamHalted _ => none
  | .watchdogPreempt _ => none
  | .watchdogForceKill _ => none
  | .watchdogFence _ _ => none
  | .fenceReturn _ => none
  | .taskRetire _ => none
  | .decodeJob _ _ => none
  | .cmuJob _ => none
  | .listJob _ => none
  | .copyJob _ _ => none
  | .collectiveJob _ _ => none
  | .collectiveStagePass _ => none
  | .collectiveTimeout _ => none
  | .tlbMissProbe _ _ _ => none
  | .pageWalk _ _ _ _ => none
  | .invalidateGo _ => none
  | .invalidateAck => none
  | .loadDataArrival _ _ => none
  | .timedLanding _ _ => none
  | .lateLandingFreeze _ => none
  | .completionDeadline _ _ => none
  | .tuJobComplete _ _ => none
  | .pushClaim _ _ => none
  | .windowLanding _ => none
  | .nestValidated _ => none
  | .meBLoadDone _ => none
  | .mePassDone _ => none
  | .meBoundaryDone _ => none
  | .meDrainDone _ => none
  | .nestComplete _ => none
  | .mclrClear _ => none
  | .mdrainClear _ => none
  | .loadBlockFilled _ _ => none
  | .writeDrainDone _ => none
  | .taggedWrite _ => none
  | .restorerWorkDone => none
  | .lineRecall _ => none
  | .atomicApply _ => none
  | .patrolScrub _ _ _ => none
  | .uncorrectableError _ _ _ => none
  | .correctedError _ => none
  | .faultHalt _ => none
  | .handlerEntry _ => none
  | .asyncFault _ => none
  | .clusterGate _ => none
  | .gatedBounce _ _ _ => none
  | .powerEstimateTick _ => none
  | .fllStep _ => none
  | .boostArbiterSample => none
  | .permitIntervalEnd => none
  | .bstbudWrite _ => none
  | .pwrqWrite _ _ => none
  | .sensorSample _ => none
  | .t4PowerRemove => none
  | .hostBar2Read _ _ => none
  | .hostBar2Write _ _ _ => none
  | .hostAtomicop _ _ _ _ _ => none
  | .peerRequest _ _ _ _ _ _ _ => none
  | .outboundCompletion _ _ _ => none
  | .completionTimeout _ => none
  | .linkDown _ => none
  | .linkRetrain _ _ _ => none
  | .getVersion => none
  | .getCapabilities => none
  | .negotiateAlgorithms _ => none
  | .getDigests => none
  | .getCertificate _ => none
  | .challenge _ => none
  | .getMeasurements _ => none
  | .keyExchange _ => none
  | .finish _ => none
  | .endSession => none
  | .logRead _ _ => none
  | .marginingRequest _ => none
  | .marginingDone => none
  | .powerOnStart => none
  | .firmwareVerified _ _ _ => none
  | .sensorsRead _ => none
  | .selfHeatEnd _ => none
  | .hbmTrained _ => none
  | .pcieTrained _ => none
  | .schedulerStarted _ => none
  | .hbmRetrain _ _ => none
  | .deviceUnitReply _ => none
  | .marginingCommand _ _ _ => none
  | .powerLoss => none
  | .recordsSummarised _ _ _ => none

/-- The engines that read an instruction word: its own stream; both TUs and the GQ for a transfer word; the GQ alone
for a gather word (07 R140). -/
def Instr.streams : Instr → List Engine
  | .add _ _ _ => [.sq]
  | .sub _ _ _ => [.sq]
  | .and _ _ _ => [.sq]
  | .or _ _ _ => [.sq]
  | .xor _ _ _ => [.sq]
  | .shl _ _ _ => [.sq]
  | .shr _ _ _ => [.sq]
  | .sar _ _ _ => [.sq]
  | .slt _ _ _ => [.sq]
  | .sltu _ _ _ => [.sq]
  | .min _ _ _ => [.sq]
  | .max _ _ _ => [.sq]
  | .minu _ _ _ => [.sq]
  | .maxu _ _ _ => [.sq]
  | .cmov _ _ _ => [.sq]
  | .andn _ _ _ => [.sq]
  | .mul _ _ _ => [.sq]
  | .mulh _ _ _ => [.sq]
  | .mulhu _ _ _ => [.sq]
  | .div _ _ _ => [.sq]
  | .divu _ _ _ => [.sq]
  | .rem _ _ _ => [.sq]
  | .remu _ _ _ => [.sq]
  | .clz _ _ => [.sq]
  | .ctz _ _ => [.sq]
  | .popc _ _ => [.sq]
  | .bfx _ _ _ => [.sq]
  | .bfxs _ _ _ => [.sq]
  | .bfi _ _ _ => [.sq]
  | .addi _ _ _ => [.sq]
  | .andi _ _ _ => [.sq]
  | .ori _ _ _ => [.sq]
  | .xori _ _ _ => [.sq]
  | .slti _ _ _ => [.sq]
  | .sltui _ _ _ => [.sq]
  | .shli _ _ _ => [.sq]
  | .shri _ _ _ => [.sq]
  | .sari _ _ _ => [.sq]
  | .lui _ _ => [.sq]
  | .auipc _ _ => [.sq]
  | .beq _ _ _ => [.sq]
  | .bne _ _ _ => [.sq]
  | .blt _ _ _ => [.sq]
  | .bge _ _ _ => [.sq]
  | .bltu _ _ _ => [.sq]
  | .bgeu _ _ _ => [.sq]
  | .j _ => [.sq]
  | .jal _ => [.sq]
  | .jalr _ _ _ => [.sq]
  | .loop _ _ => [.sq]
  | .ldb _ _ _ _ => [.sq]
  | .ldbu _ _ _ _ => [.sq]
  | .ldh _ _ _ _ => [.sq]
  | .ldhu _ _ _ _ => [.sq]
  | .ldw _ _ _ _ => [.sq]
  | .ldwu _ _ _ _ => [.sq]
  | .ldd _ _ _ _ => [.sq]
  | .stb _ _ _ => [.sq]
  | .sth _ _ _ => [.sq]
  | .stw _ _ _ => [.sq]
  | .std _ _ _ => [.sq]
  | .lds _ _ _ _ => [.sq]
  | .sts _ _ _ _ => [.sq]
  | .ldp _ _ _ _ => [.sq]
  | .atomSwap _ _ _ _ _ => [.sq]
  | .atomAdd _ _ _ _ _ => [.sq]
  | .atomAnd _ _ _ _ _ => [.sq]
  | .atomOr _ _ _ _ _ => [.sq]
  | .atomXor _ _ _ _ _ => [.sq]
  | .atomMin _ _ _ _ _ => [.sq]
  | .atomMax _ _ _ _ _ => [.sq]
  | .atomMinu _ _ _ _ _ => [.sq]
  | .atomMaxu _ _ _ _ _ => [.sq]
  | .cas _ _ _ _ _ => [.sq]
  | .redAdd _ _ _ _ _ => [.sq]
  | .redAnd _ _ _ _ _ => [.sq]
  | .redOr _ _ _ _ _ => [.sq]
  | .redXor _ _ _ _ _ => [.sq]
  | .redMin _ _ _ _ _ => [.sq]
  | .redMax _ _ _ _ _ => [.sq]
  | .redMinu _ _ _ _ _ => [.sq]
  | .redMaxu _ _ _ _ _ => [.sq]
  | .redFadd32 _ _ _ _ => [.sq]
  | .redFadd64 _ _ _ _ => [.sq]
  | .lda _ _ _ _ _ => [.sq]
  | .stl _ _ _ _ => [.sq]
  | .fenceAcq _ => [.sq]
  | .fenceRel _ => [.sq]
  | .ldblk _ _ _ => [.sq]
  | .blkwait _ => [.sq]
  | .blkfree _ => [.sq]
  | .chwf _ _ => [.sq]
  | .chwe _ _ => [.sq]
  | .chap _ _ => [.sq]
  | .chac _ _ => [.sq]
  | .chst _ _ => [.sq]
  | .binit _ => [.sq]
  | .barr _ => [.sq]
  | .bexp _ _ => [.sq]
  | .bwait _ _ => [.sq]
  | .estart _ => [.sq]
  | .ewait _ => [.sq]
  | .estop _ => [.sq]
  | .mfs _ _ => [.sq]
  | .mts _ _ => [.sq]
  | .swpt _ => [.sq]
  | .falloc _ => [.sq]
  | .fresResolve _ _ _ => [.sq]
  | .fresFail _ _ _ => [.sq]
  | .fresCancel _ _ => [.sq]
  | .fresFree _ _ => [.sq]
  | .fresReset _ _ => [.sq]
  | .fwait _ _ => [.sq]
  | .fpoll _ _ => [.sq]
  | .tktake _ _ => [.sq]
  | .tkwait _ _ => [.sq]
  | .tkserve _ => [.sq]
  | .qenq _ _ _ => [.sq]
  | .qdeq _ _ _ => [.sq]
  | .tsub _ _ _ => [.sq]
  | .snap _ _ _ => [.sq]
  | .sresv _ _ _ => [.sq]
  | .sacc _ => [.sq]
  | .srej _ => [.sq]
  | .sqry _ _ => [.sq]
  | .ldv _ _ _ => [.sq]
  | .tdcls _ _ => [.sq]
  | .tdscan _ _ => [.sq]
  | .cwb _ _ => [.sq]
  | .cinv _ _ => [.sq]
  | .cwbi _ _ => [.sq]
  | .trap _ => [.sq]
  | .brk _ => [.sq]
  | .vsetsh _ _ _ _ => [.ve]
  | .vchmap _ _ _ => [.ve]
  | .vsetpat _ _ _ _ => [.ve]
  | .vsetpatHdr _ _ => [.ve]
  | .vloop _ _ => [.ve]
  | .vjmp _ => [.ve]
  | .vswpt _ => [.ve]
  | .vadvc _ => [.ve]
  | .vadvp _ => [.ve]
  | .vwaitb _ _ => [.ve]
  | .vadd _ _ _ => [.ve]
  | .vsub _ _ _ => [.ve]
  | .vmul _ _ _ => [.ve]
  | .vmulh _ _ _ => [.ve]
  | .vfma _ _ _ => [.ve]
  | .vfms _ _ _ => [.ve]
  | .vmin _ _ _ => [.ve]
  | .vmax _ _ _ => [.ve]
  | .vabs _ _ => [.ve]
  | .vneg _ _ => [.ve]
  | .vadds _ _ _ => [.ve]
  | .vsubs _ _ _ => [.ve]
  | .vavg _ _ _ => [.ve]
  | .vabd _ _ _ => [.ve]
  | .vand _ _ _ => [.ve]
  | .vor _ _ _ => [.ve]
  | .vxor _ _ _ => [.ve]
  | .vnot _ _ => [.ve]
  | .vshl _ _ _ => [.ve]
  | .vshr _ _ _ => [.ve]
  | .vsar _ _ _ => [.ve]
  | .vshli _ _ _ => [.ve]
  | .vshri _ _ _ => [.ve]
  | .vsari _ _ _ => [.ve]
  | .vclz _ _ => [.ve]
  | .vpopc _ _ => [.ve]
  | .vdiv _ _ _ => [.ve]
  | .vsqrt _ _ => [.ve]
  | .vrcp _ _ => [.ve]
  | .vrsq _ _ => [.ve]
  | .vexp2 _ _ => [.ve]
  | .vlog2 _ _ => [.ve]
  | .vclass _ _ => [.ve]
  | .vcmp _ _ _ _ => [.ve]
  | .vsel _ _ _ => [.ve]
  | .mand _ _ _ => [.ve]
  | .mor _ _ _ => [.ve]
  | .mxor _ _ _ => [.ve]
  | .mnot _ _ => [.ve]
  | .mpopc _ _ => [.ve]
  | .mfirst _ _ => [.ve]
  | .vcvt _ _ _ => [.ve]
  | .vwiden _ _ _ => [.ve]
  | .vnarrow _ _ _ => [.ve]
  | .vquant _ _ _ => [.ve]
  | .vdeq _ _ _ => [.ve]
  | .vrsum _ _ => [.ve]
  | .vrmax _ _ => [.ve]
  | .vrmin _ _ => [.ve]
  | .vscan _ _ => [.ve]
  | .vperm _ _ _ => [.ve]
  | .vslide _ _ _ => [.ve]
  | .vbcast _ _ _ => [.ve]
  | .vcomp _ _ => [.ve]
  | .vexpd _ _ => [.ve]
  | .kli _ _ => [.ve]
  | .kadd _ _ _ => [.ve]
  | .kmul _ _ _ => [.ve]
  | .kfadd _ _ _ => [.ve]
  | .kget _ _ _ => [.ve]
  | .vins _ _ _ => [.ve]
  | .kmfs _ _ => [.ve]
  | .xsetXreg _ _ => [.ve]
  | .xaddi _ _ => [.ve]
  | .vld _ _ _ => [.ve]
  | .vst _ _ _ => [.ve]
  | .vlds _ _ _ _ => [.ve]
  | .vsts _ _ _ _ => [.ve]
  | .vldx _ _ _ => [.ve]
  | .vstx _ _ _ => [.ve]
  | .vldp _ _ _ => [.ve]
  | .vldb _ _ _ => [.ve]
  | .nset _ _ => [.me]
  | .nseth _ _ => [.me]
  | .nld _ => [.me]
  | .mgo _ _ _ => [.me]
  | .mwait _ => [.me]
  | .mloop _ _ => [.me]
  | .mjmp _ => [.me]
  | .mswpt _ => [.me]
  | .mwaitb _ _ _ => [.me]
  | .xld _ => [.tu0, .tu1, .gq]
  | .xset _ _ _ => [.tu0, .tu1, .gq]
  | .xgo _ _ => [.tu0, .tu1, .gq]
  | .xwait _ => [.tu0, .tu1, .gq]
  | .xmc _ _ => [.tu0, .tu1, .gq]
  | .xconv _ _ => [.tu0, .tu1, .gq]
  | .xdec _ _ => [.tu0, .tu1, .gq]
  | .xgath _ _ => [.tu0, .tu1, .gq]
  | .xscat _ _ => [.tu0, .tu1, .gq]
  | .xloop _ _ => [.tu0, .tu1, .gq]
  | .xjmp _ => [.tu0, .tu1, .gq]
  | .xswpt _ => [.tu0, .tu1, .gq]
  | .xwaitb _ _ _ => [.tu0, .tu1, .gq]
  | .xpushr _ _ => [.tu0, .tu1, .gq]
  | .lpop _ _ _ => [.gq]
  | .lpeek _ _ _ => [.gq]
  | .gfetch _ _ _ => [.gq]
  | .gshift _ _ _ => [.gq]
  | .gpool _ _ _ => [.gq]
  | .gdone _ => [.gq]
  | .fenceFullT => [.sq]
  | .fenceFullC => [.sq]
  | .fenceFullD => [.sq]
  | .fenceFullS => [.sq]
  | .yield => [.sq]
  | .pstart => [.sq]
  | .pwait => [.sq]
  | .exit => [.sq]
  | .exitErr => [.sq]
  | .eret => [.sq]
  | .vend => [.ve]
  | .mend => [.me]
  | .mclr0 => [.me]
  | .mclr1 => [.me]
  | .mclrBoth => [.me]
  | .mdrain => [.me]
  | .xend => [.tu0, .tu1, .gq]
  | .switchPointJump _ => []
  | .registerWrite _ _ => []
  | .queueEnable _ => []
  | .queueDisable _ => []
  | .queueTeardown _ => []
  | .queueReset _ => []
  | .teardownFinish _ => []
  | .futureAllocRead _ => []
  | .queueWake _ => []
  | .recordAdmit _ => []
  | .taskFutureResolve _ => []
  | .taskFutureFail _ => []
  | .taskFutureCancel _ => []
  | .taskFutureFree _ => []
  | .taskFutureReset _ => []
  | .taskTicketServe _ => []
  | .taskTicketInit _ => []
  | .teamPlace _ _ _ _ => []
  | .kernelSlotLoaded _ _ => []
  | .bankClearDone _ => []
  | .swapOutDone _ => []
  | .swapInDone _ => []
  | .occupancyTick => []
  | .classStarved _ => []
  | .quantumExpiry _ => []
  | .switchComplete _ => []
  | .meSwitchDone _ => []
  | .preemptRequest _ => []
  | .teamHalted _ => []
  | .watchdogPreempt _ => []
  | .watchdogForceKill _ => []
  | .watchdogFence _ _ => []
  | .fenceReturn _ => []
  | .taskRetire _ => []
  | .decodeJob _ _ => []
  | .cmuJob _ => []
  | .listJob _ => []
  | .copyJob _ _ => []
  | .collectiveJob _ _ => []
  | .collectiveStagePass _ => []
  | .collectiveTimeout _ => []
  | .tlbMissProbe _ _ _ => []
  | .pageWalk _ _ _ _ => []
  | .invalidateGo _ => []
  | .invalidateAck => []
  | .loadDataArrival _ _ => []
  | .timedLanding _ _ => []
  | .lateLandingFreeze _ => []
  | .completionDeadline _ _ => []
  | .tuJobComplete _ _ => []
  | .pushClaim _ _ => []
  | .windowLanding _ => []
  | .nestValidated _ => []
  | .meBLoadDone _ => []
  | .mePassDone _ => []
  | .meBoundaryDone _ => []
  | .meDrainDone _ => []
  | .nestComplete _ => []
  | .mclrClear _ => []
  | .mdrainClear _ => []
  | .loadBlockFilled _ _ => []
  | .writeDrainDone _ => []
  | .taggedWrite _ => []
  | .restorerWorkDone => []
  | .lineRecall _ => []
  | .atomicApply _ => []
  | .patrolScrub _ _ _ => []
  | .uncorrectableError _ _ _ => []
  | .correctedError _ => []
  | .faultHalt _ => []
  | .handlerEntry _ => []
  | .asyncFault _ => []
  | .clusterGate _ => []
  | .gatedBounce _ _ _ => []
  | .powerEstimateTick _ => []
  | .fllStep _ => []
  | .boostArbiterSample => []
  | .permitIntervalEnd => []
  | .bstbudWrite _ => []
  | .pwrqWrite _ _ => []
  | .sensorSample _ => []
  | .t4PowerRemove => []
  | .hostBar2Read _ _ => []
  | .hostBar2Write _ _ _ => []
  | .hostAtomicop _ _ _ _ _ => []
  | .peerRequest _ _ _ _ _ _ _ => []
  | .outboundCompletion _ _ _ => []
  | .completionTimeout _ => []
  | .linkDown _ => []
  | .linkRetrain _ _ _ => []
  | .getVersion => []
  | .getCapabilities => []
  | .negotiateAlgorithms _ => []
  | .getDigests => []
  | .getCertificate _ => []
  | .challenge _ => []
  | .getMeasurements _ => []
  | .keyExchange _ => []
  | .finish _ => []
  | .endSession => []
  | .logRead _ _ => []
  | .marginingRequest _ => []
  | .marginingDone => []
  | .powerOnStart => []
  | .firmwareVerified _ _ _ => []
  | .sensorsRead _ => []
  | .selfHeatEnd _ => []
  | .hbmTrained _ => []
  | .pcieTrained _ => []
  | .schedulerStarted _ => []
  | .hbmRetrain _ _ => []
  | .deviceUnitReply _ => []
  | .marginingCommand _ _ _ => []
  | .powerLoss => []
  | .recordsSummarised _ _ _ => []

/-- The row of the tables of engine `e` that a word matches. -/
def decodeRow (e : Engine) (w : Nat) : Option Instr :=
  match e with
  | .sq => decodeSq w
  | .ve => decodeVe w
  | .me => decodeMe w
  | .tu0 | .tu1 | .gq => decodeTu w

/-- What engine `e` issues when it meets the word `w` (07 R139, R140). -/
def decode (e : Engine) (w : Word) : Except DecodeError Instr :=
  if w = 0 then .error .zeroWord
  else
    match decodeRow e w.toNat with
    | none => .error .reserved
    | some i =>
      if !i.streams.contains e then .error .gatherOnly
      else if i.wellFormed then .ok i else .error .badField

/-- The four bytes of a word at rising addresses, and back: words are stored little-endian (07 R139). -/
def wordBytes (w : Word) : List Byte :=
  [w.extractLsb' 0 8, w.extractLsb' 8 8, w.extractLsb' 16 8, w.extractLsb' 24 8]

def wordOfBytes : List Byte → Word
  | [b0, b1, b2, b3] => BitVec.ofNat 32 (b0.toNat + b1.toNat * 2 ^ 8 + b2.toNat * 2 ^ 16 + b3.toNat * 2 ^ 24)
  | _ => 0

/-- Decoding from the bytes of a code section: the first word and the bytes that follow it. -/
def decodeBytes (e : Engine) : List Byte → Option (Except DecodeError Instr × List Byte)
  | b0 :: b1 :: b2 :: b3 :: rest => some (decode e (wordOfBytes [b0, b1, b2, b3]), rest)
  | _ => none

/-- The bits of its word that a row fixes (its mask in the opcode table). -/
def Instr.opcodeMask : Instr → Nat
  | .add _ _ _ => 0xfc0000ff
  | .sub _ _ _ => 0xfc0000ff
  | .and _ _ _ => 0xfc0000ff
  | .or _ _ _ => 0xfc0000ff
  | .xor _ _ _ => 0xfc0000ff
  | .shl _ _ _ => 0xfc0000ff
  | .shr _ _ _ => 0xfc0000ff
  | .sar _ _ _ => 0xfc0000ff
  | .slt _ _ _ => 0xfc0000ff
  | .sltu _ _ _ => 0xfc0000ff
  | .min _ _ _ => 0xfc0000ff
  | .max _ _ _ => 0xfc0000ff
  | .minu _ _ _ => 0xfc0000ff
  | .maxu _ _ _ => 0xfc0000ff
  | .cmov _ _ _ => 0xfc0000ff
  | .andn _ _ _ => 0xfc0000ff
  | .mul _ _ _ => 0xfc0000ff
  | .mulh _ _ _ => 0xfc0000ff
  | .mulhu _ _ _ => 0xfc0000ff
  | .div _ _ _ => 0xfc0000ff
  | .divu _ _ _ => 0xfc0000ff
  | .rem _ _ _ => 0xfc0000ff
  | .remu _ _ _ => 0xfc0000ff
  | .clz _ _ => 0xfc003fff
  | .ctz _ _ => 0xfc003fff
  | .popc _ _ => 0xfc003fff
  | .bfx _ _ _ => 0xfc0000ff
  | .bfxs _ _ _ => 0xfc0000ff
  | .bfi _ _ _ => 0xfc0000ff
  | .addi _ _ _ => 0xfc000000
  | .andi _ _ _ => 0xfc000000
  | .ori _ _ _ => 0xfc000000
  | .xori _ _ _ => 0xfc000000
  | .slti _ _ _ => 0xfc000000
  | .sltui _ _ _ => 0xfc000000
  | .shli _ _ _ => 0xfc003fc0
  | .shri _ _ _ => 0xfc003fc0
  | .sari _ _ _ => 0xfc003fc0
  | .lui _ _ => 0xfc000000
  | .auipc _ _ => 0xfc000000
  | .beq _ _ _ => 0xfc000000
  | .bne _ _ _ => 0xfc000000
  | .blt _ _ _ => 0xfc000000
  | .bge _ _ _ => 0xfc000000
  | .bltu _ _ _ => 0xfc000000
  | .bgeu _ _ _ => 0xfc000000
  | .j _ => 0xfc000000
  | .jal _ => 0xfc000000
  | .jalr _ _ _ => 0xfc000000
  | .loop _ _ => 0xfff02000
  | .ldb _ _ _ _ => 0xfc000000
  | .ldbu _ _ _ _ => 0xfc000000
  | .ldh _ _ _ _ => 0xfc000000
  | .ldhu _ _ _ _ => 0xfc000000
  | .ldw _ _ _ _ => 0xfc000000
  | .ldwu _ _ _ _ => 0xfc000000
  | .ldd _ _ _ _ => 0xfc000000
  | .stb _ _ _ => 0xfc003f00
  | .sth _ _ _ => 0xfc003f00
  | .stw _ _ _ => 0xfc003f00
  | .std _ _ _ => 0xfc003f00
  | .lds _ _ _ _ => 0xfc000000
  | .sts _ _ _ _ => 0xfc000000
  | .ldp _ _ _ _ => 0xfc000000
  | .atomSwap _ _ _ _ _ => 0xfc00000f
  | .atomAdd _ _ _ _ _ => 0xfc00000f
  | .atomAnd _ _ _ _ _ => 0xfc00000f
  | .atomOr _ _ _ _ _ => 0xfc00000f
  | .atomXor _ _ _ _ _ => 0xfc00000f
  | .atomMin _ _ _ _ _ => 0xfc00000f
  | .atomMax _ _ _ _ _ => 0xfc00000f
  | .atomMinu _ _ _ _ _ => 0xfc00000f
  | .atomMaxu _ _ _ _ _ => 0xfc00000f
  | .cas _ _ _ _ _ => 0xfc00000f
  | .redAdd _ _ _ _ _ => 0xffe0004f
  | .redAnd _ _ _ _ _ => 0xffe0004f
  | .redOr _ _ _ _ _ => 0xffe0004f
  | .redXor _ _ _ _ _ => 0xffe0004f
  | .redMin _ _ _ _ _ => 0xffe0004f
  | .redMax _ _ _ _ _ => 0xffe0004f
  | .redMinu _ _ _ _ _ => 0xffe0004f
  | .redMaxu _ _ _ _ _ => 0xffe0004f
  | .redFadd32 _ _ _ _ => 0xfff0004f
  | .redFadd64 _ _ _ _ => 0xfff0004f
  | .lda _ _ _ _ _ => 0xfc003fe0
  | .stl _ _ _ _ => 0xfc003ff0
  | .fenceAcq _ => 0xfffffffc
  | .fenceRel _ => 0xfffffffc
  | .ldblk _ _ _ => 0xfc003fc0
  | .blkwait _ => 0xfc0fffff
  | .blkfree _ => 0xfc0fffff
  | .chwf _ _ => 0xfffffc00
  | .chwe _ _ => 0xfffffc00
  | .chap _ _ => 0xfffffc00
  | .chac _ _ => 0xfffffc00
  | .chst _ _ => 0xfc0ffff0
  | .binit _ => 0xffffffe0
  | .barr _ => 0xffffffe0
  | .bexp _ _ => 0xfff03fe0
  | .bwait _ _ => 0xfff03fe0
  | .estart _ => 0xffffffe0
  | .ewait _ => 0xffffffe0
  | .estop _ => 0xffffffe0
  | .mfs _ _ => 0xfc0ffc00
  | .mts _ _ => 0xfff03c00
  | .swpt _ => 0xffffff00
  | .falloc _ => 0xfc0fffff
  | .fresResolve _ _ _ => 0xfc0000ff
  | .fresFail _ _ _ => 0xfc0000ff
  | .fresCancel _ _ => 0xfc003fff
  | .fresFree _ _ => 0xfc003fff
  | .fresReset _ _ => 0xfc003fff
  | .fwait _ _ => 0xfc003fff
  | .fpoll _ _ => 0xfc003fff
  | .tktake _ _ => 0xfc003fff
  | .tkwait _ _ => 0xfff000ff
  | .tkserve _ => 0xfff03fff
  | .qenq _ _ _ => 0xfc0000ff
  | .qdeq _ _ _ => 0xfc0000ff
  | .tsub _ _ _ => 0xfc0000ff
  | .snap _ _ _ => 0xfc0000ff
  | .sresv _ _ _ => 0xfc0000ff
  | .sacc _ => 0xfff03fff
  | .srej _ => 0xfff03fff
  | .sqry _ _ => 0xfc003fff
  | .ldv _ _ _ => 0xfc0000ff
  | .tdcls _ _ => 0xfc003fff
  | .tdscan _ _ => 0xfff03c00
  | .cwb _ _ => 0xfff03c00
  | .cinv _ _ => 0xfff03c00
  | .cwbi _ _ => 0xfff03c00
  | .trap _ => 0xfffffc00
  | .brk _ => 0xfffffc00
  | .vsetsh _ _ _ _ => 0xfffff800
  | .vchmap _ _ _ => 0xff0ffff0
  | .vsetpat _ _ _ _ => 0xff0fe000
  | .vsetpatHdr _ _ => 0xfffff800
  | .vloop _ _ => 0xff000000
  | .vjmp _ => 0xfff00000
  | .vswpt _ => 0xffffff00
  | .vadvc _ => 0xfffffff0
  | .vadvp _ => 0xfffffff0
  | .vwaitb _ _ => 0xff0fffe0
  | .vadd _ _ _ => 0xff000000
  | .vsub _ _ _ => 0xff000000
  | .vmul _ _ _ => 0xff000000
  | .vmulh _ _ _ => 0xff000000
  | .vfma _ _ _ => 0xff000000
  | .vfms _ _ _ => 0xff000000
  | .vmin _ _ _ => 0xff000000
  | .vmax _ _ _ => 0xff000000
  | .vabs _ _ => 0xff0000ff
  | .vneg _ _ => 0xff0000ff
  | .vadds _ _ _ => 0xff000000
  | .vsubs _ _ _ => 0xff000000
  | .vavg _ _ _ => 0xff000000
  | .vabd _ _ _ => 0xff000000
  | .vand _ _ _ => 0xff000000
  | .vor _ _ _ => 0xff000000
  | .vxor _ _ _ => 0xff000000
  | .vnot _ _ => 0xff0000ff
  | .vshl _ _ _ => 0xff000000
  | .vshr _ _ _ => 0xff000000
  | .vsar _ _ _ => 0xff000000
  | .vshli _ _ _ => 0xff0000e0
  | .vshri _ _ _ => 0xff0000e0
  | .vsari _ _ _ => 0xff0000e0
  | .vclz _ _ => 0xff0000ff
  | .vpopc _ _ => 0xff0000ff
  | .vdiv _ _ _ => 0xff000000
  | .vsqrt _ _ => 0xff0000ff
  | .vrcp _ _ => 0xff0000ff
  | .vrsq _ _ => 0xff0000ff
  | .vexp2 _ _ => 0xff0000ff
  | .vlog2 _ _ => 0xff0000ff
  | .vclass _ _ => 0xff0000ff
  | .vcmp _ _ _ _ => 0xff010000
  | .vsel _ _ _ => 0xff000000
  | .mand _ _ _ => 0xfff8f8f8
  | .mor _ _ _ => 0xfff8f8f8
  | .mxor _ _ _ => 0xfff8f8f8
  | .mnot _ _ => 0xfff8f8ff
  | .mpopc _ _ => 0xfff0f8ff
  | .mfirst _ _ => 0xfff0f8ff
  | .vcvt _ _ _ => 0xff0000f0
  | .vwiden _ _ _ => 0xff0000f0
  | .vnarrow _ _ _ => 0xff0000f0
  | .vquant _ _ _ => 0xff000000
  | .vdeq _ _ _ => 0xff000000
  | .vrsum _ _ => 0xff0000ff
  | .vrmax _ _ => 0xff0000ff
  | .vrmin _ _ => 0xff0000ff
  | .vscan _ _ => 0xff0000ff
  | .vperm _ _ _ => 0xff000000
  | .vslide _ _ _ => 0xff000000
  | .vbcast _ _ _ => 0xff0000f0
  | .vcomp _ _ => 0xff0000ff
  | .vexpd _ _ => 0xff0000ff
  | .kli _ _ => 0xff000000
  | .kadd _ _ _ => 0xfff0f0f0
  | .kmul _ _ _ => 0xfff0f0f0
  | .kfadd _ _ _ => 0xfff0f0f0
  | .kget _ _ _ => 0xfff000f0
  | .vins _ _ _ => 0xff00f0f0
  | .kmfs _ _ => 0xff0ffc00
  | .xsetXreg _ _ => 0xfff0f0ff
  | .xaddi _ _ => 0xff000000
  | .vld _ _ _ => 0xff000000
  | .vst _ _ _ => 0xff000000
  | .vlds _ _ _ _ => 0xff000000
  | .vsts _ _ _ _ => 0xff000000
  | .vldx _ _ _ => 0xff000f00
  | .vstx _ _ _ => 0xff000f00
  | .vldp _ _ _ => 0xff000000
  | .vldb _ _ _ => 0xff000000
  | .nset _ _ => 0xf0000000
  | .nseth _ _ => 0xf0000000
  | .nld _ => 0xff80007f
  | .mgo _ _ _ => 0xf0070000
  | .mwait _ => 0xfffffff8
  | .mloop _ _ => 0xf0000000
  | .mjmp _ => 0xf0000000
  | .mswpt _ => 0xffffff00
  | .mwaitb _ _ _ => 0xfe03ffff
  | .xld _ => 0xff80003f
  | .xset _ _ _ => 0xf8000000
  | .xgo _ _ => 0xf8070000
  | .xwait _ => 0xfffffff8
  | .xmc _ _ => 0xf8070000
  | .xconv _ _ => 0xf8070000
  | .xdec _ _ => 0xf8070000
  | .xgath _ _ => 0xf8070000
  | .xscat _ _ => 0xf8070000
  | .xloop _ _ => 0xf8000000
  | .xjmp _ => 0xf8000000
  | .xswpt _ => 0xffffff00
  | .xwaitb _ _ _ => 0xfe03ffff
  | .xpushr _ _ => 0xf8070000
  | .lpop _ _ _ => 0xf8000000
  | .lpeek _ _ _ => 0xf8000000
  | .gfetch _ _ _ => 0xf8000000
  | .gshift _ _ _ => 0xf8000000
  | .gpool _ _ _ => 0xf8000000
  | .gdone _ => 0xf807ffff
  | .fenceFullT => 0xffffffff
  | .fenceFullC => 0xffffffff
  | .fenceFullD => 0xffffffff
  | .fenceFullS => 0xffffffff
  | .yield => 0xffffffff
  | .pstart => 0xffffffff
  | .pwait => 0xffffffff
  | .exit => 0xffffffff
  | .exitErr => 0xffffffff
  | .eret => 0xffffffff
  | .vend => 0xffffffff
  | .mend => 0xffffffff
  | .mclr0 => 0xffffffff
  | .mclr1 => 0xffffffff
  | .mclrBoth => 0xffffffff
  | .mdrain => 0xffffffff
  | .xend => 0xffffffff
  | .switchPointJump _ => 0
  | .registerWrite _ _ => 0
  | .queueEnable _ => 0
  | .queueDisable _ => 0
  | .queueTeardown _ => 0
  | .queueReset _ => 0
  | .teardownFinish _ => 0
  | .futureAllocRead _ => 0
  | .queueWake _ => 0
  | .recordAdmit _ => 0
  | .taskFutureResolve _ => 0
  | .taskFutureFail _ => 0
  | .taskFutureCancel _ => 0
  | .taskFutureFree _ => 0
  | .taskFutureReset _ => 0
  | .taskTicketServe _ => 0
  | .taskTicketInit _ => 0
  | .teamPlace _ _ _ _ => 0
  | .kernelSlotLoaded _ _ => 0
  | .bankClearDone _ => 0
  | .swapOutDone _ => 0
  | .swapInDone _ => 0
  | .occupancyTick => 0
  | .classStarved _ => 0
  | .quantumExpiry _ => 0
  | .switchComplete _ => 0
  | .meSwitchDone _ => 0
  | .preemptRequest _ => 0
  | .teamHalted _ => 0
  | .watchdogPreempt _ => 0
  | .watchdogForceKill _ => 0
  | .watchdogFence _ _ => 0
  | .fenceReturn _ => 0
  | .taskRetire _ => 0
  | .decodeJob _ _ => 0
  | .cmuJob _ => 0
  | .listJob _ => 0
  | .copyJob _ _ => 0
  | .collectiveJob _ _ => 0
  | .collectiveStagePass _ => 0
  | .collectiveTimeout _ => 0
  | .tlbMissProbe _ _ _ => 0
  | .pageWalk _ _ _ _ => 0
  | .invalidateGo _ => 0
  | .invalidateAck => 0
  | .loadDataArrival _ _ => 0
  | .timedLanding _ _ => 0
  | .lateLandingFreeze _ => 0
  | .completionDeadline _ _ => 0
  | .tuJobComplete _ _ => 0
  | .pushClaim _ _ => 0
  | .windowLanding _ => 0
  | .nestValidated _ => 0
  | .meBLoadDone _ => 0
  | .mePassDone _ => 0
  | .meBoundaryDone _ => 0
  | .meDrainDone _ => 0
  | .nestComplete _ => 0
  | .mclrClear _ => 0
  | .mdrainClear _ => 0
  | .loadBlockFilled _ _ => 0
  | .writeDrainDone _ => 0
  | .taggedWrite _ => 0
  | .restorerWorkDone => 0
  | .lineRecall _ => 0
  | .atomicApply _ => 0
  | .patrolScrub _ _ _ => 0
  | .uncorrectableError _ _ _ => 0
  | .correctedError _ => 0
  | .faultHalt _ => 0
  | .handlerEntry _ => 0
  | .asyncFault _ => 0
  | .clusterGate _ => 0
  | .gatedBounce _ _ _ => 0
  | .powerEstimateTick _ => 0
  | .fllStep _ => 0
  | .boostArbiterSample => 0
  | .permitIntervalEnd => 0
  | .bstbudWrite _ => 0
  | .pwrqWrite _ _ => 0
  | .sensorSample _ => 0
  | .t4PowerRemove => 0
  | .hostBar2Read _ _ => 0
  | .hostBar2Write _ _ _ => 0
  | .hostAtomicop _ _ _ _ _ => 0
  | .peerRequest _ _ _ _ _ _ _ => 0
  | .outboundCompletion _ _ _ => 0
  | .completionTimeout _ => 0
  | .linkDown _ => 0
  | .linkRetrain _ _ _ => 0
  | .getVersion => 0
  | .getCapabilities => 0
  | .negotiateAlgorithms _ => 0
  | .getDigests => 0
  | .getCertificate _ => 0
  | .challenge _ => 0
  | .getMeasurements _ => 0
  | .keyExchange _ => 0
  | .finish _ => 0
  | .endSession => 0
  | .logRead _ _ => 0
  | .marginingRequest _ => 0
  | .marginingDone => 0
  | .powerOnStart => 0
  | .firmwareVerified _ _ _ => 0
  | .sensorsRead _ => 0
  | .selfHeatEnd _ => 0
  | .hbmTrained _ => 0
  | .pcieTrained _ => 0
  | .schedulerStarted _ => 0
  | .hbmRetrain _ _ => 0
  | .deviceUnitReply _ => 0
  | .marginingCommand _ _ _ => 0
  | .powerLoss => 0
  | .recordsSummarised _ _ _ => 0

/-- A word alone does not say which engine issues it (07, opening): one bit pattern has a meaning in each.  The engine
for `decodeTableWord` is the one in whose tables the word is an instruction whose operand fields are all zero, and of
those, or else of all, the one with the most fixed bits (log 2). -/
def fixedBits (w : Nat) (e : Engine) : Nat :=
  match decode e (BitVec.ofNat 32 w) with
  | .error _ => 0
  | .ok i => (if w &&& i.opcodeMask = w then 32 else 0) + ((List.range 32).filter fun b => fld i.opcodeMask b 1 = 1).length

/-- The engine with the best reading of the word; the first of SQ, VE, ME, TU0, GQ among equals (log 2). -/
def tableEngine (w : Nat) : Engine :=
  [Engine.ve, .me, .tu0, .gq].foldl (fun best e => if fixedBits w best < fixedBits w e then e else best) .sq

/-- The instruction the decoder reads from a table row's word (log 2). -/
def decodeTableWord (nbits w : Nat) : Option Instr :=
  if nbits = 32 then
    match decode (tableEngine w) (wordOfBytes (wordBytes (BitVec.ofNat 32 w))) with
    | .ok i => some i
    | .error _ => none
  else none

end Sys2Proof
end

