-- ==== Sys2Proof/Machine/TuJobs.lean ====
section
/-!
DEFINITION. Sys2Proof/Machine/TuJobs.lean: what a transfer job does once started (11 R263-R280): its first request and the beats of its
local sides, reading its elements, converting them, writing them, pushing, window beats, and the firing of completion objects.  Of
the elements moved in one step all are read first and written after: an interleaving that R266 allows.  A job between scratchpad
ranges takes the cycles of Table 11-8; one with a memory side, and a push, moves as many elements as TU_JOB_COMPLETE says (log 9).
-/
namespace Sys2Proof.Machine

/-- An element on its way: its pattern, its poison mark, and flags: 1 saturated, 2 became ±∞, 4 a block with SPC ≠ 0. -/
structure Elem where
  x : Nat
  mark : Bool := false
  fl : Nat := 0
deriving DecidableEq, Repr

/-- Why a job stops at an element. -/
structure JobFail where
  cause : Cause
  operand : Nat
  addr : Nat
  info : Nat := 0
deriving DecidableEq, Repr

def KttFail.job (f : KttFail) (operand : Nat) : JobFail :=
  { cause := f.cause, operand := if f.cause = .poison then 0 else operand, addr := f.addr, info := f.idx }

/-! Which job advances (R266, 06 R126, R127). -/

/-- The engine of a transfer stream's number. -/
def streamOf (eng : Nat) : Engine := if eng = 3 then .tu0 else if eng = 4 then .tu1 else .gq

/-- The job has passed its named cycle without completing, and has a memory side (06 R126). -/
def TuJob.late (j : TuJob) (cycle : Nat) : Bool :=
  !j.done && j.memSide && (match j.named with
    | some c => decide (c ≤ cycle)
    | none => false)

/-- Jobs advance as nests do; in a freeze only a late job and the earlier jobs of its stream. -/
def State.jobRuns (s : State) (n : Nat) (t : Team) (e : Engine) (j : TuJob) : Bool :=
  let d := domainOf (coreOfSlot n)
  if t.faulted e then false
  else if (s.clk d).frozen then
    (s.updClk d fun k => { k with frozen := false }).advancing n &&
      (t.tu e).jobs.any fun k => j.seq ≤ k.seq && k.late t.cycle
  else s.advancing n

/-- Whether ranges meet. -/
def rangesMeet (a b : List (Nat × Nat)) : Bool := a.any fun x => b.any fun y => x.1 < y.1 + y.2 && y.1 < x.1 + x.2

def JobKind.isPush (k : JobKind) : Bool := k = .xpushr || k = .gfetch || k = .gpool || k = .gdone

def TuJob.isWindow (j : TuJob) : Bool := j.kind = .xgo && Xfer.dkind j.d = 2

/-- The local bytes that a job writes in its own team or its targets, other than a push. -/
def TuJob.localDst (j : TuJob) : List (Nat × Nat) :=
  if j.kind.isPush || j.kind = .lpop || j.kind = .lpeek || j.kind = .gshift || Xfer.dkind j.d = 0 then [] else j.dstSide.ranges

/-- A job that later jobs may pass: a push, whose claim may wait, or a window job whose beats are under way. -/
def TuJob.passable (j k : TuJob) : Bool :=
  j.done || j.kind.isPush || (j.isWindow && !rangesMeet j.localDst k.localDst)

/-- The first job of a list that `p` selects and that no earlier one holds back. -/
def firstJob (p : TuJob → Bool) : List TuJob → List TuJob → Option TuJob
  | _, [] => none
  | before, j :: r => if p j && before.all (·.passable j) then some j else firstJob p (before ++ [j]) r

/-- The job of the stream that `p` selects and that may advance. -/
def State.pickJob (s : State) (n : Nat) (t : Team) (e : Engine) (p : TuJob → Bool) : Option TuJob :=
  firstJob (fun j => !j.done && p j && s.jobRuns n t e j) [] (t.tu e).jobs

def Team.updJob (t : Team) (e : Engine) (j : TuJob) : Team :=
  t.updTu e fun u => { u with jobs := u.jobs.map fun k => if k.seq = j.seq then j else k }

/-! Completion (R272, 06 R125, R132). -/

/-- The job lands bytes in its own team's scratchpad. -/
def TuJob.landsOwn (j : TuJob) (core : Nat) : Bool :=
  match j.kind with
  | .xmc => (j.coreMask core).contains core
  | .xgo => Xfer.dkind j.d = 1 || (Xfer.dkind j.d = 2 && (j.coreMask core).contains core)
  | .xconv | .xdec | .xgath => true
  | _ => false

/-- An LPOP or LPEEK writes its entry register as it fires (12 R310, R312). -/
def Team.fireEntry (t : Team) (j : TuJob) : Team :=
  if j.kind = .lpop || j.kind = .lpeek then
    let g := t.gq
    let g1 : TuState := { g with ent := SMap.put 0 g.ent j.ent j.res }
    if j.kind = .lpop then
      let mine := (g.iterPops.find? fun p => p.2 = j.seq).map (·.1)
      let ended : Bool := 0xFE ≤ bitsOf j.res.toNat 40 8
      { t with gq := { g1 with iterPops := g.iterPops.filter fun p => p.2 ≠ j.seq,
                               iterEnd := match mine with
                                 | some d => if ended then setInsert d g.iterEnd else g.iterEnd
                                 | none => g.iterEnd } }
    else { t with gq := g1 }
  else t

/-- The completed jobs at the head of a stream fire in issue order, each at its named cycle or later. -/
def Team.fireJobs (core : Nat) (e : Engine) : Nat → Team → Team
  | 0, t => t
  | k + 1, t =>
    match (t.tu e).jobs with
    | [] => t
    | j :: r =>
      if j.done && mayFire j.named j.doneAt t.cycle then
        match t.fireCo j.co (!j.landsOwn core) with
        | some t1 => Team.fireJobs core e k ((t1.fireEntry j).updTu e fun u => { u with jobs := r })
        | none => t
      else t

/-- Fire what can fire in a stream. -/
def State.fireStream (s : State) (n : Nat) (e : Engine) : State :=
  s.updTeam n fun t => t.fireJobs (coreOfSlot n) e (t.tu e).jobs.length

/-- The cycle in which a job of team `n` completes: the one under way, or the last one when the next has not begun or the domain is frozen
in it (06 R126). -/
def State.cycleNow (s : State) (n : Nat) (t : Team) : Nat :=
  let d := domainOf (coreOfSlot n)
  if domainOf s.sel.core = d && !(s.clk d).frozen then t.cycle else t.cycle - 1

/-- A job completes. -/
def State.finishJob (s : State) (n : Nat) (e : Engine) (j : TuJob) : State :=
  (s.updTeam n fun t => t.updJob e { j with done := true, doneAt := s.cycleNow n t }).fireStream n e

/-- A job stops with a fault at element `el` of a side (R264, 17 R400) (log 21). -/
def State.jobFault (s : State) (n : Nat) (e : Engine) (j : TuJob) (f : JobFail) (idx : List Nat) : State :=
  (s.updTeam n fun t => t.updJob e j).raise n
    { cause := f.cause, eng := e.num, operand := f.operand, pc := j.pc, addr := BitVec.ofNat 64 f.addr, info := f.info,
      seq := j.seq, idx := idx ++ [0, 0] }

/-! Reading. -/

/-- A read by a job of a team's engine (log 10). -/
def State.jobPhys (s : State) (slot pa k : Nat) (fresh : Bool) : State × List Byte × Bool :=
  s.unitRead (coreOfSlot slot) slot pa k fresh

/-- Whether bytes lie inside a registered region. -/
def State.inRegion (s : State) (asid r va k : Nat) : Bool :=
  match s.region? asid r with
  | some (b, l) => decide (b ≤ va) && decide (va + k ≤ b + l)
  | none => false

/-- One element's bytes, through a view when a handle is given (16 R394). -/
def State.readVirt (s : State) (n : Nat) (t : Team) (view : Option DWord) (va k : Nat) (fresh : Bool) :
    Except JobFail (State × List Byte × Bool) :=
  match kttLookup (s.kslot n t) va .r with
  | .error f => .error (f.job 7)
  | .ok e =>
    let pa := e.pa + (va - e.va)
    match view with
    | none => .ok (s.jobPhys n pa k fresh)
    | some h =>
      let bad : JobFail := { cause := .snapbad, operand := 12, addr := va, info := h.toNat % 2 ^ 32 }
      match s.openHandle t.asid h with
      | none => .error bad
      | some (r, l) =>
        if s.inRegion t.asid r va k then
          let (bs, m) := s.viewBytes t.asid r l pa k
          .ok (s, bs, m)
        else .error bad

/-- Element n of a local side: pattern and poison. -/
def Team.spElem (t : Team) (d : Side) (n : Nat) : Elem :=
  if d.planes ≠ 0 then
    let a (j : Nat) : Nat := d.tile (n / 32768) + 4096 * j + n % 32768 / 8
    { x := ((List.range d.planes).map fun j => if bitAt (t.spByte (a j)).toNat (n % 8) then 2 ^ j else 0).sum,
      mark := (List.range d.planes).any fun j => t.spMarked (a j) 1 }
  else if d.bits = 4 then
    { x := bitsOf (t.spByte (d.addr n)).toNat (4 * (d.addr2 n % 2)) 4, mark := t.spMarked (d.addr n) 1 }
  else { x := ofBytes (t.spRead (d.addr n) (d.bits / 8)), mark := t.spMarked (d.addr n) (d.bits / 8) }

/-- The index that chooses the row of element n of an XGATH: none when it is poisoned (R275, log 17). -/
def Team.gatherIx (t : Team) (j : TuJob) (n : Nat) : Option Nat :=
  let la := Xfer.aux j.d % 2 ^ 23 + 4 * (n / j.srcSide.cnt.getD 0 1)
  if t.spMarked la 4 then none else some (ofBytes (t.spRead la 4))

/-- Where element n of the source stands, in nibbles; for XGATH, in the row that `ix` names. -/
def TuJob.srcAddr (j : TuJob) (ix n : Nat) : Nat :=
  let d := j.srcSide
  if j.kind = .xgath then
    let a : Int := 2 * ((d.base : Int) + ix * d.str.getD 0 0) + (n % d.cnt.getD 0 1 * d.nib : Nat)
    (a % 2 ^ 58).toNat
  else d.addr2 n

/-- Elements read so far of a job: the state, the job with the rows that XGATH has read, the elements, and why the next one fails. -/
structure ReadRun where
  s : State
  j : TuJob
  xs : List Elem := []
  fail : Option JobFail := none

/-- Read one more element of a memory side, `first` when it begins a request: an element that XGATH has read once in the job is not read
again (R275). -/
def ReadRun.next (r : ReadRun) (n : Nat) (t : Team) (first : Bool) (i : Nat) : ReadRun :=
  let d := r.j.srcSide
  let keep (s : State) (j : TuJob) (x : Elem) : ReadRun := { s := s, j := j, xs := x :: r.xs }
  let fetch (ix : Nat) (done : State → Elem → ReadRun) : ReadRun :=
    let a2 := r.j.srcAddr ix i
    let k := max 1 (d.bits / 8)
    let fresh : Bool := first || i % d.cnt.getD 0 1 = 0 || a2 / 2 % 128 < k
    match r.s.readVirt n t (if Xfer.view r.j.d then some r.j.handle else none) (a2 / 2) k fresh with
    | .error f => { r with fail := some f }
    | .ok (s1, bs, m) => done s1 { x := if d.bits = 4 then bitsOf (ofBytes bs) (4 * (a2 % 2)) 4 else ofBytes bs, mark := m }
  if r.fail.isSome then r
  else if !d.mem then keep r.s r.j (t.spElem d i)
  else if r.j.kind ≠ .xgath then fetch 0 fun s x => keep s r.j x
  else
    match t.gatherIx r.j i with
    | none => keep r.s r.j { x := 0, mark := true }
    | some ix =>
      let key := ix * d.cnt.getD 0 1 + i % d.cnt.getD 0 1
      match SMap.get? r.j.seen key with
      | some (x, m) => keep r.s r.j { x := x, mark := m }
      | none => fetch ix fun s x => keep s { r.j with seen := SMap.insert r.j.seen key (x.x, x.mark) } x

/-- Read elements `a … a + k - 1` in order until one fails (log 17). -/
def State.readElems (s : State) (n : Nat) (t : Team) (j : TuJob) (a k : Nat) : ReadRun :=
  let r := (List.range' a k).foldl (fun (r : ReadRun) i => r.next n t (i = a) i) { s := s, j := j }
  { r with xs := r.xs.reverse }

/-! Converting (R259, R268, R274). -/

/-- The values that a side's patterns stand for. -/
def Side.target (d : Side) : DrainTo :=
  match fmtFloat d.fmt with
  | some f => .flt f
  | none =>
    let ty := (fmtInt d.fmt).getD ⟨8, false⟩
    .int (if d.planes ≠ 0 then ⟨d.planes, ty.sgn⟩ else ty)

def Side.val (d : Side) (x : Nat) : Fl :=
  match d.target with
  | .flt f => f.decode x
  | .int ty => Fl.ofInt (ty.val x)

/-- Convert in order until an element traps. -/
def convElems (a b : Side) (pol : Nat) : List Elem → List Elem × Bool
  | [] => ([], false)
  | e :: r =>
    let more (y : Elem) : List Elem × Bool :=
      let (ys, tr) := convElems a b pol r
      (y :: ys, tr)
    if e.mark then more { x := 0, mark := true }
    else
      match b.target.conv pol (a.val e.x) with
      | .trap => ([], true)
      | .val x => more { x := x }
      | .sat x => more { x := x, fl := 1 }
      | .inf x => more { x := x, fl := 2 }

/-- BF16 elements into BFB16: whole blocks of 64, their elements and their strip entries (08 R185) (log 29). -/
def bfbElems (xs : List Elem) : List Elem × List Nat :=
  let bs := (chunksOf 64 xs.length xs).filter fun b => b.length = 64
  let out := bs.map fun b =>
    let r := toBFB16 (b.map fun e => if e.mark then 0 else e.x)
    ((b.zip r.1).map fun p => ({ x := p.2, mark := p.1.mark, fl := if r.2.2 ≠ 0 then 4 else 0 } : Elem), r.2.2 * 256 + r.2.1)
  (out.flatMap (·.1), out.map (·.2))

/-- The elements as the destination takes them, their strip entries, and whether one trapped. -/
def TuJob.convert (j : TuJob) (xs : List Elem) : List Elem × List Nat × Bool :=
  if !Xfer.conv j.d then (xs.map fun e => if e.mark then { e with x := 0 } else e, [], false)
  else if j.dstSide.fmt = 11 then
    let (ys, st) := bfbElems xs
    (ys, st, false)
  else
    let (ys, tr) := convElems j.srcSide j.dstSide (Xfer.pol j.d) xs
    (ys, [], tr)

/-! Writing. -/

/-- A piece of a destination: address, bytes, poison mark, the number of elements it holds. -/
structure Piece where
  addr : Nat
  bs : List Byte
  mark : Bool
  cnt : Nat
deriving DecidableEq, Repr

/-- The pieces of elements numbered from `n0` on of a row-major side: one per element, or per pair of nibbles (R263). -/
def Side.pieces (d : Side) (n0 : Nat) (xs : List Elem) : List Piece :=
  if d.bits = 4 then
    (chunksOf 2 xs.length xs).zipIdx.filterMap fun p =>
      match p.1 with
      | [a, b] => some ⟨d.addr (n0 + 2 * p.2), [BitVec.ofNat 8 (a.x % 16 + 16 * (b.x % 16))], a.mark || b.mark, 2⟩
      | _ => none
  else xs.zipIdx.map fun p => ⟨d.addr (n0 + p.2), toBytes (d.bits / 8) p.1.x, p.1.mark, 1⟩

/-- Join pieces that follow one another in address and agree in poison. -/
def joinPieces (ps : List Piece) : List Piece :=
  ps.foldr (fun p acc =>
    match acc with
    | q :: r => if q.addr = p.addr + p.bs.length && q.mark = p.mark then ⟨p.addr, p.bs ++ q.bs, p.mark, p.cnt + q.cnt⟩ :: r
        else p :: acc
    | [] => [p]) []

/-- The bytes of a bit-plane side, one write for the part of each 64-byte beat; bits of elements not written stay. -/
def Team.planeWrites (u : Team) (d : Side) (off n0 : Nat) (xs : Array Elem) : List SpWrite :=
  let n1 := n0 + xs.size
  let at_ (e : Nat) : Elem := xs.getD (e - n0) { x := 0 }
  (List.range' (n0 / 32768) ((n1 + 32767) / 32768 - n0 / 32768)).flatMap fun tile =>
    (List.range d.planes).flatMap fun j => (List.range 64).filterMap fun beat =>
      let e0 := 32768 * tile + 512 * beat
      let lo := max n0 e0
      let hi := min n1 (e0 + 512)
      if hi ≤ lo then none
      else
        let la := off + d.tile tile + 4096 * j + 64 * beat
        let b0 := (lo - e0) / 8
        let b1 := (hi - e0 + 7) / 8
        let bit (i b : Nat) : Bool :=
          let e := e0 + 8 * i + b
          if lo ≤ e && e < hi then bitAt (at_ e).x j else bitAt (u.spByte (la + i)).toNat b
        some { la := la + b0,
               bs := (List.range' b0 (b1 - b0)).map fun i =>
                 BitVec.ofNat 8 ((List.range 8).map fun b => if bit i b then 2 ^ b else 0).sum,
               poison := (List.range' lo (hi - lo)).any fun e => (at_ e).mark,
               special := (List.range' lo (hi - lo)).any fun e => 4 ≤ (at_ e).fl }

/-- The strip entries of a BFB16 destination for elements from `n0` on (R274). -/
def Team.stripWrites (_ : Team) (j : TuJob) (n0 : Nat) (strip : List Nat) : List SpWrite :=
  match j.strip with
  | some (la, _) => strip.zipIdx.map fun p =>
      let e := n0 + 64 * p.2
      ({ la := la + 1024 * (e / 32768) + 2 * (e % 32768 / 64), bs := toBytes 2 p.1 } : SpWrite)
  | none => []

/-- The writes of elements into a local side of team `u`, `off` bytes on, with the strip of a BFB16 destination. -/
def Team.sideWrites (u : Team) (j : TuJob) (off n0 : Nat) (xs : List Elem) (strip : List Nat) : List SpWrite :=
  let d := j.dstSide
  let st := u.stripWrites j n0 strip
  (if d.planes ≠ 0 then u.planeWrites d off n0 xs.toArray
   else (joinPieces (d.pieces n0 xs)).map fun p => { la := off + p.addr, bs := p.bs, poison := p.mark }) ++ st

def spBytes (ws : List SpWrite) : Nat := (ws.map (·.bs.length)).sum

/-- Bytes land for a barrier object (06 R135). -/
def Team.countLand (t : Team) (b n : Nat) : Team :=
  if n = 0 then t
  else
    match t.barDecl b with
    | some d => t.barLand d n
    | none => t

/-- Land writes of a job in the teams at `slots`, whose banks serve them (06 R130); RBAR counts in each, the job's own barrier in its own
team.  `part` of the bytes written hold an element still to come: they land, and count, with that element. -/
def State.landIn (s : State) (own : Nat) (e : Engine) (j : TuJob) (slots : List Nat) (ws : Team → List SpWrite) (part : Nat := 0) :
    State :=
  let key : Nat × Nat × Nat := match s.team? own with
    | some t => t.jobKey own e j.seq
    | none => (own, e.num, j.seq)
  slots.foldl (fun (s : State) m => (s.updTeam m fun u =>
    let w := ws u
    let u1 := u.spJob key w
    let u2 := if j.kind = .xmc && Xfer.rbv j.d then u1.countLand (Xfer.rbar j.d) (spBytes w - part) else u1
    let u3 := if m = own && 0x20 ≤ j.co then u2.countLand (j.co - 0x20) (spBytes w - part) else u2
    { u3 with ports := setUnion (beatsOf (w.map fun x => (x.la, x.bs.length))) u3.ports }).settleIdle m) s

/-- A piece of memory with its place. -/
structure MemPiece where
  pa : Nat
  va : Nat
  bs : List Byte
  mark : Bool
  cnt : Nat
  e : KttEntry
deriving DecidableEq, Repr

/-- Look pieces up in order until one fails (R264). -/
def placePieces (ks : KSlot) (a : Acc) : List Piece → List MemPiece × Option JobFail
  | [] => ([], none)
  | p :: r =>
    match kttLookup ks p.addr a with
    | .error f => ([], some (f.job 8))
    | .ok e =>
      let (ms, f) := placePieces ks a r
      (⟨e.pa + (p.addr - e.va), p.addr, p.bs, p.mark, p.cnt, e⟩ :: ms, f)

def joinMem (ps : List MemPiece) : List MemPiece :=
  ps.foldr (fun p acc =>
    match acc with
    | q :: r => if q.pa = p.pa + p.bs.length && q.va = p.va + p.bs.length && q.mark = p.mark && q.e = p.e then
          ⟨p.pa, p.va, p.bs ++ q.bs, p.mark, p.cnt + q.cnt, p.e⟩ :: r
        else p :: acc
    | [] => [p]) []

/-- Issue one write of a job: it counts in the write-drain count; under SO the job's earlier writes come first. -/
def State.sendJob (s : State) (n : Nat) (e : Engine) (j : TuJob) (m : MemPiece) : State :=
  match s.team? n with
  | none => s
  | some t =>
    let num := t.wIssued + 1
    let w : PWrite := { slot := some n, tid := t.tid, tix := t.teamix, eng := e.num, pc := j.pc, seq := j.seq, asid := t.asid, va := m.va,
                        pa := m.pa, bytes := m.bs, mark := m.mark, tagged := m.e.sreg.isSome, order := m.e.order, num := num,
                        unit := if j.dstSide.mem then max 1 (j.dstSide.bits / 8) else 1 }
    let s1 := (s.setTeam n { t with wIssued := num }).sendWrite w
    if m.e.order = 2 then s1.performWrites fun x => x.slot = some n && x.eng = e.num && x.seq = j.seq else s1

/-- An element written at its home slice with its old value read in the same step (R276): the stream's earlier writes to
the line come first.  The old bytes and their poison. -/
def State.swapHome (s : State) (n : Nat) (e : Engine) (j : TuJob) (m : MemPiece) : State × List Byte × Bool :=
  let s1 := s.performWrites fun x => x.slot = some n && x.eng = e.num && x.pa / 128 = m.pa / 128
  let (s2, old, pm) := s1.jobPhys n m.pa m.bs.length true
  let num := match s2.team? n with
    | some t => t.wIssued + 1
    | none => 0
  let s3 := s2.updTeam n fun t => { t with wIssued := num }
  match s3.team? n with
  | none => (s3, old, pm)
  | some t =>
    (s3.performWrite { slot := some n, tid := t.tid, tix := t.teamix, eng := e.num, pc := j.pc, seq := j.seq, asid := t.asid, va := m.va,
                       pa := m.pa, bytes := m.bs, mark := m.mark, tagged := m.e.sreg.isSome, order := m.e.order, num := num },
     old, pm)

/-- The change of one element, by its format (R276, R305). -/
def fmtDelta (fmt old new : Nat) : Nat :=
  let ty := (fmtInt fmt).getD ⟨8, false⟩
  (ty.val new - ty.val old).natAbs

/-- A granule so far: greatest change, and whether it met poison. -/
structure Delta where
  m : Nat := 0
  bad : Bool := false
deriving DecidableEq, Repr

def Delta.entry (d : Delta) : Nat := if d.bad then 0xFFFF else min d.m 65535

/-- Where a run of elements of XSCAT with DELTA stands. -/
structure DeltaRun where
  s : State
  done : Nat
  cur : Delta
  fail : Option JobFail

/-- DELTA elements in order (R276).  Each piece is one DFMT element of the destination, `gsize` element numbers make a
granule. -/
def deltaPieces (n : Nat) (t : Team) (e : Engine) (j : TuJob) (gsize : Nat) : List Piece → DeltaRun → DeltaRun
  | [], r => r
  | p :: ps, r =>
    let ks := r.s.kslot n t
    let g := r.done / gsize
    let last := (r.done + p.cnt) % gsize = 0
    match kttLookup ks p.addr .rw with
    | .error f => { r with fail := some (f.job 8) }
    | .ok en =>
      let da := (Xfer.aux j.d + 2 * g) % 2 ^ 57
      let dent : Except KttFail (Option KttEntry) := if last then (kttLookup ks da .w).map some else .ok none
      match dent with
      | .error f => { r with fail := some (f.job 9) }
      | .ok de =>
        let (s1, old, pm) := r.s.swapHome n e j ⟨en.pa + (p.addr - en.va), p.addr, p.bs, p.mark, p.cnt, en⟩
        let cur : Delta := { m := max r.cur.m (fmtDelta (Xfer.dfmt j.d) (ofBytes old) (ofBytes p.bs)),
                             bad := r.cur.bad || pm || p.mark }
        match de with
        | none => deltaPieces n t e j gsize ps { s := s1, done := r.done + p.cnt, cur := cur, fail := none }
        | some d =>
          let s2 := s1.sendJob n e j ⟨d.pa + (da - d.va), da, toBytes 2 cur.entry, false, 0, d⟩
          deltaPieces n t e j gsize ps { s := s2, done := r.done + p.cnt, cur := {}, fail := none }

/-- Raw bytes in groups of a DFMT element. -/
def groupPieces (z : Nat) (ps : List Piece) : List Piece :=
  (chunksOf z ps.length ps).filterMap fun g =>
    match g with
    | [] => none
    | p :: _ => some ⟨p.addr, g.flatMap (·.bs), g.any (·.mark), g.length⟩

/-- REFMT: the bank takes its new format, and its directory entries become GEN (R274, 14 R350). -/
def Team.refmt (t : Team) (j : TuJob) : Team :=
  let bank := Xfer.dst j.d % 2 ^ 23 / 0x20000
  let t1 := { t with fmts := SMap.put 0 t.fmts bank (BitVec.ofNat 26 (Xfer.newFmt j.d)) }
  (List.range' (32 * bank) 32).foldl (fun (t : Team) dt => t.setDir dt { t.dir dt with cls := .gen, value := 0 }) t1

/-- Flags of the elements that have been written. -/
def Team.flagElems (t : Team) (xs : List Elem) : Team := t.flagConv (xs.any (·.fl = 1)) (xs.any (·.fl = 2))

/-- The beats of a window job that the elements `ps` fill, read in cycle `cyc` of the cluster: they land 24 cycles later (R280). -/
def windowBeats (n : Nat) (e : Engine) (j : TuJob) (cyc : Nat) (targets : List Nat) (last : Bool) (ps : List Piece) : List WinBeat :=
  let cut := ps.flatMap fun p =>
    (List.range ((p.bs.length + p.addr % 64 + 63) / 64)).map fun i =>
      let lo := if i = 0 then 0 else 64 * i - p.addr % 64
      let hi := min p.bs.length (64 * (i + 1) - p.addr % 64)
      ({ due := cyc + 24, src := n, eng := e.num, seq := j.seq, targets := targets, la := p.addr + lo,
         bytes := (p.bs.drop lo).take (hi - lo), mark := p.mark, lastBeat := false } : WinBeat)
  match cut.reverse with
  | [] => []
  | b :: r => ({ b with lastBeat := last } :: r).reverse

/-- The cores that a job's local writes go to. -/
def State.jobCores (n : Nat) (t : Team) (j : TuJob) : List Nat :=
  if j.kind = .xmc || j.isWindow then j.coreMask (coreOfSlot n)
  else if j.kind = .gdone then ((j.claim.drop j.filled).filterMap fun p => t.gang[p.1]?).map coreOfSlot
  else if j.kind.isPush then ((t.gang[bitsOf (Xfer.aux j.d) 0 4]?).map coreOfSlot).toList
  else []

/-- A cluster that refuses requests of the fabric, or is gated (17 R408). -/
def Clk.shut (k : Clk) : Bool := k.refusing || k.gated

/-- A push or multicast that reaches a refused or gated cluster bounces: the job stops at that element with an asynchronous GATED fault
(17 R408). -/
def State.bounced (s : State) (n : Nat) (t : Team) (j : TuJob) : Bool :=
  !j.isWindow && (State.jobCores n t j).any fun c => (s.clk (domainOf c)).shut

def State.bounce (s : State) (n : Nat) (t : Team) (j : TuJob) (addr : Nat) : State :=
  let cl := ((State.jobCores n t j).find? fun c => (s.clk (domainOf c)).shut).map domainOf |>.getD 0
  (s.logRec 0x50 [n, cl, addr]).updTeam n fun t => t.pendFault { cause := .gated, eng := 6, addr := BitVec.ofNat 64 addr, async := true }

/-- The elements the job moves together: those of one 64-byte beat of every plane of a bit-plane destination, whole bytes of a 4-bit
one, whole blocks of a BFB16 one, whole elements of a delta map. -/
def TuJob.unit (j : TuJob) : Nat :=
  if j.dstSide.planes ≠ 0 then 512 else if j.dstSide.bits = 4 || j.dstSide.fmt = 11 || Xfer.delta j.d then 64 else 1

/-- How many elements of the job are moved when `lim` are asked for. -/
def TuJob.chunk (j : TuJob) (lim : Nat) : Nat :=
  min ((lim + j.unit - 1) / j.unit * j.unit) (j.srcSide.count - j.moved)

/-- At most `lim` of the job's remaining elements are read, converted and written, up to the first that fails; the job then stops with
a fault, goes on to `fin` when all have been moved, or waits for more.  `targets` names the teams that take local bytes, `off` the offset
there (log 17, 21). -/
def State.moveElems (s : State) (n : Nat) (e : Engine) (j : TuJob) (targets : List Nat) (off lim : Nat) (fin : State → TuJob → State) :
    State :=
  match s.team? n with
  | none => s
  | some t =>
    let a := j.srcSide
    let b := j.dstSide
    let n0 := j.moved
    let r := s.readElems n t j n0 (j.chunk lim)
    let (ys0, strip, trapped) := j.convert r.xs
    -- the failing element, by reading or by converting
    let rowIdx (i : Nat) : List Nat := if j.kind = .xgath then [i % a.cnt.getD 0 1, i / a.cnt.getD 0 1, 0, 0] else a.idx i
    let f0 : Option (JobFail × List Nat) :=
      if trapped then some ({ cause := .convtrap, operand := 8, addr := b.addr (n0 + ys0.length) + off },
        if j.kind = .xgath then rowIdx (n0 + ys0.length) else b.idx (n0 + ys0.length))
      else r.fail.map fun f => (f, rowIdx (n0 + r.xs.length))
    -- a byte whose upper nibble is the failing element is written whole (R263), and again when the job goes on
    let half : Bool := b.bits = 4 && b.planes = 0 && ys0.length % 2 = 1
    let ys := if half then ys0 ++ [{ x := (Config.oddNibble r.s.free).toNat }] else ys0
    let close (s : State) (done : Nat) (f : Option (JobFail × List Nat)) (j : TuJob) : State :=
      let s2 := s.updTeam n fun t => t.flagElems (ys.take done)
      let j1 := { j with moved := n0 + (if half && ys0.length ≤ done then ys0.length - 1 else done) }
      match f with
      | some (f, ix) => s2.jobFault n e j1 f ix
      | none => if j1.moved = a.count then fin s2 j1 else s2.updTeam n fun t => t.updJob e j1
    let s1 : State := if half then { r.s with free := r.s.free + 1 } else r.s
    if b.mem then
      if Xfer.delta j.d then
        let z := if Xfer.conv j.d then 1 else fmtBits (Xfer.dfmt j.d) / 8
        let gsize := b.cnt.getD 0 1 * b.cnt.getD 1 1
        let q := deltaPieces n t e r.j gsize (groupPieces z (b.pieces n0 ys))
          { s := s1, done := n0, cur := { m := bitsOf j.res.toNat 0 64, bad := bitAt j.res.toNat 64 }, fail := none }
        let j1 := { r.j with res := BitVec.ofNat 128 (q.cur.m + if q.cur.bad then 2 ^ 64 else 0) }
        close q.s (q.done - n0) ((q.fail.map fun f => (f, b.idx q.done)).orElse fun _ => f0) j1
      else
        let (ms, wf) := placePieces (s1.kslot n t) .w (b.pieces n0 ys)
        let done := (ms.map (·.cnt)).sum
        let s2 := (joinMem ms).foldl (fun (s : State) m => s.sendJob n e r.j m) s1
        -- the strip of a BFB16 destination lies in the team's own scratchpad (R265)
        let s3 := if strip.isEmpty then s2 else s2.landIn n e r.j [n] fun u => u.stripWrites r.j n0 strip
        close s3 done ((wf.map fun f => (f, b.idx (n0 + done))).orElse fun _ => f0) r.j
    else
      let part := if half then 1 else if (n0 + ys.length) % 8 = 0 then 0 else b.planes
      close (s1.landIn n e r.j targets (fun u => u.sideWrites r.j off n0 ys strip) part) ys.length f0 r.j

/-- A push into the slots its claims hold (R277 steps 2 and 3). -/
def State.fillSlot (s : State) (m ch slot : Nat) : State :=
  (s.updTeam m fun u => u.setChan ch { u.chan ch with full := setInsert slot (u.chan ch).full }).settleIdle m

/-- A job that is neither a push, a window job, a decompression nor a gather word moves up to `lim` elements; `fin` says that it may
complete. -/
def State.runXfer (s : State) (n : Nat) (e : Engine) (j : TuJob) (lim : Nat) (fin : Bool) : State :=
  match s.team? n with
  | none => s
  | some t =>
    if s.bounced n t j then s.bounce n t j (j.dstSide.addr j.moved)
    else
      s.moveElems n e j (s.jobTargets n t j) 0 lim fun s j => if fin then s.finishJob n e j else s.updTeam n fun t => t.updJob e j

/-- XPUSHR once its claim holds a slot; a push to a team that has gone completes without effect. -/
def State.runPush (s : State) (n : Nat) (t : Team) (e : Engine) (j : TuJob) (lim : Nat) : State :=
  let ch := bitsOf (Xfer.aux j.d) 4 4
  if s.bounced n t j then s.bounce n t j (j.dstSide.addr j.moved)
  else
    match s.pushTarget n t (bitsOf (Xfer.aux j.d) 0 4) ch, j.claim with
    | some (m, _, d), (_, slot) :: _ =>
      s.moveElems n e j [m] (d.base + slot * d.slotBytes) lim fun s j => (s.fillSlot m ch slot).finishJob n e { j with filled := 1 }
    | some _, [] => s
    | none, _ => s.finishJob n e j

/-! The cycles of a job (R130, R267, Table 11-8). -/

/-- The beats of a local side in order: the bank of each, and the elements that it completes. -/
def Side.beats (d : Side) : List (Nat × Nat) :=
  if d.mem then []
  else if d.planes ≠ 0 then
    (List.range (d.cnt.getD 1 1)).flatMap fun tile => (List.range 64).flatMap fun b => (List.range d.planes).map fun j =>
      (bankOf (d.tile tile + 4096 * j + 64 * b), if j + 1 = d.planes then 512 else 0)
  else
    d.runs.flatMap fun a => (unitsOf 64 a d.runBytes).map fun u =>
      (bankOf (64 * u), (min (a + d.runBytes) (64 * u + 64) - max a (64 * u)) * 8 / d.bits)

/-- A job between scratchpad ranges of one cluster, whose cycles its schedule fixes: a local XGO, a window job, an XCONV. -/
def TuJob.timed (j : TuJob) : Bool := j.kind = .xconv || (j.kind = .xgo && Xfer.skind j.d = 1 && Xfer.dkind j.d ≠ 0)

/-- Cycles that a job works at least: a beat of each side in each, and two for each row of a tile that is converted into or out of bit
planes or BFB16, with 16 more (Table 11-8) (log 9). -/
def TuJob.cycles (j : TuJob) : Nat :=
  let a := j.srcSide
  let b := j.dstSide
  let tiles : Nat := if a.planes ≠ 0 then a.cnt.getD 1 1 else if b.planes ≠ 0 || b.fmt = 11 then b.cnt.getD 1 1 else 0
  max (max a.beats.length (if j.isWindow then 0 else b.beats.length)) (if tiles = 0 then 0 else 256 * tiles + 16)

/-- The window jobs of a cluster that hold a slot: those whose first source beat may have been read and whose last has not landed. -/
def State.windowSlots (s : State) (d : Nat) : Nat :=
  ((s.teams.filter fun p => domainOf (coreOfSlot p.1) = d).map fun p =>
    ([Engine.tu0, .tu1].map fun e => ((p.2.tu e).jobs.filter fun j => j.isWindow && j.begun && !j.done).length).sum).sum

/-- The job may send its first request: 8 cycles after its go-word, behind the earlier jobs of its stream, a window job in a free
slot. -/
def State.mayBegin (s : State) (n : Nat) (t : Team) (e : Engine) (before : List TuJob) (j : TuJob) : Bool :=
  !j.done && !j.begun && j.issued + 8 ≤ t.cycle && before.all (·.passable j) && s.jobRuns n t e j &&
  (!j.isWindow || s.windowSlots (domainOf (coreOfSlot n)) < 8)

/-- The first job of the stream that may send its first request does; REFMT takes effect in that cycle (R274). -/
def State.beginJob (s : State) (n : Nat) (e : Engine) : State :=
  match s.team? n with
  | none => s
  | some t =>
    let js := (t.tu e).jobs
    match (List.range js.length).find? fun i => match js[i]? with
        | some j => s.mayBegin n t e (js.take i) j
        | none => false with
    | none => s
    | some i =>
      match js[i]? with
      | none => s
      | some j =>
        let t1 := if Xfer.refmt j.d then t.refmt j else t
        s.setTeam n (t1.updJob e { j with begun := true })

/-- One side's next beat in a cycle: whether it is served, and the ports then taken. -/
def portTake (ports : List Nat) (beats : List (Nat × Nat)) (k : Nat) (want : Bool) : Bool × Bool × List Nat :=
  match beats[k]? with
  | some (b, _) => if !want then (false, false, ports) else if ports.contains b then (false, true, ports) else (true, false, setInsert b ports)
  | none => (false, false, ports)

/-- A cycle of a timed job: its source side takes its next beat, its destination side the next beat whose data has been read; a beat that
is not served costs the job the cycle.  The elements whose beats have been served are moved, the last when the job has worked all its
cycles (log 9). -/
def State.workJob (s : State) (n : Nat) (e : Engine) (j : TuJob) : State :=
  match s.team? n with
  | none => s
  | some t =>
    let sb := j.srcSide.beats
    let db := if j.isWindow then [] else j.dstSide.beats
    let (r, lost1, p1) := portTake t.ports sb j.rd true
    let rd := if r then j.rd + 1 else j.rd
    let (w, lost2, p2) := portTake p1 db j.wr (j.wr * sb.length < rd * db.length)
    let wr := if w then j.wr + 1 else j.wr
    let work := if lost1 || lost2 then j.work else j.work + 1
    let ended : Bool := rd = sb.length && wr = db.length && j.cycles ≤ work
    let upTo (l : List (Nat × Nat)) (k : Nat) : Nat := ((l.take k).map (·.2)).sum
    let served := if j.isWindow then upTo sb rd else min (upTo sb rd) (upTo db wr)
    let reach := if ended then j.srcSide.count else min (j.srcSide.count - 1) served / j.unit * j.unit
    let j1 := { j with rd := rd, wr := wr, work := work }
    let s1 := s.setTeam n ({ t with ports := p2 }.updJob e j1)
    if j.isWindow then
      let d := domainOf (coreOfSlot n)
      let x := s1.readElems n t j1 j1.moved ((if rd = sb.length then j.srcSide.count else upTo sb rd) - j1.moved)
      let (ys, _, _) := j1.convert x.xs
      let beats := windowBeats n e j1 (s1.clk d).cyc (s1.jobTargets n t j1) (rd = sb.length)
        (joinPieces (j1.dstSide.pieces j1.moved ys))
      if x.xs.isEmpty then s1
      else (x.s.updClk d fun k => { k with windows := k.windows ++ beats }).updTeam n fun t =>
        t.updJob e { j1 with moved := j1.moved + x.xs.length }
    else if reach ≤ j1.moved && !ended then s1
    else s1.runXfer n e j1 (reach - j1.moved) ended

/-- The cycle of a stream's jobs: one sends its first request, the first timed job that can works. -/
def State.jobTick (s : State) (n : Nat) (e : Engine) : State :=
  let s1 := s.beginJob n e
  match s1.team? n with
  | none => s1
  | some t =>
    match s1.pickJob n t e fun j => j.timed && j.begun && (!j.isWindow || j.moved < j.srcSide.count) with
    | none => s1
    | some j => s1.workJob n e j

/-- The cycle of the team's transfer streams, in the order of their ranks (log 9). -/
def State.jobTicks (s : State) (n : Nat) : State := [Engine.tu0, .tu1, .gq].foldl (fun s e => s.jobTick n e) s

/-! Claims and window landings. -/

/-- One waiting push of the stream claims slot P of its target, when it is empty (R277 step 1); GDONE claims in one other
member of the gang after another (12 R317). -/
def State.claim (s : State) (n : Nat) (t : Team) (e : Engine) (j : TuJob) (ix ch : Nat) : State :=
  match s.pushTarget n t ix ch with
  | none => s
  | some (m, u, d) =>
    let c := u.chan ch
    if c.shown.contains c.p || (j.claim.map (·.1)).contains ix then s
    else
      (s.setTeam m (u.setChan ch { c with p := (c.p + 1) % d.slots })).updTeam n fun t =>
        t.updJob e { j with claim := j.claim ++ [(ix, c.p)] }

/-- The members that a push still has to claim in. -/
def State.claimsLeft (s : State) (n : Nat) (t : Team) (j : TuJob) : List Nat :=
  let ch := bitsOf (Xfer.aux j.d) 4 4
  (if j.kind = .gdone then List.range t.gang.length else [bitsOf (Xfer.aux j.d) 0 4]).filter fun ix =>
    !(j.claim.map (·.1)).contains ix && (s.pushTarget n t ix ch).isSome

/-- PUSH_CLAIM: the oldest push of the stream that still waits for a claim which can be served. -/
def execPushClaim (slot eng : Nat) (s : State) : Out :=
  s.event fun s =>
    match s.team? slot with
    | none => s
    | some t =>
      let e := streamOf eng
      let free (j : TuJob) (ix : Nat) : Bool :=
        match s.pushTarget slot t ix (bitsOf (Xfer.aux j.d) 4 4) with
        | some (_, u, _) => !(u.chan (bitsOf (Xfer.aux j.d) 4 4)).shown.contains (u.chan (bitsOf (Xfer.aux j.d) 4 4)).p
        | none => false
      match s.pickJob slot t e fun j => j.kind.isPush && (s.claimsLeft slot t j).any (free j) with
      | none => s
      | some j =>
        match (s.claimsLeft slot t j).find? (free j) with
        | none => s
        | some ix => s.claim slot t e j ix (bitsOf (Xfer.aux j.d) 4 4)

/-- The oldest window beat of a cluster whose cycle of landing has ended; with no core of the cluster issuing, cycles pass unseen. -/
def State.beatDue (s : State) (d : Nat) : Option WinBeat :=
  (s.clk d).windows.head?.filter fun b =>
    b.due < (s.clk d).cyc || (List.range 4).all fun i => (s.core (4 * d + i)).issuing.isNone

/-- That beat lands in every target at once (R280). -/
def State.landBeat (s : State) (d : Nat) : State :=
  match s.beatDue d with
  | none => s
  | some b =>
    let s1 := s.updClk d fun k => { k with windows := k.windows.drop 1 }
    match s1.team? b.src with
    | none => s1
    | some t =>
      let e := streamOf b.eng
      match (t.tu e).jobs.find? fun j => j.seq = b.seq && j.isWindow && !j.done with
      | none => s1
      | some j =>
        let here (m : Nat) : Bool := match s1.team? m with
          | some u => u.tid = t.tid
          | none => false
        let s2 := s1.landIn b.src e j (b.targets.filter here) fun _ => [{ la := b.la, bs := b.bytes, poison := b.mark }]
        if b.lastBeat then s2.finishJob b.src e j else s2

/-- WINDOW_LANDING (R280): the oldest beat of the cluster lands, its cycle having come and gone. -/
def execWindowLanding (cluster : Nat) (s : State) : Out := s.event fun s => s.landBeat cluster

/-- COMPLETION_DEADLINE (06 R125): the completion objects of completed nests and jobs that have reached their named cycle
fire; in a frozen cluster none does. -/
def execCompletionDeadline (slot eng : Nat) (s : State) : Out :=
  s.event fun s =>
    if !s.advancing slot then s
    else if eng = 2 then s.updTeam slot fun t => t.fireNests t.me.queue.length
    else s.fireStream slot (streamOf eng)

end Sys2Proof.Machine
end

