-- ==== Sys2Proof/Machine/XDec.lean ====
section
/-!
DEFINITION. Sys2Proof/Machine/XDec.lean: the decompressing fill (11 R282-R285, 08 R180-R183).
-/
namespace Sys2Proof.Machine

/-- Table 8-5. -/
def nq4 (i : Nat) : Int :=
  let l : List Int := [690, 2086, 3539, 5094, 6829, 8887, 11593, 16384]
  if i < 8 then -(l.getD (7 - i) 0) else l.getD (i - 8) 0

/-- Why a superblock is not decoded. -/
inductive SbErr where
  | bad
  | poisonMeta
  | poisonData
  | access (f : JobFail)
deriving DecidableEq, Repr

/-- The bytes of a superblock with their poison, as far as they can be read, its length, and why the rest cannot. -/
structure SbIn where
  bs : Array (Byte × Bool)
  len : Nat
  fail : Option JobFail

/-- A byte of the superblock; `p` names what a poisoned one means (R285) (log 18). -/
def SbIn.byte (x : SbIn) (p : SbErr) (i : Nat) : Except SbErr Nat :=
  if x.len ≤ i then .error .bad
  else
    match x.bs[i]? with
    | some (b, m) => if m then .error p else .ok b.toNat
    | none =>
      match x.fail with
      | some f => .error (.access f)
      | none => .error .bad

def SbIn.bytes (x : SbIn) (p : SbErr) (i n : Nat) : Except SbErr (List Nat) := (List.range' i n).mapM (x.byte p)
def SbIn.bit (x : SbIn) (p : SbErr) (i : Nat) : Except SbErr Nat := (x.byte p (i / 8)).map fun b => b / 2 ^ (i % 8) % 2
/-- `n` bits from bit `i` on, the first lowest. -/
def SbIn.bits (x : SbIn) (p : SbErr) (i n : Nat) : Except SbErr Nat :=
  ((List.range n).mapM fun k => x.bit p (i + k)).map fun l => l.foldr (fun b acc => b + 2 * acc) 0

/-- Header of Table 11-10. -/
structure SbHead where
  scale : List Nat
  len : Nat
  nblk : Nat
  fan : List Nat
deriving DecidableEq, Repr

def SbIn.head (x : SbIn) : Except SbErr SbHead :=
  match x.bytes .poisonMeta 0 16 with
  | .error e => .error e
  | .ok h =>
    let b (i : Nat) : Nat := h.getD i 0
    let len := b 4 + 256 * (b 5 + 256 * (b 6 + 256 * b 7))
    let lv := b 9
    let fan := (h.drop 10).take lv
    if len = 0 || len % 64 ≠ 0 || lv < 2 || 4 < lv || fan.any (fun f => f < 1 || 8 < f) || fan.sum ≠ 14 ||
        ((h.drop 10).drop lv).any (· ≠ 0) then .error .bad
    else .ok { scale := h.take 4, len := len, nblk := b 8 + 1, fan := fan }

/-- One level of bitmaps from bit `pos` on: the children whose bits are set, and the bit after the level's last byte.  A
set bit whose first position lies at or beyond `lim` is an error (R284, log 18). -/
def SbIn.level (x : SbIn) (lim f span : Nat) (nodes : List Nat) (pos : Nat) : Except SbErr (List Nat × Nat) :=
  let kids := nodes.flatMap fun b => (List.range f).map fun c => b + c * span
  (kids.zipIdx.mapM fun k => (x.bit .poisonMeta (pos + k.2)).bind fun t =>
      if t = 0 then .ok none else if lim ≤ k.1 then .error .bad else .ok (some k.1)).map
    fun l => (l.filterMap id, (pos + kids.length + 7) / 8 * 8)

/-- The surviving positions, ascending, and the bit after the bitmaps. -/
def SbIn.levels (x : SbIn) (lim : Nat) : List Nat → Nat → List Nat → Nat → Except SbErr (List Nat × Nat)
  | [], _, nodes, pos => .ok (nodes, pos)
  | fl :: r, span, nodes, pos =>
    (x.level lim (2 ^ fl) (span / 2 ^ fl) nodes pos).bind fun p => x.levels lim r (span / 2 ^ fl) p.1 p.2

/-- Codes of R284: (symbol, length, code); none for an over-subscribed code. -/
def prefixCodes (lens : List Nat) : Option (List (Nat × Nat × Nat)) :=
  ((List.range' 1 12).foldl (fun (acc : Option (List (Nat × Nat × Nat) × Nat)) n =>
    acc.bind fun a =>
      let syms := (List.range 16).filter fun s => lens.getD s 0 = n
      let code := a.2 + syms.length
      if 2 ^ n < code then none
      else some (a.1 ++ syms.zipIdx.map fun p => (p.1, n, a.2 + p.2), 2 * code)) (some ([], 0))).map (·.1)

/-- ReadCode of R284 from bit `pos`: the symbol and the bit after its code. -/
def SbIn.readCode (x : SbIn) (codes : List (Nat × Nat × Nat)) : Nat → Nat → Nat → Nat → Except SbErr (Nat × Nat)
  | 0, _, _, _ => .error .bad
  | k + 1, n, code, pos =>
    (x.bit .poisonData pos).bind fun b =>
      match codes.find? fun c => c.2.1 = n + 1 && c.2.2 = 2 * code + b with
      | some c => .ok (c.1, pos + 1)
      | none => x.readCode codes k (n + 1) (2 * code + b) (pos + 1)

/-- The indices of the survivors in order. -/
def SbIn.indices (x : SbIn) (codes : Option (List (Nat × Nat × Nat))) : List Nat → Nat → Except SbErr (List (Nat × Nat))
  | [], _ => .ok []
  | k :: r, pos =>
    let one : Except SbErr (Nat × Nat) :=
      match codes with
      | none => (x.bits .poisonData pos 4).map fun s => (s, pos + 4)
      | some cs => x.readCode cs 12 0 0 pos
    one.bind fun p => (x.indices codes r p.2).map fun l => (k, p.1) :: l

/-- A decoded superblock: S, q, the weights that are not zero by pruning, the number of survivors. -/
structure Sb where
  scale : List Nat
  q : List Nat
  w : List (Nat × Nat)
deriving DecidableEq, Repr

/-- DecodeSuperblock of R284 (log 18). -/
def SbIn.decode (x : SbIn) (h : SbHead) : Except SbErr Sb :=
  (x.levels (64 * h.nblk) h.fan 16384 [0] 128).bind fun p =>
    (x.bytes .poisonMeta (p.2 / 8) h.nblk).bind fun q =>
      (x.bytes .poisonMeta (p.2 / 8 + h.nblk) 8).bind fun lt =>
        let lens := lt.flatMap fun b => [b % 16, b / 16]
        let pos := p.2 + 8 * (h.nblk + 8)
        let codes : Except SbErr (Option (List (Nat × Nat × Nat))) :=
          if lens.any fun n => 12 < n then .error .bad
          else if lens.all (· = 0) then .ok none
          else
            match prefixCodes lens with
            | none => .error .bad
            | some c => .ok (some c)
        codes.bind fun c => (x.indices c p.1 pos).map fun w => { scale := h.scale, q := q, w := w }

/-- The L16 patterns of the weights of a superblock. -/
def Sb.elems (b : Sb) : List Elem :=
  let a := b.w.foldl (fun (a : Array Nat) p =>
    if b.q.getD (p.1 / 64) 0 = 0 then a else a.setIfInBounds p.1 (wrap (nq4 p.2) 16)) (Array.replicate (64 * b.q.length) 0)
  a.toList.map fun v => { x := v }

/-- The strip entry (R284). -/
def Sb.strip (b : Sb) : List Byte := ((b.scale ++ b.q ++ List.replicate (316 - b.q.length) 0).take 320).map (BitVec.ofNat 8)

/-- Where a job stands: offset of the next superblock from SRC, elements placed, survivors. -/
structure XPos where
  off : Nat := 0
  elems : Nat := 0
  surv : Nat := 0
deriving DecidableEq, Repr

def XPos.pack (p : XPos) : BitVec 128 := BitVec.ofNat 128 (p.off + 2 ^ 48 * (p.elems + 2 ^ 40 * p.surv))
def unpackPos (v : BitVec 128) : XPos := ⟨bitsOf v.toNat 0 48, bitsOf v.toNat 48 40, bitsOf v.toNat 88 40⟩

/-- Read up to `k` pieces of 64 bytes of a superblock, until one fails. -/
def State.readSb (s : State) (n : Nat) (t : Team) : Nat → Nat → State × List (Byte × Bool) × Option JobFail
  | 0, _ => (s, [], none)
  | k + 1, va =>
    match s.readVirt n t none va 64 true with
    | .error f => (s, [], some f)
    | .ok (s1, bs, m) =>
      -- a poisoned granule poisons its bytes
      let (s2, r, f) := s1.readSb n t k ((va + 64) % 2 ^ 57)
      (s2, bs.map (fun b => (b, m)) ++ r, f)

/-- The status record (R284). -/
def xdecStatus (flags done surv : Nat) : List Byte := toBytes 4 flags ++ toBytes 4 done ++ toBytes 4 surv ++ toBytes 4 0

/-- Superblocks decoded from the `j.moved`-th on, at most `lim`; the job then completes, stops at one, is poisoned whole, or waits for
more (log 18). -/
def xdecLoop (n : Nat) (e : Engine) (lim : Nat) : Nat → State → TuJob → XPos → State
  | 0, s, j, p =>
    let la := Xfer.aux j.d % 2 ^ 23 + 320 * Xfer.scnt j.d 0
    (s.landIn n e j [n] fun _ => [{ la := la, bs := xdecStatus 0 j.moved p.surv }]).finishJob n e j
  | k + 1, s, j, p =>
    match s.team? n with
    | none => s
    | some t =>
      if lim ≤ j.moved then s.updTeam n fun t => t.updJob e { j with res := p.pack }
      else
      let d := j.dstSide
      let aux := Xfer.aux j.d % 2 ^ 23
      let va := (Xfer.src j.d + p.off) % 2 ^ 57
      let (s1, hb, hf) := s.readSb n t 1 va
      let head := ({ bs := hb.toArray, len := 64, fail := hf } : SbIn).head
      let stop (s : State) (f : JobFail) : State := s.jobFault n e { j with res := p.pack } f [j.moved, 0, 0, 0]
      let badAt : JobFail := { cause := .xferbad, operand := 7, addr := va }
      -- R285: everything is zero and poisoned
      let poisoned (s : State) (flag : Nat) : State :=
        let zero (c : Nat) : List Byte := List.replicate c 0
        let els := (joinPieces (d.pieces 0 (List.replicate d.count { x := 0, mark := true }))).map fun q =>
          ({ la := q.addr, bs := q.bs, poison := true } : SpWrite)
        (s.landIn n e j [n] fun _ => els ++
          [{ la := aux, bs := zero (320 * Xfer.scnt j.d 0), poison := true },
           { la := aux + 320 * Xfer.scnt j.d 0, bs := xdecStatus flag j.moved p.surv }]).finishJob n e j
      let failed (s : State) : SbErr → State
        | .bad => stop s badAt
        | .access f => stop s f
        | .poisonMeta => poisoned s 1
        | .poisonData => poisoned s 2
      match head with
      | .error er => failed s1 er
      | .ok h =>
        let total := p.elems + 64 * h.nblk
        if d.count < total || (k = 0 && total ≠ d.count) then stop s1 badAt
        else
          let (s2, bs, f) := s1.readSb n t (min (h.len / 64) 1024) va
          match ({ bs := bs.toArray, len := h.len, fail := f } : SbIn).decode h with
          | .error er => failed s2 er
          | .ok sb =>
            let els := (joinPieces (d.pieces p.elems sb.elems)).map fun q => ({ la := q.addr, bs := q.bs } : SpWrite)
            let s3 := s2.landIn n e j [n] fun _ => els ++ [{ la := aux + 320 * j.moved, bs := sb.strip }]
            xdecLoop n e lim k s3 { j with moved := j.moved + 1 }
              { off := p.off + h.len, elems := total, surv := p.surv + sb.w.length }

/-- XDEC: up to `lim` more superblocks (R282-R285) (log 18). -/
def State.runXdec (s : State) (n : Nat) (e : Engine) (j : TuJob) (lim : Nat) : State :=
  xdecLoop n e (j.moved + lim) (Xfer.scnt j.d 0 - j.moved) s j (unpackPos j.res)

end Sys2Proof.Machine
end

