-- ==== Sys2Proof/Machine/Gq.lean ====
section
/-!
DEFINITION. Sys2Proof/Machine/Gq.lean: the gather words and their jobs (12 R310-R319), and TU_JOB_COMPLETE for every job.
-/
namespace Sys2Proof.Machine

/-! Words. -/

/-- An entry register that an outstanding LPOP or LPEEK writes; a word on it waits (R310). -/
def TuState.entryBusy (u : TuState) (e : Nat) : Bool := u.jobs.any fun j => (j.kind = .lpop || j.kind = .lpeek) && j.ent = e

def gatherBad (c : Bool) (f : Nat) : Option NestFail := if c then xferBad f else none

/-- Checks that LPOP, LPEEK and GDONE share (R264, R313). -/
def TuJob.plainCheck (j : TuJob) : Option NestFail :=
  let d := j.d
  [gatherBad (Xfer.ctl d / 2 ^ 37 ≠ 0) 9, gatherBad (j.kind ≠ .gdone && Xfer.src d / 2 ^ 57 ≠ 0) 0,
   gatherBad (j.kind = .gdone && Xfer.dst d / 2 ^ 23 ≠ 0) 1].findSome? id

/-- Geometry of GFETCH and GPOOL (Table 12-9). -/
def TuJob.pb (j : TuJob) : Nat := Xfer.scnt j.d 0
def TuJob.halo (j : TuJob) : Nat := bitsOf (Xfer.aux j.d) 8 7
def TuJob.sigma (j : TuJob) : Nat := 2 ^ bitsOf (Xfer.aux j.d) 15 2
/-- Positions that the word pushes. -/
def TuJob.positions (j : TuJob) : Nat :=
  let w := Xfer.dcnt j.d 0
  let h := Xfer.dcnt j.d 1
  if j.kind = .gfetch then (h * j.sigma + 2 * j.halo) * (w * j.sigma + 2 * j.halo) else h * w

def deltaFmt (f : Nat) : Bool := 2 ≤ f && f ≤ 6

/-- Checks of GFETCH, GPOOL and GSHIFT (R264, R313-R316). -/
def State.gatherCheck (n : Nat) (t : Team) (j : TuJob) : Option NestFail :=
  let d := j.d
  let strides : Option NestFail := [1, 2, 3].findSome? fun i =>
    if Xfer.sstr d i ≠ 0 then xferBad (2 + i) else if Xfer.dstr d i ≠ 0 then xferBad (5 + i) else none
  let esz := fmtBits (Xfer.dfmt d) / 8
  let own : List (Option NestFail) :=
    if j.kind = .gshift then
      [gatherBad (Xfer.dst d / 2 ^ 57 ≠ 0) 1, gatherBad (Xfer.aux d % 2 ^ 19 ≠ 0 || Xfer.aux d / 2 ^ 51 ≠ 0) 2,
       gatherBad (Xfer.scnt d 1 ≠ 1) 11, gatherBad (Xfer.scnt d 2 ≠ 1) 12]
    else
      let size := Xfer.dst d + 64 + j.pb * j.positions
      [gatherBad (Xfer.dst d / 2 ^ 23 ≠ 0) 1,
       gatherBad (Xfer.aux d / 2 ^ 17 ≠ 0 || 64 < j.halo || (j.kind = .gpool && j.halo ≠ 0)) 2,
       (match t.pushDecl n (bitsOf (Xfer.aux d) 0 4) (bitsOf (Xfer.aux d) 4 4) with
        | none => xferBad 2
        | some c => [gatherBad (j.kind = .gpool && j.pb % esz ≠ 0) 10, gatherBad (c.slotBytes < size) 1].findSome? id)]
  [strides, gatherBad (Xfer.ctl d - Xfer.ctl d % 256 / 16 * 16 ≠ 0 || (j.kind ≠ .gfetch && !deltaFmt (Xfer.dfmt d))) 9,
   gatherBad (Xfer.src d / 2 ^ 57 ≠ 0) 0].findSome? id |>.orElse fun _ => own.findSome? id

/-- LPOP and LPEEK (log 40). -/
def State.popWord (s : State) (k : JobKind) (o : BitVec 8) (e : BitVec 3) (d : BitVec 16) : Out :=
  s.onTeam fun n t =>
    if t.gq.entryBusy e.toNat then s
    else
      let j := { t.newJob .gq k o d with ent := e.toNat }
      let depth := t.gq.ctl.loops.length
      let t1 := if k = .lpop && depth ≠ 0 then { t with gq := { t.gq with iterPops := t.gq.iterPops ++ [(depth, j.seq)] } } else t
      s.startJob n t1 .gq j j.plainCheck

/-- LPOP (R311). -/
def execLpop (o : BitVec 8) (e : BitVec 3) (d : BitVec 16) (s : State) : Out := s.popWord .lpop o e d
/-- LPEEK (R311). -/
def execLpeek (o : BitVec 8) (e : BitVec 3) (d : BitVec 16) (s : State) : Out := s.popWord .lpeek o e d

/-- Classes that a word acts on (R319). -/
def JobKind.acts (k : JobKind) (cls : Nat) : Bool := if k = .gshift then cls = 3 else cls = 1 || cls = 2

/-- GFETCH, GPOOL and GSHIFT take the entry as it stands; on another class the job completes at once. -/
def State.entryWord (s : State) (k : JobKind) (o : BitVec 8) (e : BitVec 3) (d : BitVec 16) : Out :=
  s.onTeam fun n t =>
    if t.gq.entryBusy e.toNat then s
    else
      let v := SMap.get 0 t.gq.ent e.toNat
      let j := { t.newJob .gq k o d with ent := e.toNat, res := v, done := !k.acts (bitsOf v.toNat 40 8) }
      (s.startJob n t .gq j (State.gatherCheck n t j)).fireStream n .gq

/-- GFETCH (R314). -/
def execGfetch (o : BitVec 8) (e : BitVec 3) (d : BitVec 16) (s : State) : Out := s.entryWord .gfetch o e d
/-- GSHIFT (R316). -/
def execGshift (o : BitVec 8) (e : BitVec 3) (d : BitVec 16) (s : State) : Out := s.entryWord .gshift o e d
/-- GPOOL (R315). -/
def execGpool (o : BitVec 8) (e : BitVec 3) (d : BitVec 16) (s : State) : Out := s.entryWord .gpool o e d

/-- GDONE (R317) (log 29). -/
def execGdone (o : BitVec 8) (s : State) : Out :=
  s.onTeam fun n t =>
    let j := t.newJob .gq .gdone o 0
    let ch := bitsOf (Xfer.aux j.d) 4 4
    let others := (List.range t.gang.length).filter fun ix => t.gang.getD ix 0 ≠ n
    let bad := others.findSome? fun ix => match t.pushDecl n ix ch with
      | none => xferBad 2
      | some c => if c.slotBytes < Xfer.dst j.d + 64 then xferBad 1 else none
    s.startJob n t .gq j ((j.plainCheck.orElse fun _ => gatherBad t.gang.isEmpty 2).orElse fun _ => bad)

/-! Jobs. -/

/-- LPOP and LPEEK at the list's home slice (R311). -/
def State.runPop (s : State) (n : Nat) (t : Team) (j : TuJob) : State :=
  let va := Xfer.src j.d % 2 ^ 57
  let cls (c : Nat) : BitVec 128 := BitVec.ofNat 128 (c * 2 ^ 40)
  let ks := s.kslot n t
  match kttParts ks .rw 17 va 16 with
  | .error f => s.jobFault n .gq j (f.job 7) [0, 0, 0, 0]
  | .ok ps =>
    let lines := (ps.flatMap fun p => unitsOf 128 p.pa p.len).eraseDups
    let s0 := s.performWrites fun x => x.slot = some n && x.eng = 5 && lines.contains (x.pa / 128)
    let (s1, hd, hm) := ps.foldl (fun (a : State × List Byte × Bool) p =>
      let (s2, b, m) := a.1.jobPhys n p.pa p.len true
      (s2, a.2.1 ++ b, a.2.2 || m)) (s0, [], false)
    let w (i : Nat) : Nat := ofBytes ((hd.drop (4 * i)).take 4)
    let fin (s : State) (v : BitVec 128) : State := s.finishJob n .gq { j with res := v }
    if hm || w 0 ≠ 1 then fin s1 (cls 0xFE)
    else if w 1 ≤ w 2 then fin s1 (cls 0xFF)
    else
      let ea := (va + 64 + 16 * w 2) % 2 ^ 57
      match kttParts ks .r 17 ea 16 with
      | .error f => s1.jobFault n .gq j (f.job 7) [0, 0, 0, 0]
      | .ok es =>
        let (s2, eb, em) := es.foldl (fun (a : State × List Byte × Bool) p =>
          let (s3, b, m) := a.1.jobPhys n p.pa p.len true
          (s3, a.2.1 ++ b, a.2.2 || m)) (s1, [], false)
        if em then fin s2 (cls 0xFE)
        else
          let v := BitVec.ofNat 128 (ofBytes eb)
          if j.kind = .lpeek then fin s2 v
          else
            match kttParts ks .rw 5 ((va + 8) % 2 ^ 57) 4 with
            | .error f => s2.jobFault n .gq j (f.job 7) [0, 0, 0, 0]
            | .ok qs =>
              let s4 := (qs.foldl (fun (a : State × List Byte) p =>
                ((a.1.swapHome n .gq j ⟨p.pa, p.va, a.2.take p.len, false, 0, p.e⟩).1, a.2.drop p.len))
                (s2, toBytes 4 (w 2 + 1))).1
              fin s4 v

/-- The entry's fields. -/
def entX (v : BitVec 128) : Nat := bitsOf v.toNat 0 16
def entY (v : BitVec 128) : Nat := bitsOf v.toNat 16 16
def entDX (v : BitVec 128) : Int := signExt (bitsOf v.toNat 64 16) 16
def entDY (v : BitVec 128) : Int := signExt (bitsOf v.toNat 80 16) 16

/-- Address of position (c, r) of a tile-major buffer (R313). -/
def tileMajor (base pb tw th tx c r : Nat) : Nat :=
  (base + pb * (tw * th * (r / th * tx + c / tw) + tw * (r % th) + c % tw)) % 2 ^ 57

def clampPos (v : Int) (n : Nat) : Nat := (clampInt v 0 ((n : Int) - 1)).toNat

/-- A line through the row cache of a gather core (R310): the least recently used line falls out (log 15). -/
def State.rowLine (s : State) (c ln : Nat) : State × RowLine :=
  let k := s.core c
  let l := (k.rows.find? fun r => r.ln = ln).getD
    { ln := ln, data := BitVec.ofNat 1024 (ofBytes (s.readHbm (128 * ln) 128)),
      marks := BitVec.ofNat 2 ((if s.marks.contains (2 * ln) then 1 else 0) + (if s.marks.contains (2 * ln + 1) then 2 else 0)) }
  (s.updCore c fun k => { k with rows := (l :: k.rows.filter fun r => r.ln ≠ ln).take 2048 }, l)

/-- Bytes with the poison of their granules, through the row cache. -/
def State.rowBytes (s : State) (n pa len : Nat) : State × List (Byte × Bool) :=
  (lineSpans (len / 128 + 2) pa len).foldl (fun (a : State × List (Byte × Bool)) sp =>
    if destOf sp.1 = .hbm then
      let (s1, l) := a.1.rowLine (coreOfSlot n) (sp.1 / 128)
      let bs := (List.range' (sp.1 % 128) sp.2).map fun i => (byteAt l.data.toNat i, bitAt l.marks.toNat (i / 64))
      (s1, a.2 ++ bs)
    else
      let (s1, bs, m) := a.1.jobPhys n sp.1 sp.2 true
      (s1, a.2 ++ bs.map fun b => (b, m))) (s, [])

/-- The PB bytes of one position. -/
def State.readPos (s : State) (n : Nat) (t : Team) (va pb : Nat) : Except JobFail (State × List (Byte × Bool)) :=
  match kttParts (s.kslot n t) .r (pb + 1) va pb with
  | .error f => .error (f.job 7)
  | .ok ps => .ok (ps.foldl (fun (a : State × List (Byte × Bool)) p =>
      let (s1, bs) := a.1.rowBytes n p.pa p.len
      (s1, a.2 ++ bs)) (s, []))

/-- The positions of one group in order: their bytes, or why one fails, with its place in the group. -/
def State.readGroup (s : State) (n : Nat) (t : Team) (pb : Nat) : Nat → List Nat → Except (JobFail × Nat × Nat) (State × List (List (Byte × Bool)))
  | _, [] => .ok (s, [])
  | i, va :: r =>
    match s.readPos n t va pb with
    | .error f => .error (f, i, va)
    | .ok (s1, bs) => (s1.readGroup n t pb (i + 1) r).map fun p => (p.1, bs :: p.2)

/-- Groups in order until one fails. -/
def State.readGroups (s : State) (n : Nat) (t : Team) (pb : Nat) :
    List (List Nat) → State × List (List (List (Byte × Bool))) × Option (JobFail × Nat × Nat)
  | [] => (s, [], none)
  | g :: r =>
    match s.readGroup n t pb 0 g with
    | .error f => (s, [], some f)
    | .ok (s1, ps) =>
      let (s2, l, f) := s1.readGroups n t pb r
      (s2, ps :: l, f)

/-- The greater of two patterns by a format. -/
def fmtMax (fmt a b : Nat) : Nat :=
  let ty := (fmtInt fmt).getD ⟨8, false⟩
  if ty.val a < ty.val b then b else a

/-- The element-wise maximum of positions (R315); poison wherever one of its elements is poisoned. -/
def poolGroup (fmt : Nat) (ps : List (List (Byte × Bool))) : List (Byte × Bool) :=
  let z := max 1 (fmtBits fmt / 8)
  match ps with
  | [] => []
  | p :: r =>
    (List.range (p.length / z)).flatMap fun i =>
      let el (q : List (Byte × Bool)) : List (Byte × Bool) := (q.drop (z * i)).take z
      let pat (q : List (Byte × Bool)) : Nat := ofBytes ((el q).map (·.1))
      if ps.any fun q => (el q).any (·.2) then List.replicate z (0, true)
      else (toBytes z (r.foldl (fun m q => fmtMax fmt m (pat q)) (pat p))).map fun b => (b, false)

/-- The groups of positions that a word pushes, each group one output position (R314, R315). -/
def TuJob.groups (j : TuJob) : List (List Nat) :=
  let d := j.d
  let tw := Xfer.dcnt d 0
  let th := Xfer.dcnt d 1
  let sg := j.sigma
  let at_ (c r : Int) : Nat :=
    tileMajor (Xfer.src d) j.pb (Xfer.scnt d 1) (Xfer.scnt d 2) (Xfer.scnt d 3) (clampPos c (Xfer.dcnt d 2)) (clampPos r (Xfer.dcnt d 3))
  let x0 := entX j.res * tw * sg
  let y0 := entY j.res * th * sg
  if j.kind = .gfetch then
    let h := j.halo
    (List.range (th * sg + 2 * h)).flatMap fun (r : Nat) => (List.range (tw * sg + 2 * h)).map fun (c : Nat) =>
      [at_ ((x0 + c : Nat) - (h : Int)) ((y0 + r : Nat) - (h : Int))]
  else
    (List.range th).flatMap fun (jj : Nat) => (List.range tw).map fun (i : Nat) =>
      (List.range sg).flatMap fun (b : Nat) => (List.range sg).map fun (a : Nat) =>
        at_ ((x0 + i * sg + a : Nat) : Int) ((y0 + jj * sg + b : Nat) : Int)

/-- Bytes at an address, as writes of one poison state each. -/
def markedWrites (la : Nat) (bs : List (Byte × Bool)) : List SpWrite :=
  (joinPieces (bs.zipIdx.map fun p => ⟨la + p.2, [if p.1.2 then 0 else p.1.1], p.1.2, 1⟩)).map fun q =>
    { la := q.addr, bs := q.bs, poison := q.mark }

/-- Earlier memory writes of the stream are performed at their home slices (R318). -/
def State.gqSettle (s : State) (n : Nat) : State := s.performWrites fun x => x.slot = some n && x.eng = 5

/-- The indices of a byte of a job's position `p`, by the nest of a side (17 R400) (log 21). -/
def TuJob.posIdx (j : TuJob) (d : Side) (p va addr : Nat) : List Nat := d.idx (p * j.pb + (addr - va))

/-- GFETCH and GPOOL once the claim holds a slot: the entry, and up to `lim` more positions, in order until one fails (R314, R315). -/
def State.runGather (s : State) (n : Nat) (t : Team) (j : TuJob) (lim : Nat) : State :=
  let ch := bitsOf (Xfer.aux j.d) 4 4
  if s.bounced n t j then s.bounce n t j (Xfer.dst j.d)
  else
    match s.pushTarget n t (bitsOf (Xfer.aux j.d) 0 4) ch, j.claim with
    | some (m, _, d), (_, slot) :: _ =>
      let gs := j.groups
      let k := gs.head?.map (·.length) |>.getD 1
      let (s1, ps, fail) := s.readGroups n t j.pb ((gs.drop j.moved).take lim)
      let body := ps.flatMap fun g => if j.kind = .gfetch then g.flatten else poolGroup (Xfer.dfmt j.d) g
      let off := d.base + slot * d.slotBytes + Xfer.dst j.d
      let entry : List SpWrite := if j.moved = 0 then [{ la := off, bs := toBytes 64 j.res.toNat }] else []
      let j1 := { j with moved := j.moved + ps.length }
      let s2 := s1.landIn n .gq j1 [m] fun _ => entry ++ markedWrites (off + 64 + j.pb * j.moved) body
      match fail with
      | some (f, i, va) => s2.jobFault n .gq j1 f (j.posIdx j.srcSide (k * j1.moved + i) va f.addr)
      | none =>
        if j1.moved = gs.length then ((s2.gqSettle n).fillSlot m ch slot).finishJob n .gq { j1 with filled := 1 }
        else s2.updTeam n fun t => t.updJob .gq j1
    | some _, [] => s
    | none, _ => s.finishJob n .gq j

/-- GDONE: END entries into the slots claimed so far; the row cache is dropped (R317). -/
def State.runGdone (s : State) (n : Nat) (t : Team) (j : TuJob) : State :=
  let ch := bitsOf (Xfer.aux j.d) 4 4
  if s.bounced n t j then s.bounce n t j (Xfer.dst j.d)
  else
  let s0 := (s.updCore (coreOfSlot n) fun k => { k with rows := [] }).gqSettle n
  let s1 := (j.claim.drop j.filled).foldl (fun (s : State) c =>
    match s.pushTarget n t c.1 ch with
    | none => s
    | some (m, _, d) =>
      let off := d.base + c.2 * d.slotBytes + Xfer.dst j.d
      (s.landIn n .gq j [m] fun _ => [{ la := off, bs := toBytes 64 (0xFF * 2 ^ 40) }]).fillSlot m ch c.2) s0
  let j1 := { j with filled := j.claim.length }
  if (s1.claimsLeft n t j1).isEmpty then s1.finishJob n .gq j1 else s1.updTeam n fun t => t.updJob .gq j1

/-- The positions of GSHIFT: source and destination address of each (R316). -/
def TuJob.shifts (j : TuJob) : List (Nat × Nat) :=
  let d := j.d
  let tw := Xfer.dcnt d 0
  let th := Xfer.dcnt d 1
  let ow := Xfer.dcnt d 2
  let oh := Xfer.dcnt d 3
  let at_ (c r : Nat) : Nat := tileMajor (Xfer.src d) j.pb tw th (Xfer.scnt d 3) c r
  (List.range' (entY j.res * th) th).flatMap fun (r : Nat) => (List.range' (entX j.res * tw) tw).filterMap fun (c : Nat) =>
    if c < ow && r < oh then
      some (at_ (clampPos ((c : Int) + entDX j.res) ow) (clampPos ((r : Int) + entDY j.res) oh), at_ c r)
    else none

/-- The bytes of a position through a view: every part of it lies in the handle's region. -/
def State.viewPos (s : State) (n : Nat) (t : Team) (h : DWord) (va pb : Nat) : Except JobFail (List (Byte × Bool)) :=
  match kttParts (s.kslot n t) .r (pb + 1) va pb with
  | .error f => .error (f.job 7)
  | .ok ps =>
    let bad : JobFail := { cause := .snapbad, operand := 12, addr := va, info := h.toNat % 2 ^ 32 }
    match s.openHandle t.asid h with
    | none => .error bad
    | some (r, l) =>
      if !s.inRegion t.asid r va pb then .error bad
      else
        .ok (ps.flatMap fun p => (lineSpans (p.len / 64 + 3) p.pa p.len).flatMap fun sp =>
          let (bs, m0, m1) := s.viewLine t.asid r l (sp.1 / 128)
          (List.range' (sp.1 % 128) sp.2).map fun i => (bs.getD i 0, if i < 64 then m0 else m1))

/-- One position is written with its old value read in the same step, line by line (R316). -/
def State.shiftPos (s : State) (n : Nat) (t : Team) (j : TuJob) (va : Nat) (bs : List (Byte × Bool)) :
    Except JobFail (State × List Byte × Bool) :=
  match kttParts (s.kslot n t) .rw (bs.length + 1) va bs.length with
  | .error f => .error (f.job 8)
  | .ok ps =>
    let (s9, old, pm, _) := ps.foldl (fun (a : State × List Byte × Bool × List (Byte × Bool)) p =>
      let pieces := (joinPieces ((a.2.2.2.take p.len).zipIdx.map fun q =>
        ⟨p.pa + q.2, [if q.1.2 then 0 else q.1.1], q.1.2, 1⟩)).flatMap fun q =>
          (lineCuts (q.bs.length / 128 + 2) q.addr q.bs).map fun c => (c, q.mark)
      let (s1, o, m) := pieces.foldl (fun (b : State × List Byte × Bool) c =>
        let (s2, o, m) := b.1.swapHome n .gq j ⟨c.1.1, p.va + (c.1.1 - p.pa), c.1.2, c.2, 0, p.e⟩
        (s2, b.2.1 ++ o, b.2.2 || m)) (a.1, [], false)
      (s1, a.2.1 ++ o, a.2.2.1 || m, a.2.2.2.drop p.len)) (s, [], false, bs)
    .ok (s9, old, pm || bs.any (·.2))

/-- The greatest change among the elements of a position. -/
def posDelta (fmt : Nat) (old new : List Byte) : Nat :=
  let z := max 1 (fmtBits fmt / 8)
  ((List.range (new.length / z)).map fun i =>
    fmtDelta fmt (ofBytes ((old.drop (z * i)).take z)) (ofBytes ((new.drop (z * i)).take z))).foldl max 0

/-- Positions of a GSHIFT in order; after the last of all, `fin`, the tile's entry of the map is written (R316). -/
def shiftLoop (n : Nat) (t : Team) (fin : Bool) : List (Nat × Nat) → State → TuJob → Delta → State
  | [], s, j, dl =>
    let j1 := { j with claim := [(dl.m, if dl.bad then 1 else 0)] }
    if !fin then s.updTeam n fun t => t.updJob .gq j1
    else
      let ix := entY j.res * Xfer.scnt j.d 3 + entX j.res
      let da := (Xfer.dst j.d + 2 * ix) % 2 ^ 57
      match kttParts (s.kslot n t) .w 3 da 2 with
      | .error f => s.jobFault n .gq j1 (f.job 9) [0, 0, 0, 0]
      | .ok ps =>
        ((ps.foldl (fun (a : State × List Byte) p =>
          (a.1.sendJob n .gq j ⟨p.pa, p.va, a.2.take p.len, false, 0, p.e⟩, a.2.drop p.len)) (s, toBytes 2 dl.entry)).1).finishJob
            n .gq j
  | p :: r, s, j, dl =>
    let stop (f : JobFail) (d : Side) (va : Nat) : State :=
      s.jobFault n .gq { j with claim := [(dl.m, if dl.bad then 1 else 0)] } f (j.posIdx d j.moved va f.addr)
    match s.viewPos n t j.handle p.1 j.pb with
    | .error f => stop f j.srcSide p.1
    | .ok bs =>
      match s.shiftPos n t j p.2 bs with
      | .error f => stop f j.dstSide p.2
      | .ok (s1, old, bad) =>
        shiftLoop n t fin r s1 { j with moved := j.moved + 1 }
          { m := max dl.m (posDelta (Xfer.dfmt j.d) old (bs.map (·.1))), bad := dl.bad || bad }

/-- GSHIFT: up to `lim` more positions. -/
def State.runShift (s : State) (n : Nat) (t : Team) (j : TuJob) (lim : Nat) : State :=
  let dl : Delta := match j.claim with
    | (m, b) :: _ => { m := m, bad := b ≠ 0 }
    | [] => {}
  let ps := j.shifts.drop j.moved
  shiftLoop n t (ps.length ≤ lim) (ps.take lim) s j dl

/-- The banks of the scratchpads that the job's beats use serve no other beat in this cycle (06 R130). -/
def State.portsFree (s : State) (n : Nat) (t : Team) (j : TuJob) : Bool :=
  let banks (l : List (Nat × Nat)) : List Nat := l.flatMap fun r => (unitsOf 0x20000 r.1 r.2)
  let own : Bool := j.srcSide.mem || j.kind = .gdone || !(banks j.srcSide.ranges).any t.ports.contains
  own && (if j.kind.isPush then
      j.claim.all fun c => match s.pushTarget n t c.1 (bitsOf (Xfer.aux j.d) 4 4) with
        | some (_, u, d) => !(banks [(d.base + c.2 * d.slotBytes, d.slotBytes)]).any u.ports.contains
        | none => true
    else (s.jobTargets n t j).all fun m => match s.team? m with
      | some u => !(banks j.localDst).any u.ports.contains
      | none => true)

/-- A job that TU_JOB_COMPLETE can take on: its first request has gone out; a push whose claims are served (GDONE fills what it has
claimed), any other job whose cycles its schedule does not fix. -/
def State.canRun (s : State) (n : Nat) (t : Team) (j : TuJob) : Bool :=
  j.begun && !j.timed && s.portsFree n t j &&
  (if j.kind = .gdone then j.filled < j.claim.length || (s.claimsLeft n t j).isEmpty
   else if j.kind.isPush then (s.claimsLeft n t j).isEmpty
   else true)

/-- TU_JOB_COMPLETE (11 R266): the oldest job of the stream that can, moves up to `w.n` more elements, positions or superblocks, and
completes with the last (log 9). -/
def execTuJobComplete (slot : Nat) (w : TuStep) (s : State) : Out :=
  s.event fun s =>
    match s.team? slot with
    | none => s
    | some t =>
      let e := streamOf w.eng
      match s.pickJob slot t e (s.canRun slot t) with
      | none => s
      | some j =>
        match j.kind with
        | .xgo | .xmc | .xconv | .xgath | .xscat => s.runXfer slot e j w.n true
        | .xdec => s.runXdec slot e j w.n
        | .xpushr => s.runPush slot t e j w.n
        | .lpop | .lpeek => s.runPop slot t j
        | .gfetch | .gpool => s.runGather slot t j w.n
        | .gshift => s.runShift slot t j w.n
        | .gdone => s.runGdone slot t j

end Sys2Proof.Machine
end

