-- ==== Sys2Proof/Machine/Issue.lean ====
section
/-!
DEFINITION. Sys2Proof/Machine/Issue.lean: what a step does when no operation or event is asked for (06 R118-R128): the cycles of a clock
domain, landings and completions that fall due, freezes, the fetch of the next word, and whose turn comes next.  In a cycle of a
domain each of its issuing cores has its turn, the lowest number first, and in a core's turn its engines in the order `turnOrder`;
which domain has the next cycle follows `schedule`, else the domain whose own time is least (log 7).
-/
namespace Sys2Proof.Machine

/-! Whose turn it is (log 7). -/

/-- Cores and gather cores whose issuing team is there. -/
def State.issuingCores (s : State) : List Nat :=
  (s.cores.filter fun p => match p.2.issuing with
    | some n => (s.team? n).isSome
    | none => false).map (·.1)

/-- The issuing cores of a clock domain (log 7). -/
def State.domainCores (s : State) (d : Nat) : List Nat := s.issuingCores.filter fun c => domainOf c = d

/-- The time at which a domain's next cycle begins: not before one of its cores issues (04 R88). -/
def State.domainTime (s : State) (d : Nat) : Nat :=
  match leastOf ((s.domainCores d).map fun c => (s.core c).at_) with
  | some m => max (s.clk d).at_ m
  | none => (s.clk d).at_

/-- The issuing cores that have a turn in the domain's cycle under way (log 7). -/
def State.turnCores (s : State) (d : Nat) : List Nat := (s.domainCores d).filter fun c => (s.core c).at_ ≤ (s.clk d).at_

/-- The domain with the least time; the first of the list among equals (log 7). -/
def State.leastDomain (s : State) : List Nat → Option Nat
  | [] => none
  | c :: r =>
    match s.leastDomain r with
    | none => some c
    | some d => if s.domainTime d < s.domainTime c then some d else some c

/-! Late landings (R126). -/

def Landing.due (l : Landing) (cycle : Nat) : Bool :=
  match l.named with
  | some c => decide (c ≤ cycle)
  | none => false

/-- The team has a late load or job (R126). -/
def Team.isLate (t : Team) : Bool :=
  (t.sq.landing.any fun l => l.due t.cycle && !l.arrived) ||
  t.tu0.jobs.any (·.late t.cycle) || t.tu1.jobs.any (·.late t.cycle) || t.gq.jobs.any (·.late t.cycle)

/-- Some issuing team of the clock domain has a late landing. -/
def State.domainLate (s : State) (d : Nat) : Bool :=
  (s.domainCores d).any fun c => match (s.core c).issuing.bind s.team? with
    | some t => t.isLate && !t.inHandler && t.pend.isNone && !t.stands
    | none => false

/-- A core has its turn in the cycle under way: the beats of the cluster windows that land on it in this cycle have taken their banks
(R130) (log 7). -/
def State.turnTo (s : State) (c : Nat) : State :=
  let k := s.clk (domainOf c)
  let land := (k.windows.filter fun b => b.due = k.cyc && b.targets.contains c).map fun b => b.la / 0x20000
  let s1 : State := { s with sel := { core := c, eng := .me } }
  match (s.core c).issuing with
  | some n => s1.updTeam n fun t => { t with ports := land }
  | none => s1

/-- The next domain has its cycle: the head of the schedule when it has an issuing core, else the one with the least time.  A late
landing freezes the domain for this cycle (R126).  TIME is the greatest time at which a domain has begun a cycle; with no issuing
core it goes on by 1 ns (log 7). -/
def State.pickCore (s0 : State) : State :=
  let s := s0.noteClasses
  let ds := (s.issuingCores.map domainOf).eraseDups
  let pick : Option Nat :=
    match s.schedule.head? with
    | some d => if ds.contains d then some d else s.leastDomain ds
    | none => s.leastDomain ds
  match pick with
  | none => { s with time := s.time + 1, schedule := s.schedule.drop 1, sel := { s.sel with eng := .me } }
  | some d =>
    let tm := s.domainTime d
    let late := s.domainLate d
    let s1 : State := { s with schedule := s.schedule.drop 1, time := BitVec.ofNat 64 (max s.time.toNat tm) }
    let s2 := s1.updClk d fun k => { k with at_ := tm, frozen := late }
    s2.turnTo ((s2.turnCores d).headD s.sel.core)

/-- One cycle of a domain's clock passes: 40 ÷ (16 + step) ns (18 R411) (log 7). -/
def Clk.tick (k : Clk) : Clk :=
  let d := 16 + k.step
  { k with at_ := k.at_ + (40 + k.frac) / d, frac := (40 + k.frac) % d }

/-- A cycle of the domain ends, and the next domain has its cycle (log 7). -/
def State.domainEnd (s : State) (d : Nat) : State :=
  (s.updClk d fun k => { k.tick with cyc := k.cyc + 1 }).pickCore

/-- The turn of core `c` is over: the next core of the domain has its turn, or the domain's cycle ends (log 7). -/
def State.turnOver (s : State) (c : Nat) : State :=
  match (s.turnCores (domainOf c)).find? fun d => c < d with
  | some d => s.turnTo d
  | none => s.domainEnd (domainOf c)

/-- The turn of core `c` ends.  A fault that pends is taken (17 R398); CYCLE counts the cycle, unless a handler runs (17 R402) or the
team stands still (04 R89) (log 7, 20). -/
def State.endCycle (s : State) (c : Nat) : State :=
  State.turnOver (match (s.core c).issuing with
    | none => s
    | some n =>
      let s0 := match s.team? n with
        | some t => if t.pend.isSome then s.takeFault n else s
        | none => s
      (s0.jobTicks n).updTeam n fun t =>
        if t.inHandler || t.stands then { t.settle with ports := [] } else { t.settle with cycle := t.cycle + 1, ports := [] }) c

/-- The engine after `e` that has a section; none at the end of the turn.  In a handler the SQ alone runs (log 7). -/
def Team.nextEngine (t : Team) (e : Engine) : Option Engine :=
  ((turnOrder.dropWhile (· ≠ e)).drop 1).find? fun f => t.hasEngine f && (!t.inHandler || f = .sq)

/-- The turn passes to the next engine (log 7). -/
def State.nextTurn (s : State) : State :=
  match s.cur? with
  | none => s.endCycle s.sel.core
  | some (_, t) =>
    match t.nextEngine s.sel.eng with
    | some f => { s with sel := { s.sel with eng := f, due := false } }
    | none => s.endCycle s.sel.core

/-- The turn passes on.  After the ME's, the running nest has its cycle, and a VE access under way its beats (R130); what falls due in
it is done before the next engine's turn (log 7). -/
def State.passTurn (s : State) : State :=
  match s.cur? with
  | none => s.endCycle s.sel.core
  | some (n, _) => if s.sel.eng = .me then { s.portTicks n with sel := { s.sel with due := true } } else s.nextTurn

/-! Landings and freezes (R124-R127). -/

/-- The timed landing at index `i` takes effect (R124). -/
def Team.landAt (t : Team) (i : Nat) : Team :=
  match t.sq.landing[i]? with
  | none => t
  | some l =>
    match l.value with
    | none => t
    | some (v, m) => ({ t with sq := { t.sq with landing := t.sq.landing.eraseIdx i } }).loadS l.d v m l.pc

/-- A frozen cycle of a domain: no core issues, the jobs that R126 keeps running go on, and FREEZE counts it once (R127, R128). -/
def State.freezeTick (s : State) (c : Nat) : State :=
  let s1 := (s.domainCores (domainOf c)).foldl (fun (s : State) c => match (s.core c).issuing with
    | some n => ((s.updTeam n fun t => { t with ports := [] }).jobTicks n).updTeam n fun t => { t with ports := [] }
    | none => s) s
  (s1.updClk (domainOf c) fun k => { k.tick with freeze := k.freeze + 1 }).pickCore

/-- The landings, completions and other ends that fall due before the first engine of the team's turn issues: the team with the next of
them, if any. -/
def Team.dueTeam (n : Nat) (t : Team) : Option Team :=
  match t.sq.landing.findIdx? fun l => l.due t.cycle with
  | some i => some (t.landAt i)
  | none =>
    let core := coreOfSlot n
    let t1 := ([Engine.tu0, .tu1, .gq].foldl (fun (t : Team) e => t.fireJobs core e (t.tu e).jobs.length) t)
    let t2 := t1.fireNests t1.me.queue.length
    let held (t : Team) : Nat := t.me.queue.length + t.tu0.jobs.length + t.tu1.jobs.length + t.gq.jobs.length
    if held t2 ≠ held t then some t2
    else if t.gq.loopWait && !t.gqNext.gq.loopWait then some t.gqNext
    else if t.swptVar.isSome && t.swptJump.swptVar.isNone then some t.swptJump
    else none

/-- What takes place before the team's turn, when there is something: a fault that was held is taken, the team leaves its core once its
reads have landed, a landing, completion, switch or end of a loop falls due. -/
def State.dueWork (s : State) (n : Nat) (t : Team) : Option State :=
  if s.sel.eng ≠ .me then none
  else if t.leaving then (if s.leaveCore n = s then none else some (s.leaveCore n))
  else if t.stands then none
  else if t.halting.isSome then some (s.handlerEntry n)
  else if t.pend.isSome then some (s.takeFault n)
  else if t.inHandler then none
  else (Team.dueTeam n t).map fun u => s.setTeam n u

/-- No core of the domain has had its turn in a cycle under way. -/
def State.cycleStart (s : State) (d : Nat) : Bool :=
  domainOf s.sel.core ≠ d || (s.sel.eng = .me && !s.sel.due && (s.turnCores d).head? = some s.sel.core)

/-! Fetch (R119, 07 R139, R140). -/

/-- What the engine meets at its program counter: past the end or an undefined word is ILLOP, a poisoned word POISON. -/
inductive Fetched where
  | word (i : Instr)
  | illop
  | poison
deriving DecidableEq, Repr

def State.fetch (s : State) (n : Nat) (t : Team) (e : Engine) : Fetched :=
  let ks := s.kslot n t
  let pc := (t.ctl e).pc
  if t.words e ≤ pc then .illop
  else if ks.bad.contains (e.num, pc) then .poison
  else
    match decode e (SMap.get 0 (ks.sects.getD e.num {}).words pc) with
    | .ok i => .word i
    | .error _ => .illop

/-- The engine can issue: it runs, waits at no switch point and no loop end, and in a handler it is the SQ. -/
def Team.canIssue (t : Team) (e : Engine) : Bool :=
  t.hasEngine e && (t.ctl e).st = .running && (t.ctl e).swpt.isNone && !(e = .gq && t.gq.loopWait) &&
  (!t.inHandler || e = .sq) && !t.stands

/-- What the next step does. -/
inductive Plan where
  /-- module power is absent -/
  | dead
  /-- the state moves on without a word -/
  | move (s : State)
  /-- engine `e` of team `n` issues a word -/
  | word (n : Nat) (t : Team) (e : Engine) (i : Instr)
deriving DecidableEq, Repr

def State.plan (s : State) : Plan :=
  if !s.start.powered then .dead
  else
    match s.cur? with
    | none => .move (if s.issuingCores.isEmpty then s.pickCore else s.endCycle s.sel.core)
    | some (n, t) =>
      if (s.clk (domainOf s.sel.core)).at_ < (s.core s.sel.core).at_ then .move (s.turnOver s.sel.core)
      else if s.cycleStart (domainOf s.sel.core) && (s.beatDue (domainOf s.sel.core)).isSome then
        .move (s.landBeat (domainOf s.sel.core))
      else if (s.clk (domainOf s.sel.core)).frozen then .move (s.freezeTick s.sel.core)
      else if s.sel.due then .move ((s.jobsDue n).getD s.nextTurn)
      else
        match s.dueWork n t with
        | some s1 => .move s1
        | none =>
          let e := s.sel.eng
          if !t.canIssue e then .move s.passTurn
          else if t.faulted e then .move s.passTurn
          else if (t.ctl e).loopMark && !(t.ctl e).loops.isEmpty then .move ((s.trap n t e .poison 0 0 0).passTurn)
          else
            match s.fetch n t e with
            | .illop => .move ((s.trap n t e .illop 0 0 0).passTurn)
            | .poison => .move ((s.trap n t e .poison 11 0 0).passTurn)
            | .word i => if s.interlocked n t e i then .move s.passTurn else .word n t e i

/-- Branches and jumps: a word that may leave the state as it is and has issued all the same. -/
def Instr.isJump : Instr → Bool
  | .beq _ _ _ | .bne _ _ _ | .blt _ _ _ | .bge _ _ _ | .bltu _ _ _ | .bgeu _ _ _ | .j _ | .jal _ | .jalr _ _ _
  | .vjmp _ | .mjmp _ | .xjmp _ => true
  | _ => false

/-- After a word of engine `e` of team `n`: the ready times of its results, and the turn passes on.  A word that waits
leaves the team as it was and is issued again. -/
def State.afterWord (s : State) (n : Nat) (t : Team) (e : Engine) (i : Instr) : State :=
  let s1 := match s.team? n with
    | none => s
    | some u => if u = t && !Instr.isJump i then s else s.setTeam n (t.takeBeats (u.issued e (issueInfo t i)) e i)
  s1.passTurn

/-! Running one word as the first of a team (log 2). -/

/-- A team whose engine `e` holds the word `w` alone, issuing in slot 0, or on the first gather core for a word of the GQ (log 2). -/
def firstTeam (e : Engine) : Team :=
  let n := if e = .gq then 1024 else 0
  { slot := n, gather := e = .gq, k := { kind := if e = .gq then 1 else 0, sect := (allEngines.map fun f => (0, if f = e then 4 else 0)),
                                         vregs := 128, nbank := 1, banks := [0] } }

def firstSlot (e : Engine) (w : Nat) : KSlot :=
  { tid := 0, loaded := true,
    sects := allEngines.map fun f => if f = e then { size := 1, words := [(0, BitVec.ofNat 32 w)] } else {} }

def State.placeWord (s : State) (e : Engine) (w : Nat) : State :=
  let t := firstTeam e
  let c := coreOfSlot t.slot
  let s1 := ({ s with agenda := [], start := { s.start with powered := true }, sel := { core := c, eng := e } }).setTeam t.slot t
  (s1.updCore c fun k => { k with ks0 := some (firstSlot e w), issuing := some t.slot }).updClk (domainOf c) fun k =>
    { k with frozen := false }

end Sys2Proof.Machine
end

