-- ==== Sys2Proof/Machine/EvMem.lean ====
section
/-!
DEFINITION. Sys2Proof/Machine/EvMem.lean: events of memory, of landings and of the error protection (03 R57, 06 R124-R126, 09
R209, R227, 14 R351, 15 R370, R371, 16 R384, R456, 17 R405).
-/
namespace Sys2Proof.Machine

/-! Writes and atomics on their way. -/

/-- WRITE_DRAIN_DONE (R57): the writes of a slot up to the waited count have drained. -/
def execWriteDrainDone (slot : Nat) (s : State) : Out :=
  s.event fun s =>
    let upTo (k : Nat) : Bool := match s.team? slot with
      | some t => k ≤ t.waitDrain.getD t.wIssued
      | none => true
    (s.performWrites fun w => w.slot = some slot && upTo w.num).applyAtoms fun a => a.slot = slot && upTo a.num

/-- Perform the entries of the fabric that the list of (index, write) pairs selects. -/
def State.performAt (s : State) (p : Nat → PWrite → Bool) : State :=
  let es := s.fabric.zipIdx
  ((es.filter fun e => p e.2 e.1).map (·.1)).foldl State.performWrite
    { s with fabric := (es.filter fun e => !p e.2 e.1).map (·.1) }

/-- Part of a write: `n` bytes from byte `a` on. -/
def PWrite.part (w : PWrite) (a n : Nat) : PWrite := { w with va := w.va + a, pa := w.pa + a, bytes := (w.bytes.drop a).take n }

/-- A write cut at the bytes `n` from `a` on, widened to its single-copy atomic parts (15 R361): what comes before, the cut, what comes
after.  A tagged write is one unit (16 R384). -/
def PWrite.cut (w : PWrite) (a n : Nat) : List PWrite × PWrite × List PWrite :=
  if w.tagged || w.unit = 0 || destOf w.pa ≠ .hbm || n = 0 then ([], w, [])
  else
    let len := w.bytes.length
    let lo := min (a / w.unit * w.unit) len
    let hi := min ((a + n + w.unit - 1) / w.unit * w.unit) len
    if hi ≤ lo then ([], w, [])
    else ((if lo = 0 then [] else [w.part 0 lo]), w.part lo (hi - lo), if len ≤ hi then [] else [w.part hi (len - hi)])

/-- TAGGED_WRITE (16 R384): a write on its way, or some bytes of it when they are whole parts of it, reaches its home
slice or port; earlier writes of its stream to the same line (15 R360), or to the same port (19 R428), are performed before it. -/
def execTaggedWrite (c : WriteCut) (s : State) : Out :=
  s.event fun s =>
    match s.fabric[c.ix]? with
    | none => s
    | some w0 =>
      if s.lineWaits (w0.pa / 128) then s
      else
      let (pre, w, post) := w0.cut c.a c.n
      let s1 : State := { s with fabric := s.fabric.take c.ix ++ w :: (pre ++ post) ++ s.fabric.drop (c.ix + 1) }
      s1.performAt fun i x => i = c.ix || (i < c.ix && x.slot = w.slot && x.eng = w.eng &&
        (x.pa / 128 = w.pa / 128 || (destOf w.pa ≠ .hbm && destOf x.pa = destOf w.pa)))

/-- RESTORER_WORK_DONE (16 R456) (log 34). -/
def execRestorerWorkDone (s : State) : Out := s.event State.restorerDone

/-- LINE_RECALL (15 R371): the line leaves every L1 that holds it. -/
def execLineRecall (ix : Nat) (s : State) : Out :=
  s.event fun s =>
    match s.atomq[ix]? with
    | none => s
    | some a =>
      let s1 := s.recallLine (a.pa / 128)
      { s1 with atomq := s1.atomq.mapIdx fun i x => if i = ix then { x with recalled := true } else x }

/-- ATOMIC_APPLY (15 R370): entries for one line are applied in the order in which they entered the queue. -/
def execAtomicApply (ix : Nat) (s : State) : Out :=
  s.event fun s =>
    match s.atomq[ix]? with
    | none => s
    | some a =>
      if s.lineWaits (a.pa / 128) then s
      else
      let es := s.atomq.zipIdx
      let go (e : PAtom × Nat) : Bool := e.2 ≤ ix && e.1.pa / 128 = a.pa / 128
      ((es.filter go).map (·.1)).foldl State.applyAtom { s with atomq := (es.filter fun e => !go e).map (·.1) }

/-! Landings (06 R124-R126, 09 R227). -/

/-- LOAD_DATA_ARRIVAL (R124): the data is in the landing buffer; an untimed load writes its register (log 8). -/
def execLoadDataArrival (slot ix : Nat) (s : State) : Out :=
  s.event fun s =>
    match s.team? slot with
    | none => s
    | some t =>
      match t.sq.landing[ix]? with
      | none => s
      | some l =>
        if l.parts.any fun p => p.req.isNone && s.lineWaits p.ln then s
        else
        match l.value, l.named with
        | none, _ => s
        | some _, none => s.setTeam slot (t.landAt ix)
        | some _, some _ =>
          s.setTeam slot { t with sq := { t.sq with landing := t.sq.landing.set ix { l with arrived := true } } }

/-- TIMED_LANDING (R124): the data is written in the named cycle, while the team issues (log 8). -/
def execTimedLanding (slot ix : Nat) (s : State) : Out :=
  s.event fun s =>
    match s.team? slot with
    | none => s
    | some t =>
      match t.sq.landing[ix]? with
      | none => s
      | some l => if s.advancing slot && l.arrived && l.due t.cycle then s.setTeam slot (t.landAt ix) else s

/-- LATE_LANDING_FREEZE (R126): the domain is frozen from the start of a cycle. -/
def execLateLandingFreeze (slot : Nat) (s : State) : Out :=
  s.event fun s =>
    match s.team? slot with
    | none => s
    | some t =>
      let d := domainOf (coreOfSlot slot)
      if s.advancing slot && t.isLate && s.cycleStart d then s.updClk d fun k => { k with frozen := true } else s

/-- DEVICE_UNIT_REPLY (09 R227): the oldest reply writes its register. -/
def execDeviceUnitReply (slot : Nat) (s : State) : Out :=
  s.event fun s =>
    match s.team? slot with
    | none => s
    | some t =>
      match t.sq.replies with
      | [] => s
      | r :: l => s.setTeam slot (({ t with sq := { t.sq with replies := l } } : Team).loadS r.d r.val r.mark t.sq.ctl.pc)

/-- LOAD_BLOCK_FILLED (09 R209, R211): the block's lines are present and its flag is set; an evicted block is refilled once its
team issues. -/
def execLoadBlockFilled (slot flag : Nat) (s : State) : Out :=
  s.event fun s =>
    match s.team? slot with
    | none => s
    | some t =>
      match SMap.get? t.blocks flag with
      | none => s
      | some b =>
        let c := coreOfSlot slot
        let ks := s.kslot slot t
        let es := b.lines.map fun l => (l, ks.ktt.find? fun e => e.covers l.2 && !e.rev)
        if b.flag || (b.evicted && (s.core c).issuing ≠ some slot) || es.any (fun e => e.2.isNone) || s.acqPending slot then s
        else
          let s1 := es.foldl (fun (s : State) e =>
            match e.2 with
            | some k => s.l1Fill c e.1.1 t.asid e.1.2 k.order
            | none => s) s
          s1.updTeam slot fun t => { t with blocks := SMap.insert t.blocks flag { b with flag := true, evicted := false } }

/-! Errors in stores (R405, R351). -/

/-- A beat of scratchpad is poisoned, with its dtile. -/
def Team.markBeat (t : Team) (beat : Nat) : Team :=
  let dt := beat / 64
  ({ t with spMarks := setInsert beat t.spMarks } : Team).setDir dt { t.dir dt with poison := true }

/-- PATROL_SCRUB (14 R351): the scrubber finds the beats `bad` of a dtile uncorrectable; each is marked and logged. -/
def execPatrolScrub (slot dtile : Nat) (bad : List Nat) (s : State) : Out :=
  s.event fun s =>
    match s.team? slot with
    | none => s
    | some t =>
      let bs := (bad.filter (· < 64)).map fun b => 64 * dtile + b
      if t.spEnd ≤ 4096 * dtile then s
      else bs.foldl (fun (s : State) b => s.logRec 0x30 [unitNum (coreOfSlot slot), 64 * b, b]) (s.setTeam slot (bs.foldl Team.markBeat t))

/-- An uncorrectable error in an L1 line: a clean line is dropped and read again; a dirty line is marked, written back and
dropped (Table 17-6). -/
def State.l1Error (s : State) (c ln : Nat) : State :=
  match SMap.get? (s.core c).l1 ln with
  | none => s
  | some l =>
    if l.dirty = 0 then s.l1Drop c ln
    else ((s.updCore c fun k => { k with l1 := SMap.insert k.l1 ln { l with marks := 3 } }).l1WriteBack c ln).l1Drop c ln

/-- The effect of an uncorrectable error (Table 17-6).  `store` names the store: 0 HBM and 1 L2, `addr` a physical address; 2
an L1, `unit` its core, `addr` physical; and for the team of slot `unit`: 3 scratchpad (local address), 4 a vector register,
5 the accumulator buffers (0, 1) and the staging buffer (2), 6 an s register, 7 k, 8 m, 9 x, 10 the loop stack of engine
`addr`, 11 a landing-buffer entry, 12 a word of its instruction store (2^20 times the engine, plus the word index), 13 an
entry of its KTT bank, 14 its slot context; 15 the swap image of the team at index `unit` of the swapped-out ones. -/
def State.storeError (s : State) (store unit addr : Nat) : State :=
  let team (f : Team → Team) : State := s.updTeam unit f
  let bank (x : Nat × Nat) : State :=
    match s.team? unit with
    | none => s
    | some t => s.updCore (coreOfSlot unit) fun k =>
        let hit (o : Option KSlot) : Option KSlot := o.map fun a => if a.tid = t.tid then { a with bad := a.bad ++ [x] } else a
        { k with ks0 := hit k.ks0, ks1 := hit k.ks1 }
  match store with
  | 0 | 1 => if destOf addr = .hbm then { s with marks := setInsert (addr / 64) s.marks } else s
  | 2 => s.l1Error unit (addr / 128)
  | 3 => team fun t => if addr < t.spEnd then t.markBeat (addr / 64) else t
  | 4 => team fun t => { t with ve := { t.ve with vMarks := setInsert (addr % 128) t.ve.vMarks } }
  | 5 => team fun t =>
      if addr = 0 then { t with me := { t.me with accMark0 := true } }
      else if addr = 1 then { t with me := { t.me with accMark1 := true } }
      else match t.me.staging with
        | some g => { t with me := if g.buf = 0 then { t.me with accMark0 := true } else { t.me with accMark1 := true } }
        | none => t
  | 6 => team fun t =>
      if addr % 64 = 0 then t
      else { t with sq := { t.sq with marks := SMap.insert t.sq.marks (addr % 64) (Config.parityWord s.free).toNat } }
  | 7 => team fun t => { t with ve := { t.ve with kMarks := setInsert (addr % 16) t.ve.kMarks } }
  | 8 => team fun t => if addr % 8 = 0 then t else { t with ve := { t.ve with mMarks := setInsert (addr % 8) t.ve.mMarks } }
  | 9 => team fun t => { t with ve := { t.ve with xMarks := setInsert (addr % 16) t.ve.xMarks } }
  | 10 => team fun t => t.updCtl (Engine.ofNum addr) fun k => { k with loopMark := !k.loops.isEmpty }
  | 11 => team fun t =>
      { t with sq := { t.sq with landing := t.sq.landing.mapIdx fun i l =>
          if i = addr then { l with parts := l.parts.map fun p => { p with mark := true } } else l } }
  | 12 => bank (addr / 2 ^ 20, addr % 2 ^ 20)
  | 13 => bank (6, addr % 256)
  | 14 => team fun t => { t with tdSlot := true }
  | _ => { s with swapped := s.swapped.mapIdx fun i t => if i = unit then { t with tdSlot := true } else t }

/-- The unit that the record of an error in a store names (01 Table 1-2): the stack of the address, its L2 slice, the core of the L1, the
core or gather core of the team, the stack that holds the image. -/
def State.storeUnit (s : State) (store unit addr : Nat) : Nat :=
  match store with
  | 0 => homeStack addr
  | 1 => homeSlice addr
  | 2 => unitNum unit
  | 15 => homeStack (s.poolBase + (s.swapped[unit]?.map (·.image)).getD 0)
  | _ => unitNum (coreOfSlot unit)

/-- UNCORRECTABLE_ERROR (R405, R409). -/
def execUncorrectableError (store unit addr : Nat) (s : State) : Out :=
  s.event fun s =>
    { (s.storeError store unit addr).logRec 0x30 [s.storeUnit store unit addr, addr, addr / 64] with free := s.free + 1 }

/-- A power of two from 16 on. -/
def isPow2 (n : Nat) : Bool := 16 ≤ n && n &&& (n - 1) = 0

/-- CORRECTED_ERROR (R405): counted, with a record at each power of two from 2^4. -/
def execCorrectedError (unit : Nat) (s : State) : Out :=
  s.event fun s =>
    let n := SMap.get 0 s.corrected unit + 1
    let s1 := { s with corrected := SMap.put 0 s.corrected unit n }
    if isPow2 n then s1.logRec 0x31 [unit, n] else s1

end Sys2Proof.Machine
end

