-- ==== Sys2Proof/Machine/EvFault.lean ====
section
/-!
DEFINITION. Sys2Proof/Machine/EvFault.lean: taking faults as events (17 R397, R398, R401, R404) and gated clusters (R408).
-/
namespace Sys2Proof.Machine

/-- The team issues on its core. -/
def State.issues (s : State) (n : Nat) : Bool := decide ((s.core (coreOfSlot n)).issuing = some n)

/-- FAULT_HALT (R398): every engine of the team has halted on the fault that one has reached; a kill request supersedes it (R404) (log
20). -/
def execFaultHalt (slot : Nat) (s : State) : Out :=
  s.event fun s =>
    let killed : Bool := ((s.team? slot).map (·.kill.isSome)).getD true
    if s.issues slot && !killed then s.faultHalt slot else s

/-- HANDLER_ENTRY (R401): a team that is to halt or to leave its core enters its handler when it next issues (R404) (log 20). -/
def execHandlerEntry (slot : Nat) (s : State) : Out :=
  s.event fun s =>
    let stands : Bool := ((s.team? slot).map Team.stands).getD true
    if s.issues slot && !stands then s.handlerEntry slot else s

/-- ASYNC_FAULT (R397): an asynchronous fault is taken at the team's next SQ instruction boundary (log 20). -/
def execAsyncFault (slot : Nat) (s : State) : Out :=
  s.event fun s =>
    let due : Bool := match s.team? slot with
      | some t => (match t.pend with
          | some f => f.async
          | none => false)
      | none => false
    if due then s.takeFault slot else s

/-- A kernel slot of the core is loading, or a team is resident there. -/
def State.coreBusy (s : State) (c : Nat) : Bool :=
  ((slotsOf c).any fun n => (s.team? n).isSome) || (s.core c).ks0.isSome || (s.core c).ks1.isSome

/-- CLUSTER_GATE (R408): a cluster without residents refuses new requests of the fabric; once it refuses them, and what was in flight to
it has been completed, it writes back and drops its L1 lines and loses power. -/
def execClusterGate (cluster : Nat) (s : State) : Out :=
  s.event fun s =>
    let cs := List.range' (4 * cluster) 4
    if 16 ≤ cluster ∨ cs.any s.coreBusy then s
    else if !(s.clk cluster).refusing then s.updClk cluster fun k => { k with refusing := true }
    else
      let s1 := cs.foldl (fun (s : State) c =>
        (s.l1WriteBackAll c fun _ _ => true).updCore c fun k => { k with l1 := [] }) s
      s1.updClk cluster fun k => { k with gated := true, windows := [] }

/-- GATED_BOUNCE (R408): a request to a refused or gated cluster bounces: a team (`origin` its slot) takes an asynchronous GATED fault at
the element's address, a device-engine job (`origin` 0x8000 + its ring stop) fails with cause 0x11 (log 40). -/
def execGatedBounce (origin cluster addr : Nat) (s : State) : Out :=
  s.event fun s =>
    if !(s.clk cluster).shut then s
    else
      let s1 := s.logRec 0x50 [origin, cluster, addr]
      if origin < 0x8000 then
        s1.updTeam origin fun t => t.pendFault { cause := .gated, eng := 6, addr := BitVec.ofNat 64 addr, async := true }
      else
        { s1 with tasks := s1.tasks.map fun k =>
            if k.ring = some (origin - 0x8000) && k.jobEnd.isNone then { k with jobEnd := some (.err 0x11 cluster) } else k }

end Sys2Proof.Machine
end

