-- ==== Sys2Proof/Machine/EvTranslate.lean ====
section
/-!
DEFINITION. Sys2Proof/Machine/EvTranslate.lean: the translation ring, the walkers and invalidation (05 R104, R105, R111-R115).
-/
namespace Sys2Proof.Machine

/-- TLB_MISS_PROBE (R105): a miss sends a probe round the ring; a hit is copied into the engine's own TLB. -/
def execTlbMissProbe (stop asid va : Nat) (s : State) : Out :=
  s.event fun s =>
    if 24 ≤ stop ∨ (s.tlb stop).any (·.hits asid va) then s
    else
      match s.tlbProbe stop asid va with
      | some e => s.tlbInsert stop e
      | none => s

/-- The job at a ring stop needs a translation of this address: its own ASID's, inside its footprint (R105, 15 R376). -/
def State.jobNeeds (s : State) (stop asid va : Nat) : Bool :=
  s.tasks.any fun k => k.ring = some stop && k.jobEnd.isNone && k.asid = asid && k.regions.any fun g => g.covers va 1

/-- PAGE_WALK (R105): after a miss in the ring a walker walks for the engine's job; the translation enters the TLB.  When the walk fails the
job stops at the element that needs it, whose own access meets the failure. -/
def execPageWalk (stop walker asid va : Nat) (s : State) : Out :=
  s.event fun s =>
    if 24 ≤ stop ∨ 4 ≤ walker ∨ !s.jobNeeds stop asid va ∨ (s.tlb stop).any (·.hits asid va) ∨ (s.tlbProbe stop asid va).isSome then s
    else
      match s.walkCached walker asid va with
      | (s1, .ok e) => s1.tlbInsert stop e
      | (s1, .error _) => s1

/-! Invalidation (R111, R113). -/

/-- A write of INVCTL: its RW fields are set; with GO = 1 a command starts, or is rejected with ERR (R111). -/
def State.writeInvctl (s : State) (v : DWord) : State :=
  let s1 : State := { s with host := { s.host with invctl := v &&& 0xFFFFFFFFFFFF8002 } }
  let x := v.toNat
  let pages := bitsOf x 28 36
  let lo := s.host.invaddr.toNat
  let all := bitAt x 1
  if !bitAt x 0 then s1
  else if s.host.inv.isSome || (!all && (pages = 0 || 2 ^ 57 < lo + 4096 * pages)) then
    { s1 with host := { s1.host with inverr := true } }
  else
    { s1 with host := { s1.host with
        inv := some { asid := bitsOf x 16 12, all := all, lo := if all then 0 else lo,
                      hi := if all then 2 ^ 57 else lo + 4096 * pages, irq := bitAt x 15 } } }

/-- INVALIDATE_GO (R111) (log 27). -/
def execInvalidateGo (val : BitVec 64) (s : State) : Out := s.hostEvent fun s => s.writeInvctl val

/-- A translation matches a command (R113) (log 27). -/
def InvCmd.hits (c : InvCmd) (asid : Nat) (global : Bool) (va size : Nat) : Bool :=
  (global || asid = c.asid) && decide (va < c.hi) && decide (c.lo < va + size)

def InvCmd.hitsKtt (c : InvCmd) (asid : Nat) (e : KttEntry) : Bool := c.hits asid e.g e.va (2 ^ e.log2)

/-- REV in every matching entry (log 27). -/
def InvCmd.revoke (c : InvCmd) (asid : Nat) (es : List KttEntry) : List KttEntry :=
  es.map fun e => if c.hitsKtt asid e then { e with rev := true } else e

/-- The ASID of a kernel slot's kernel. -/
def State.kslotAsid (s : State) (a : KSlot) : Nat := ((s.task? a.tid).map (·.asid)).getD 0

/-- Physical ranges of the matching entries that a core holds. -/
def State.matchRanges (s : State) (c : InvCmd) (k : Core) : List (Nat × Nat) :=
  (k.ks0.toList ++ k.ks1.toList).flatMap fun a =>
    (a.ktt.filter (c.hitsKtt (s.kslotAsid a))).map fun e => (e.pa, e.pa + 2 ^ e.log2)

/-- Steps 2 to 5 of Table 5-9 (log 27). -/
def State.invalidate (s : State) (c : InvCmd) : State :=
  let s1 : State := { s with
    tlbs := SMap.mapVals [] s.tlbs fun l => l.filter fun e => !c.hits e.asid e.global e.va e.size,
    walkers := SMap.mapVals [] s.walkers fun l => l.filter fun w => w.asid ≠ c.asid }
  let ranges := s1.cores.map fun p => (p.1, s1.matchRanges c p.2)
  let slot (o : Option KSlot) : Option KSlot := o.map fun a => { a with ktt := c.revoke (s.kslotAsid a) a.ktt }
  let s2 : State := { s1 with
    cores := s1.cores.map fun p => (p.1, { p.2 with ks0 := slot p.2.ks0, ks1 := slot p.2.ks1 }),
    tasks := s1.tasks.map fun t => { t with ktt := c.revoke t.asid t.ktt } }
  let s3 := (s2.performWrites fun _ => true).applyAtoms fun _ => true
  ranges.foldl (fun (s : State) p =>
    ((s.core p.1).l1.filter fun e => p.2.any fun r => decide (128 * e.1 < r.2) && decide (r.1 < 128 * e.1 + 128)).foldl
      (fun (s : State) e => (s.l1WriteBack p.1 e.1).l1Drop p.1 e.1) s) s3

/-- The team of a slot translated an access at `va` through a matching entry. -/
def State.viaMatch (s : State) (c : InvCmd) (n va : Nat) : Bool :=
  match s.team? n with
  | none => false
  | some t => (s.kslot n t).ktt.any fun e => e.covers va && c.hitsKtt t.asid e

/-- Step 4 of Table 5-9: every read of a core's SQ through a matching translation has landed, an atomic on a port returned its value (log 27). -/
def State.readsLanded (s : State) (c : InvCmd) : Bool :=
  (s.teams.all fun e => e.2.sq.landing.all fun l => l.arrived || !(l.parts.any fun p => s.viaMatch c e.1 p.va)) &&
  s.host.outReqs.all fun q => q.op = 98 || !s.viaMatch c q.slot q.va

/-- INVALIDATE_ACK (R113): the steps of Table 5-9 end, once every agent has reached its revocation point; a whole-ASID command puts PTROOT
into effect (R99) (log 27). -/
def execInvalidateAck (s : State) : Out :=
  s.event fun s =>
    match s.host.inv with
    | none => s
    | some c =>
      if !s.readsLanded c then s
      else
      let s1 := s.invalidate c
      let s2 : State := { s1 with host := { s1.host with inv := none, invdone := s1.host.invdone + 1 } }
      let s3 := if c.all then
          { s2 with asids := SMap.upd {} s2.asids c.asid fun a => { a with ptroot' := a.ptroot } } else s2
      if c.irq then s3.raiseMsix 2047 else s3

end Sys2Proof.Machine
end

