-- ==== Sys2Proof/Machine/EvEngineJobs.lean ====
section
/-!
DEFINITION. Sys2Proof/Machine/EvEngineJobs.lean: the jobs of the device engines (12 R286-R307, 19 R432-R434).  A job's event starts it,
and takes it on by as many elements as it says: a job can stop, wait or meet an invalidation between any two (log 9).
-/
namespace Sys2Proof.Machine

/-! Starting a job (03 R64, 12 R289). -/

/-- The engines that serve a task type: 2 codec, 3 CMU, 4 list builder, 5 copy engines (TYPE 0x05 and 0x06). -/
def engineKind (typ : Nat) : Nat := if typ = 6 then 5 else typ

/-- First ring stop and number of the engines of a kind (05 Table 5-3). -/
def engineStops (kind : Nat) : Nat × Nat :=
  if kind = 2 then (0, 12) else if kind = 3 then (12, 1) else if kind = 4 then (13, 1) else (14, 8)

/-- A decode job waits for the earlier jobs of its context (R289) (log 30). -/
def State.contextTurn (s : State) (k : Task) : Bool :=
  k.typ ≠ 2 || !(s.tasks.any fun u => u.typ = 2 && u.id < k.id && u.asid = k.asid && u.stop.isNone && u.cancelled.isNone &&
    u.jobEnd.isNone && fieldAt u.desc 1 1 = fieldAt k.desc 1 1)

/-- A job that waits for an engine only (log 30). -/
def State.jobReady (s : State) (k : Task) : Bool := !k.started && s.startable k && s.contextTurn k

/-- No ready job of the same engines comes before: class order, then admission order (R64). -/
def State.jobTurn (s : State) (k : Task) : Bool :=
  !(s.tasks.any fun u => engineKind u.typ = engineKind k.typ && s.jobReady u &&
    ((s.queue u.queue).clsNow.toNat < (s.queue k.queue).clsNow.toNat ||
     ((s.queue u.queue).clsNow = (s.queue k.queue).clsNow && u.id < k.id)))

/-- No unfinished job holds the engine. -/
def State.engineFree (s : State) (stop : Nat) : Bool := !(s.tasks.any fun u => u.ring = some stop && u.jobEnd.isNone)

/-- What a job does: it reads and writes memory and may fail with a cause and detail of Table 12-1. -/
abbrev JobM := ExceptT (Nat × Nat) (StateM State)

/-- Run a job's actions; a failure keeps what was written (R286). -/
def State.runJobM {α : Type} (s : State) (m : JobM α) : Except (Nat × Nat) α × State := (m.run).run s

/-- A kind of job: what it does at its start, which gives what it keeps of its plan and its number of elements; `m` elements from the
`i`-th on, with what they add to its counts; its end, without a value when it goes on in another stage; and what a failure still does. -/
structure JobSpec where
  setup : EngCtx → Task → JobM (List Byte × Nat)
  work : EngCtx → Task → Nat → Nat → JobM Nat
  finish : EngCtx → Task → JobM (Option DWord)
  failed : EngCtx → Task → JobM Unit

/-- The context of the accesses of a task's job at a ring stop. -/
def Task.ctx (k : Task) (stop : Nat) : EngCtx := { stop := stop, asid := k.asid, regions := k.regions }

def State.endJob (s : State) (tid : Nat) (e : JobEnd) : State := s.updTask tid fun (k : Task) => { k with jobEnd := some e }

/-- A job fails. -/
def State.failJob (s : State) (k : Task) (c : EngCtx) (sp : JobSpec) (e : Nat × Nat) : State :=
  ((s.runJobM (sp.failed c k)).2).endJob k.id (.err e.1 e.2)

/-- A running job does up to `n` more elements, and ends with the last. -/
def State.jobGoes (s : State) (tid stop n : Nat) (sp : JobSpec) : State :=
  match s.task? tid with
  | none => s
  | some k =>
    let c := k.ctx stop
    let m := min n (k.total - k.moved)
    match s.runJobM (sp.work c k k.moved m) with
    | (.error e, s1) => s1.failJob k c sp e
    | (.ok add, s1) =>
      let k1 : Task := { k with moved := k.moved + m, sum := k.sum + add }
      let s2 := s1.updTask tid fun _ => k1
      if k1.moved < k1.total then s2
      else
        match s2.runJobM (sp.finish c k1) with
        | (.error e, s3) => s3.failJob k1 c sp e
        | (.ok (some v), s3) => s3.endJob tid (.ok v)
        | (.ok none, s3) => s3.updTask tid fun (k : Task) => { k with stage := k.stage + 1, total := 0, moved := 0 }

/-- A job of a type on engine `ix` of its kind starts, or goes on by up to `n` elements.  One that is to stop does so, at an element boundary
(03 R78, R80); while T3 is asserted jobs stand still (18 Table 18-4) (log 9). -/
def State.runEngine (s : State) (tid typ ix n : Nat) (sp : JobSpec) : State :=
  match s.task? tid with
  | none => s
  | some k =>
    let (first, cnt) := engineStops (engineKind typ)
    let stop := first + ix
    if k.typ ≠ typ || cnt ≤ ix then s
    else if !k.started then
      if s.power.t3 || !s.jobReady k || !s.jobTurn k || !s.engineFree stop then s
      else
        -- the engine start is the queue's placement decision (03 R51)
        let s1 := (s.updTask tid fun (k : Task) =>
          { k with started := true, startTime := s.time.toNat, ring := some stop, stage := 1 }).updQueue k.queue fun q =>
            { q with clsNow := q.cls }
        match s1.runJobM (sp.setup (k.ctx stop) k) with
        | (.error e, s2) => s2.failJob k (k.ctx stop) sp e
        | (.ok (held, total), s2) =>
          (s2.updTask tid fun (k : Task) => { k with held := held, total := total }).jobGoes tid stop n sp
    else if k.ring ≠ some stop || k.jobEnd.isSome then s
    else if k.stop.isSome || k.wdStage ≠ 0 then s.jobStopped k
    else if s.power.t3 || k.total = 0 then s
    else s.jobGoes tid stop n sp

/-! What jobs are made of. -/

def jobFail {α : Type} (cause detail : Nat) : JobM α := throw (cause, detail)

/-- Fail with cause 0x01 at the first offset whose condition holds. -/
def jobCheck : List (Bool × Nat) → JobM Unit
  | [] => pure ()
  | (bad, off) :: r => if bad then jobFail 0x01 off else jobCheck r

def jobRead (c : EngCtx) (va n : Nat) : JobM (List Byte × Bool) := ExceptT.mk fun s =>
  match s.engRead c va n with
  | (s1, r) => (r, s1)

def jobWrite (c : EngCtx) (va : Nat) (bs : List Byte) (mark : Bool) : JobM Unit := ExceptT.mk fun s =>
  match s.engWrite c va bs mark with
  | (s1, r) => (r, s1)

/-- A field of bytes read whole: poison fails the job with cause 0x09 (R407) (log 30). -/
def jobReadClean (c : EngCtx) (va n : Nat) : JobM (List Byte) := do
  let (bs, m) ← jobRead c va n
  if m then jobFail 0x09 0 else pure bs

/-- Read through a view, line by line, once each piece's translation and footprint allow it (16 R394).  `off` is the field
that names the handle. -/
def jobView (c : EngCtx) (h : DWord) (off va n : Nat) : JobM (List Byte × Bool) := do
  let mut out : List Byte := []
  let mut bad := false
  for sp in lineSpans (n / 128 + 2) va n do
    let s ← get
    if !(c.regions.any fun g => g.r && g.covers va n) then jobFail 0x0E 0
    match s.translate c.stop c.asid sp.1 with
    | (s1, .error f) =>
      set s1
      jobFail f.code 0
    | (s1, .ok e) =>
      set s1
      if !e.r then jobFail 0xE3 0
      match s1.openHandle c.asid h with
      | none => jobFail 0x01 off
      | some (rg, l) =>
        if !s1.inRegion c.asid rg sp.1 sp.2 then jobFail 0x01 off
        let (bs, m) := s1.viewBytes c.asid rg l (e.pa + (sp.1 - e.va)) sp.2
        out := out ++ bs
        bad := bad || m
  pure (out, bad)

/-- RoundHalfTowardZero (x / d) (R292). -/
def roundHalfTowardZero (x : Int) (d : Nat) : Int :=
  let m : Nat := (2 * x.natAbs + d - 1) / (2 * d)
  if x < 0 then -(m : Int) else m

/-! The reuse plan (R293, R294). -/

/-- A plan row. -/
structure PlanRow where
  ow : Nat
  oh : Nat
  tw : Nat
  th : Nat
  halo : Nat
  sig : Nat
  sl : Nat
  kind : Nat
  rflags : Nat
  phalo : Nat
  theta : Nat
  budget : Nat
  refr : Nat
  rest : Nat
  dmap : Nat
  odmap : Nat
  st : Nat
  mcmap : Nat
deriving DecidableEq, Repr

def planRow (b : List Byte) : PlanRow :=
  let f := fieldAt b
  { ow := f 0x00 2, oh := f 0x02 2, tw := f 0x04 2, th := f 0x06 2, halo := f 0x08 1, sig := f 0x09 1, sl := f 0x0A 2,
    kind := f 0x0C 1, rflags := f 0x0D 1, phalo := f 0x0E 2, theta := f 0x10 4, budget := f 0x14 4, refr := f 0x18 2,
    rest := f 0x1A 6, dmap := f 0x20 8, odmap := f 0x28 8, st := f 0x30 8, mcmap := f 0x38 8 }

def PlanRow.tx (r : PlanRow) : Nat := (r.ow + r.tw - 1) / r.tw
def PlanRow.ty (r : PlanRow) : Nat := (r.oh + r.th - 1) / r.th
def PlanRow.tiles (r : PlanRow) : Nat := r.tx * r.ty
/-- The layer stride σ. -/
def PlanRow.stride (r : PlanRow) : Nat := 2 ^ r.sig
def PlanRow.shiftEn (r : PlanRow) : Bool := r.rflags % 2 = 1

/-- A row of layer `l` obeys Table 12-5 and R294. -/
def PlanRow.ok (r : PlanRow) (l : Nat) : Bool :=
  decide (1 ≤ r.tw ∧ r.tw ≤ r.ow ∧ 1 ≤ r.th ∧ r.th ≤ r.oh ∧ r.halo ≤ 64 ∧ r.sig ≤ 3 ∧ 1 ≤ r.sl ∧ r.sl ≤ 1024 ∧ r.kind ≤ 1 ∧
    r.rflags ≤ 1 ∧ r.phalo ≤ 4096 ∧ r.theta ≤ 65534 ∧ r.budget ≤ 2 ^ 31 ∧ 1 ≤ r.refr ∧ r.rest = 0) &&
  decide (r.dmap % 2 = 0 ∧ r.st % 8 = 0 ∧ r.mcmap % 2 = 0 ∧ r.tiles ≤ 2 ^ 20) && (l ≠ 0 || r.sl = r.stride) &&
  !(r.kind = 1 && (r.halo ≠ 0 || r.shiftEn)) && !(r.shiftEn && r.mcmap = 0)

/-- The plan header: layers and stream number. -/
def readPlan (c : EngCtx) (plan : Nat) : JobM (Nat × Nat) := do
  let h ← jobReadClean c plan 64
  let layers := fieldAt h 2 2
  if fieldAt h 0 2 ≠ 1 || layers = 0 || 256 < layers || (h.drop 5).any (· ≠ 0) then jobFail 0x01 0xFFFF
  pure (layers, fieldAt h 4 1)

/-- A plan row: its bytes and what they say. -/
def readRow (c : EngCtx) (plan l : Nat) : JobM (List Byte × PlanRow) := do
  let b ← jobReadClean c (plan + 64 * (l + 1)) 64
  let r := planRow b
  if !r.ok l then jobFail 0x01 (0x8000 + l)
  pure (b, r)

/-- First and last coordinate of tile column or row `x`: tiles of `tw` outputs, stride `st`, halo `h`, clamped into
0 … n - 1, and whether the clamp moved one (R294). -/
def fieldSpan (x tw st h n : Nat) : Nat × Nat × Bool :=
  let lo : Int := (x * tw * st : Nat) - (h : Int)
  let hi : Int := ((x + 1) * tw * st + h : Nat) - (1 : Int)
  (clampPos lo n, clampPos hi n, lo < 0 || (n : Int) ≤ hi)

/-- The numbers from `a` to `b`. -/
def upTo (a b : Nat) : List Nat := List.range' a (b + 1 - a)

/-- A picture: width, height, and the analysis tensor's address. -/
structure Picture where
  w : Nat
  h : Nat
  at_ : Nat
deriving DecidableEq, Repr

/-- An analysis cell (Table 12-4) with its poison. -/
structure Cell where
  mvx : Int
  mvy : Int
  sad : Nat
  intra : Bool
  mark : Bool
deriving DecidableEq, Repr

/-- Read the cell of block (cx, cy) (R291). -/
def readCell (c : EngCtx) (p : Picture) (cx cy : Nat) : JobM Cell := do
  let (b, m) ← jobRead c (p.at_ + 8 * (cy * ((p.w + 15) / 16) + cx)) 8
  pure { mvx := signExt (fieldAt b 0 2) 16, mvy := signExt (fieldAt b 2 2) 16, sad := fieldAt b 4 2,
         intra := fieldAt b 6 1 % 2 = 1, mark := m }

/-- The cells that meet PF(t) (R294). -/
def fieldCells (c : EngCtx) (p : Picture) (r : PlanRow) (x y : Nat) : JobM (List Cell) :=
  let (c0, c1, _) := fieldSpan x r.tw r.sl r.phalo p.w
  let (r0, r1, _) := fieldSpan y r.th r.sl r.phalo p.h
  (upTo (r0 / 16) (r1 / 16)).flatMapM fun cy => (upTo (c0 / 16) (c1 / 16)).mapM fun cx => readCell c p cx cy

/-! The change-mask unit (R295-R299). -/

/-- A CMU job's picture planes. -/
structure CmuPic where
  chroma : Bool
  es : Nat
  pitch : Nat
  pic : Picture
  cur : Nat
  prev : Nat
deriving DecidableEq, Repr

/-- A sample at a byte address: an 8-bit code, or bits [15:6] of a P010 word. -/
def readSample (c : EngCtx) (es va : Nat) : JobM (Nat × Bool) := do
  let (b, m) ← jobRead c va es
  pure (if es = 1 then ofBytes b else ofBytes b / 64, m)

/-- |cur(a) − prev(b)| for byte offsets a and b into the slots; none when a sample is poisoned. -/
def samplePair (c : EngCtx) (p : CmuPic) (ab : Nat × Nat) : JobM (Option Nat) := do
  let (u, mu) ← readSample c p.es (p.cur + ab.1)
  let (v, mv) ← readSample c p.es (p.prev + ab.2)
  pure (if mu || mv then none else some ((u : Int) - (v : Int)).natAbs)

/-- The integers from `a` to `b`. -/
def spanInts (a b : Int) : List Int := (List.range (b + 1 - a).toNat).map fun (i : Nat) => a + (i : Int)

/-- Luma offsets of the region of R296, the previous picture displaced by (dx, dy). -/
def lumaPairs (p : CmuPic) (r : PlanRow) (x y : Nat) (dx dy : Int) : List (Nat × Nat) :=
  let at_ (col row : Int) : Nat := clampPos row p.pic.h * p.pitch + clampPos col p.pic.w * p.es
  let cols := spanInts ((x * r.tw * r.stride : Nat) - (r.halo : Int)) (((x + 1) * r.tw * r.stride + r.halo : Nat) - (1 : Int))
  let rows := spanInts ((y * r.th * r.stride : Nat) - (r.halo : Int)) (((y + 1) * r.th * r.stride + r.halo : Nat) - (1 : Int))
  rows.flatMap fun row => cols.map fun col => (at_ col row, at_ (col + dx) (row + dy))

/-- Chroma offsets, both components of each sample. -/
def chromaPairs (p : CmuPic) (r : PlanRow) (x y : Nat) (dx dy : Int) : List (Nat × Nat) :=
  let plane := p.pitch * (16 * ((p.pic.h + 15) / 16))
  let at_ (col row : Int) (k : Nat) : Nat :=
    plane + clampPos row (p.pic.h / 2) * p.pitch + (2 * clampPos col (p.pic.w / 2) + k) * p.es
  let hc := (r.halo + 1) / 2
  let span (x tw : Nat) : List Int :=
    spanInts ((x * tw * r.stride / 2 : Nat) - (hc : Int)) ((((x + 1) * tw * r.stride + 1) / 2 + hc : Nat) - (1 : Int))
  (span y r.th).flatMap fun row => (span x r.tw).flatMap fun col => [0, 1].map fun k =>
    (at_ col row k, at_ (col + dx) (row + dy) k)

/-- An entry of the delta or MC map in EXACT mode, for the displacement δ in outputs (R296, R297). -/
def exactEntry (c : EngCtx) (p : CmuPic) (r : PlanRow) (x y : Nat) (dx dy : Int) : JobM Nat := do
  let sg : Int := r.stride
  let luma ← (lumaPairs p r x y (sg * dx) (sg * dy)).mapM (samplePair c p)
  let chroma ← if p.chroma then
      (chromaPairs p r x y (roundHalfTowardZero (sg * dx) 2) (roundHalfTowardZero (sg * dy) 2)).mapM (samplePair c p)
    else pure []
  let ds := luma ++ chroma
  pure (if ds.any (·.isNone) then 0xFFFF else (ds.filterMap id).foldl max 0)

def jobWrite16 (c : EngCtx) (va v : Nat) : JobM Unit := jobWrite c va (toBytes 2 v) false

/-- The two entries of tile (x, y) in EXACT mode. -/
def exactTile (c : EngCtx) (p : CmuPic) (r : PlanRow) (x y : Nat) : JobM (Nat × Nat) := do
  if p.prev = 0 then pure (0xFFFF, 0xFFFF)
  else
    let d ← exactEntry c p r x y 0 0
    if r.mcmap = 0 then pure (d, 0)
    else
      let sg := r.stride
      let cx := clampPos ((x * r.tw * sg + r.tw * sg / 2 : Nat) : Int) p.pic.w / 16
      let cy := clampPos ((y * r.th * sg + r.th * sg / 2 : Nat) : Int) p.pic.h / 16
      let cell ← readCell c p.pic cx cy
      if cell.mark || cell.intra then pure (d, 0xFFFF)
      else
        let m ← exactEntry c p r x y (roundHalfTowardZero cell.mvx (4 * sg)) (roundHalfTowardZero cell.mvy (4 * sg))
        pure (d, m)

/-- The entry of tile (x, y) in HINT mode (R298). -/
def hintTile (c : EngCtx) (p : Picture) (htab : Nat) (r : PlanRow) (x y : Nat) : JobM Nat := do
  let cells ← fieldCells c p r x y
  if cells.any (·.mark) then pure 0xFFFF
  else
    let i := if cells.any (·.intra) then 15 else min 14 (bitLen ((cells.map (·.sad)).foldl max 0) 17)
    let b ← jobReadClean c (htab + 2 * i) 2
    pure (ofBytes b)

/-- The pictures of a CMU job. -/
def cmuPic (k : Task) : CmuPic :=
  let f := fieldAt k.desc
  { chroma := bitAt (f 0x00 1) 1, es := 1 + f 0x01 1, pitch := f 0x02 2,
    pic := { w := f 0x04 2, h := f 0x06 2, at_ := f 0x18 8 }, cur := f 0x08 8, prev := f 0x10 8 }

/-- A CMU job: its elements are the tiles of layer 0 (R295) (log 30). -/
def cmuSpec : JobSpec where
  setup c k := do
    let f := fieldAt k.desc
    let mode := f 0x00 1
    jobCheck [(3 < mode, 0x00), (1 < f 0x01 1, 0x01), (f 0x02 2 % 256 ≠ 0, 0x02), (mode % 2 = 0 && f 0x28 8 ≠ 0, 0x28), (f 0x30 16 ≠ 0, 0x30)]
    let (b, r) ← readRow c (f 0x20 8) 0
    pure (b, r.tiles)
  work c k i m := do
    let p := cmuPic k
    let r := planRow k.held
    for t in List.range' i m do
      let (d, mc) ← if fieldAt k.desc 0x00 1 % 2 = 1 then (do
          let v ← hintTile c p.pic (fieldAt k.desc 0x28 8) r (t % r.tx) (t / r.tx)
          pure (v, v))
        else exactTile c p r (t % r.tx) (t / r.tx)
      jobWrite16 c (r.dmap + 2 * t) d
      if r.mcmap ≠ 0 then jobWrite16 c (r.mcmap + 2 * t) mc
    pure 0
  finish _ _ := pure (some 0)
  failed _ _ := pure ()

/-- CMU_JOB (R295). -/
def execCmuJob (w : JobStep) (s : State) : Out := s.event fun s => s.runEngine w.tid 3 0 w.n cmuSpec

/-! The list builder (R300-R307). -/

/-- What a list job works on: its layer's row and the row above, the extent of its input, and its descriptor's fields. -/
structure ListJob where
  layer : Nat
  row : PlanRow
  above : PlanRow
  iw : Nat
  ih : Nat
  init : Bool
  pic : Picture
  view : DWord
  iact : Nat
  ifmt : Nat
  ipb : Nat
deriving DecidableEq, Repr

/-- A reuse state record (R300). -/
structure Reuse where
  d : Nat
  age : Nat
  mark : Bool
deriving DecidableEq, Repr

def reuseOf (b : List Byte × Bool) : Reuse := { d := fieldAt b.1 0 4, age := fieldAt b.1 4 2, mark := b.2 }

/-- A class with the record and displacement it leaves (R303). -/
structure TileClass where
  cls : Nat
  d : Nat := 0
  age : Nat := 0
  dx : Int := 0
  dy : Int := 0
deriving DecidableEq, Repr

/-- COMPUTE with a zero record. -/
def computeTile : TileClass := { cls := 1 }

/-- The input tiles of (x, y): the tiles of the row above that hold a position of RF(t) (R294). -/
def ListJob.inputTiles (j : ListJob) (x y : Nat) : List Nat :=
  let (c0, c1, _) := fieldSpan x j.row.tw j.row.stride j.row.halo j.iw
  let (r0, r1, _) := fieldSpan y j.row.th j.row.stride j.row.halo j.ih
  (upTo (r0 / j.above.th) (r1 / j.above.th)).flatMap fun uy =>
    (upTo (c0 / j.above.tw) (c1 / j.above.tw)).map fun ux => uy * j.above.tx + ux

/-- RF(t) was clamped (Table 12-7 EDGE). -/
def ListJob.edge (j : ListJob) (x y : Nat) : Bool :=
  (fieldSpan x j.row.tw j.row.stride j.row.halo j.iw).2.2 || (fieldSpan y j.row.th j.row.stride j.row.halo j.ih).2.2

/-- The change of one element as an IFMT integer. -/
def elemDeltas (fmt : Nat) (old new : List Byte) : List Nat :=
  let z := fmtBits fmt / 8
  ((chunksOf z old.length old).zip (chunksOf z new.length new)).map fun p => fmtDelta fmt (ofBytes p.1) (ofBytes p.2)

/-- McDelta (R305): none when a read is poisoned. -/
def mcDelta (c : EngCtx) (j : ListJob) (x y : Nat) (dx dy : Int) : JobM (Option Nat) := do
  let (c0, c1, _) := fieldSpan x j.row.tw j.row.stride j.row.halo j.iw
  let (r0, r1, _) := fieldSpan y j.row.th j.row.stride j.row.halo j.ih
  let sg : Int := j.row.stride
  let at_ (col row : Nat) : Nat := tileMajor j.iact j.ipb j.above.tw j.above.th j.above.tx col row
  let ms ← (upTo r0 r1).flatMapM fun row => (upTo c0 c1).mapM fun col => do
    let (new, m0) ← jobRead c (at_ col row) j.ipb
    let (old, m1) ← jobView c j.view 0x20 (at_ (clampPos ((col : Int) + sg * dx) j.iw) (clampPos ((row : Int) + sg * dy) j.ih)) j.ipb
    pure (if m0 || m1 then none else some ((elemDeltas j.ifmt old new).foldl max 0))
  pure (if ms.any (·.isNone) then none else some (min ((ms.filterMap id).foldl max 0) 65535))

/-- What ShiftCheck finds (R304). -/
inductive ShiftRes where
  | fails
  | poisoned
  | shift (t : TileClass)
deriving DecidableEq, Repr

/-- The displacement that every cell gives (R304 condition 2). -/
def commonShift (sl : Nat) (cells : List Cell) : Option (Int × Int) :=
  let ds := cells.map fun q => (roundHalfTowardZero q.mvx (4 * sl), roundHalfTowardZero q.mvy (4 * sl))
  match ds with
  | [] => none
  | d :: r => if cells.any (·.intra) || r.any (· ≠ d) || d = (0, 0) then none else some d

/-- The displaced region lies wholly inside the layer (R304 condition 3) (log 29). -/
def PlanRow.holds (r : PlanRow) (x y : Nat) (dx dy : Int) : Bool :=
  decide (0 ≤ (x * r.tw : Nat) + dx) && decide (((x + 1) * r.tw : Nat) + dx ≤ r.ow) &&
  decide (0 ≤ (y * r.th : Nat) + dy) && decide (((y + 1) * r.th : Nat) + dy ≤ r.oh)

/-- The tiles that hold a position of the displaced region (R304 condition 5). -/
def PlanRow.sources (r : PlanRow) (x y : Nat) (dx dy : Int) : List Nat :=
  let lo (x tw : Nat) (d : Int) : Nat := ((x * tw : Nat) + d).toNat
  let hi (x tw : Nat) (d : Int) : Nat := (((x + 1) * tw : Nat) + d - 1).toNat
  (upTo (lo y r.th dy / r.th) (hi y r.th dy / r.th)).flatMap fun ty =>
    (upTo (lo x r.tw dx / r.tw) (hi x r.tw dx / r.tw)).map fun tx => ty * r.tx + tx

/-- dsh of tile t: MCMAP[t], which the list builder first computes and writes for a layer above 0 (R304 condition 4, R305). -/
def shiftDelta (c : EngCtx) (j : ListJob) (t x y : Nat) (dx dy : Int) : JobM (Option Nat) := do
  if j.layer = 0 then
    let (b, m) ← jobRead c (j.row.mcmap + 2 * t) 2
    pure (if m then none else some (ofBytes b))
  else
    let d ← mcDelta c j x y dx dy
    jobWrite16 c (j.row.mcmap + 2 * t) (d.getD 0xFFFF)
    pure d

/-- ShiftCheck (R304). -/
def shiftCheck (c : EngCtx) (j : ListJob) (t x y : Nat) : JobM ShiftRes := do
  let cells ← fieldCells c j.pic j.row x y
  if cells.any (·.mark) then pure .poisoned
  else
    match commonShift j.row.sl cells with
    | none => pure .fails
    | some (dx, dy) =>
      if !j.row.holds x y dx dy then pure .fails
      else
        match ← shiftDelta c j t x y dx dy with
        | none => pure .poisoned
        | some dsh =>
          if j.row.theta < dsh then pure .fails
          else
            let recs ← (j.row.sources x y dx dy).mapM fun u => do
              let b ← jobView c j.view 0x20 (j.row.st + 8 * u) 8
              pure (reuseOf b)
            let d := (recs.map (·.d)).foldl max 0 + dsh
            let age := (recs.map (·.age)).foldl max 0 + 1
            if recs.any (·.mark) then pure .poisoned
            else if j.row.budget < d || j.row.refr ≤ age then pure .fails
            else pure (.shift { cls := 3, d := d, age := age, dx := dx, dy := dy })

/-- Classify (R303, R306). -/
def classify (c : EngCtx) (j : ListJob) (t x y : Nat) : JobM TileClass := do
  if j.init then pure { cls := 1, age := t * j.row.refr / j.row.tiles }
  else
    let ds ← (if j.layer = 0 then [t] else j.inputTiles x y).mapM fun u => jobRead c (j.row.dmap + 2 * u) 2
    let live ← jobRead c (j.row.st + 8 * t) 8
    let v := reuseOf live
    if ds.any (·.2) || v.mark then pure computeTile
    else
      let d := (ds.map fun b => ofBytes b.1).foldl max 0
      let fd : Bool := j.row.theta < d || j.row.budget < v.d + d
      if fd then pure computeTile
      else if j.row.refr ≤ v.age + 1 then pure { cls := 2 }
      else
        let skip : TileClass := { cls := 0, d := v.d + d, age := v.age + 1 }
        if !j.row.shiftEn then pure skip
        else
          match ← shiftCheck c j t x y with
          | .fails => pure skip
          | .poisoned => pure computeTile
          | .shift k => pure k

/-- A tile list entry (Table 12-7). -/
def listEntry (j : ListJob) (stream seq x y : Nat) (k : TileClass) : List Byte :=
  toBytes 2 x ++ toBytes 2 y ++ toBytes 1 j.layer ++ toBytes 1 k.cls ++
  toBytes 2 ((if j.edge x y then 1 else 0) + (if j.init then 2 else 0)) ++ toBytes 2 (wrap k.dx 16) ++ toBytes 2 (wrap k.dy 16) ++
  toBytes 1 stream ++ toBytes 1 0 ++ toBytes 2 seq

/-- The list job that a descriptor, two plan rows (the layer's and the one above) and a stream number describe. -/
def listJob (k : Task) (rows : List Byte) : ListJob :=
  let f := fieldAt k.desc
  let layer := f 0x00 1
  let row := planRow rows
  let above := planRow (rows.drop 64)
  { layer := layer, row := row, above := above, iw := if layer = 0 then f 0x24 2 else above.ow,
    ih := if layer = 0 then f 0x26 2 else above.oh, init := f 0x01 1 % 2 = 1,
    pic := { w := f 0x24 2, h := f 0x26 2, at_ := f 0x18 8 }, view := BitVec.ofNat 64 (f 0x20 4), iact := f 0x28 8,
    ifmt := f 0x30 1, ipb := f 0x32 2 }

/-- The checks of Table 12-8, in the order of its offsets; the two rows and the stream number as bytes (log 30). -/
def listFields (c : EngCtx) (k : Task) : JobM (List Byte) := do
  let f := fieldAt k.desc
  let layer := f 0x00 1
  let plan := f 0x08 8
  let (layers, stream) ← readPlan c plan
  jobCheck [(layers ≤ layer, 0x00)]
  let (rb, row) ← readRow c plan layer
  let (ab, _) ← if layer = 0 then pure (rb, row) else readRow c plan (layer - 1)
  let sh := row.shiftEn
  let mc := sh && layer ≠ 0
  let ifmt := f 0x30 1
  let ipb := f 0x32 2
  let fmtOk : Bool := decide (2 ≤ ifmt ∧ ifmt ≤ 6)
  let z := if fmtOk then fmtBits ifmt / 8 else 1
  jobCheck [(1 < f 0x01 1, 0x01), (f 0x04 4 = 0 || 2 ^ 20 < f 0x04 4, 0x04), (f 0x10 8 % 64 ≠ 0, 0x10),
    (sh = (f 0x18 8 = 0), 0x18), (sh = (f 0x20 4 = 0), 0x20), (mc = (f 0x28 8 = 0), 0x28),
    (if mc then !fmtOk else ifmt ≠ 0, 0x30), (f 0x31 1 ≠ 0, 0x31), (if mc then ipb = 0 || ipb % z ≠ 0 else ipb ≠ 0, 0x32),
    (f 0x34 12 ≠ 0, 0x34)]
  pure (rb ++ ab ++ [BitVec.ofNat 8 stream])

/-- One count of a list job: COMPUTE, REFRESH and SHIFT tiles at 32-bit places of its sum. -/
def listCount (sum cls : Nat) : Nat := bitsOf sum (32 * (cls - 1)) 32

/-- Classify tiles in ascending order and write their records and entries; what they add to the counts (R302, R303). -/
def listTiles (c : EngCtx) (k : Task) (i m : Nat) : JobM Nat := do
  let f := fieldAt k.desc
  let j := listJob k k.held
  let mut add := 0
  for t in List.range' i m do
    let x := t % j.row.tx
    let y := t / j.row.tx
    let q ← classify c j t x y
    jobWrite c (j.row.st + 8 * t) (toBytes 4 q.d ++ toBytes 2 q.age ++ toBytes 1 q.cls ++ [0]) false
    if q.cls ≠ 0 then
      let n := (([1, 2, 3] : List Nat).map (listCount (k.sum + add))).sum
      if f 0x04 4 ≤ n then jobFail 0x05 j.layer
      jobWrite c (f 0x10 8 + 64 + 16 * n) (listEntry j (k.held.getD 128 0).toNat (f 0x02 2) x y q) false
      add := add + 2 ^ (32 * (q.cls - 1))
  pure add

/-- A list job: its elements are the tiles of its layer (R302).  Its header is written first, so that every failure after it leaves STATE
= 2; a misaligned LIST has no header.  A count of 2^20 leaves its 20-bit field 0 (log 30). -/
def listSpec : JobSpec where
  setup c k := do
    let lst := fieldAt k.desc 0x10 8
    if lst % 64 = 0 then jobWrite c lst (toBytes 12 0 ++ toBytes 4 (fieldAt k.desc 0x04 4) ++ toBytes 48 0) false
    let held ← listFields c k
    pure (held, (planRow held).tiles)
  work c k i m := listTiles c k i m
  finish c k := do
    let lst := fieldAt k.desc 0x10 8
    let n (i : Nat) : Nat := listCount k.sum i
    jobWrite c (lst + 4) (toBytes 4 (n 1 + n 2 + n 3)) false
    jobWrite c lst (toBytes 4 1) false
    pure (some (BitVec.ofNat 64 (n 1 % 2 ^ 20 + 2 ^ 20 * (n 2 % 2 ^ 20) + 2 ^ 40 * (n 3 % 2 ^ 20))))
  failed c k := do
    let lst := fieldAt k.desc 0x10 8
    if lst % 64 = 0 then tryCatch (jobWrite c lst (toBytes 4 2) false) fun _ => pure ()

/-- LIST_JOB (R302). -/
def execListJob (w : JobStep) (s : State) : Out := s.event fun s => s.runEngine w.tid 4 0 w.n listSpec

/-! Copy jobs (19 R432). -/

/-- Move bytes from one address to another, with the poison of what was read (11 R268). -/
def jobMove (c : EngCtx) (h : Option DWord) (src dst n : Nat) : JobM Unit := do
  let (b, m) ← match h with
    | some v => jobView c v 0x10 src n
    | none => jobRead c src n
  jobWrite c dst (if m then List.replicate n 0 else b) m

/-- The page of an address orders its accesses strongly (15 R375); an address that cannot be translated fails at its own access. -/
def jobStrong (c : EngCtx) (va : Nat) : JobM Bool := ExceptT.mk fun s =>
  match s.translate c.stop c.asid va with
  | (s1, .ok e) => (.ok (e.order = 2), s1)
  | (s1, .error _) => (.ok false, s1)

/-- Move a run of one-byte elements in pieces that stay in one granule of the source and one line of the destination; on SO pages one
element at a time (15 R375).  When a piece fails its bytes go one by one, each by its own footprint region and translation, so that every
element before the failing one has moved (15 R376, 11 R264). -/
def jobMoveRun (c : EngCtx) (h : Option DWord) : Nat → Nat → Nat → Nat → JobM Unit
  | 0, _, _, _ => pure ()
  | k + 1, src, dst, n => do
    if n ≠ 0 then
      let m := min n (min (64 - src % 64) (128 - dst % 128))
      let strong := (← jobStrong c src) || (← jobStrong c dst)
      let one : JobM Unit := do for i in List.range m do jobMove c h (src + i) (dst + i) 1
      if strong then one else tryCatch (jobMove c h src dst m) fun _ => one
      jobMoveRun c h k (src + m) (dst + m) (n - m)

/-- The transfer descriptor of a copy job as a job of the transfer units. -/
def copyDesc (k : Task) : TuJob :=
  { kind := .xgo, desc := BitVec.ofNat 512 (ofBytes k.desc), co := 0, named := none, pc := 0, seq := 0, ent := 0 }

/-- The checks of a copy job in the order of 11 Table 11-7: the field of the first that fails (log 30). -/
def copyChecks (j : TuJob) : List (Bool × Nat) :=
  let d := j.d
  let a := j.srcSide
  let b := j.dstSide
  let size (x : Side) : Nat := max 1 (x.bits / 8)
  let bad (x : Side) (off soff : Nat) : List (Bool × Nat) :=
    (x.base % size x ≠ 0, off) :: [0, 1, 2].map fun i => (x.str.getD i 0 % size x ≠ 0, soff + 3 * i)
  [(Xfer.ctl d &&& 0x170FF ≠ Xfer.ctl d || 13 < Xfer.sfmt d || 13 < Xfer.dfmt d, 0x2A),
   (2 ^ 57 ≤ Xfer.src d, 0x00), (2 ^ 57 ≤ Xfer.dst d, 0x08),
   ((if Xfer.view d then 2 ^ 32 ≤ Xfer.aux d else Xfer.aux d ≠ 0), 0x10),
   (a.count ≠ b.count || (a.bits = 4 && a.cnt.getD 0 1 % 2 ≠ 0), 0x30), (b.bits = 4 && b.cnt.getD 0 1 % 2 ≠ 0, 0x38)] ++
  bad a 0x00 0x18 ++ bad b 0x08 0x21 ++ [(Xfer.conv d && !convAllowed a.fmt b.fmt, 0x2A)]

/-- Element n of the source, converted; cause 0x0A when it overflows under policy 3. -/
def copyElem (c : EngCtx) (j : TuJob) (h : Option DWord) (n : Nat) : JobM Elem := do
  let a := j.srcSide
  let p := a.addr2 n
  let k := max 1 (a.bits / 8)
  let (bs, m) ← match h with
    | some v => jobView c v 0x10 (p / 2) k
    | none => jobRead c (p / 2) k
  let x := if a.bits = 4 then bitsOf (ofBytes bs) (4 * (p % 2)) 4 else ofBytes bs
  match convElems a j.dstSide (Xfer.pol j.d) [{ x := x, mark := m }] with
  | ([e], false) => pure e
  | _ => jobFail 0x0A 0

/-- `m` elements with conversion from the `i`-th on; the two nibbles of a byte are written together (11 R263). -/
def copyConv (c : EngCtx) (j : TuJob) (h : Option DWord) (i m : Nat) : JobM Unit := do
  let b := j.dstSide
  if b.bits = 4 then
    for p in List.range' (i / 2) (m / 2) do
      let e0 ← copyElem c j h (2 * p)
      let e1 ← copyElem c j h (2 * p + 1)
      jobWrite c (b.addr (2 * p)) [BitVec.ofNat 8 (e0.x % 16 + 16 * (e1.x % 16))] (e0.mark || e1.mark)
  else
    for p in List.range' i m do
      let e ← copyElem c j h p
      jobWrite c (b.addr p) (toBytes (b.bits / 8) e.x) e.mark

/-- Raw bytes from the `n`-th to before the `stop`-th, in element order: the runs in which both sides are contiguous. -/
def copyRaw (c : EngCtx) (j : TuJob) (h : Option DWord) (stop : Nat) : Nat → Nat → JobM Unit
  | 0, _ => pure ()
  | k + 1, n => do
    let a := j.srcSide
    let b := j.dstSide
    if n < stop then
      let ca := a.cnt.getD 0 1
      let cb := b.cnt.getD 0 1
      let m := min (stop - n) (min (ca - n % ca) (cb - n % cb))
      jobMoveRun c h (m / 64 + m / 128 + 3) (a.addr n) (b.addr n) m
      copyRaw c j h stop k (n + m)

/-- A copy job (R432): its elements are those of its source, two by two when they are nibbles converted (log 30). -/
def copySpec : JobSpec where
  setup _ k := do
    let j := copyDesc k
    jobCheck (copyChecks j)
    pure ([], j.srcSide.count)
  work c k i m := do
    let j := copyDesc k
    let h := if Xfer.view j.d then some j.handle else none
    if Xfer.conv j.d then copyConv c j h i m
    else copyRaw c j h (i + m) (m / j.srcSide.cnt.getD 0 1 + m / j.dstSide.cnt.getD 0 1 + 4) i
    pure 0
  finish _ _ := pure (some 0)
  failed _ _ := pure ()

/-- COPY_JOB (R432). -/
def execCopyJob (w : JobStep) (eng : Nat) (s : State) : Out := s.event fun s => s.runEngine w.tid 5 eng (2 * ((w.n + 1) / 2)) copySpec

/-! Decode jobs (R287-R292).  What the standards fix is free (log 12). -/

/-- A codec context. -/
def State.codec (s : State) (c : Nat) : Codec := SMap.get {} s.codecs c
def State.updCodec (s : State) (c : Nat) (f : Codec → Codec) : State := { s with codecs := SMap.upd {} s.codecs c f }

/-- Read bytes line by line. -/
def jobReadLines (c : EngCtx) (va n : Nat) : JobM (List Byte × Bool) := do
  let ps ← (lineSpans (n / 128 + 2) va n).mapM fun sp => jobRead c sp.1 sp.2
  pure (ps.flatMap (·.1), ps.any (·.2))

/-- Write bytes line by line. -/
def jobWriteLines (c : EngCtx) (va : Nat) (bs : List Byte) (mark : Bool) : JobM Unit := do
  for cut in lineCuts (bs.length / 128 + 2) va bs do jobWrite c cut.1 cut.2 mark

/-- The checks of Table 12-3 that need no bitstream (log 30). -/
def decodeChecks (f : Nat → Nat → Nat) : List (Bool × Nat) :=
  let flags := f 0x03 1
  [(f 0x00 1 = 0 || 3 < f 0x00 1, 0x00), (15 < f 0x02 1, 0x02), (7 < flags, 0x03), (f 0x04 4 = 0 || 2 ^ 26 < f 0x04 4, 0x04),
   (f 0x10 8 % 4096 ≠ 0, 0x10), (f 0x18 4 % 4096 ≠ 0, 0x18), (f 0x1C 2 % 256 ≠ 0, 0x1C), (f 0x1E 2 ≠ 0, 0x1E),
   (if bitAt flags 1 then f 0x20 8 ≠ 0 else f 0x20 8 % 64 ≠ 0, 0x20),
   (if bitAt flags 2 then f 0x28 8 % 64 ≠ 0 else f 0x28 8 ≠ 0, 0x28), (f 0x30 16 ≠ 0, 0x30)]

/-- A sample as a code: 8 bits, or bits [15:6] of a P010 word. -/
def sampleBytes (es code : Nat) : List Byte := if es = 1 then toBytes 1 code else toBytes 2 (64 * (code % 1024))
/-- The code of a decoded sample at an offset of the output (log 12). -/
def decodedCode (ctx dec es off : Nat) : Nat :=
  if es = 1 then (Config.decodedByte ctx dec off).toNat
  else (Config.decodedByte ctx dec off).toNat / 64 + 4 * (Config.decodedByte ctx dec (off + 1)).toNat

/-- One decode: what the stream and the standards fix, with the picture it writes (log 12). -/
structure Dec where
  ctx : Nat
  dec : Nat
  av1 : Bool
  w : Nat
  h : Nat
  es : Nat
  pitch : Nat
  base : Nat
  bits : Nat
  refs : List Nat
  slotb : Nat
  pool : Nat

/-- The temporal unit shows an existing frame (R289). -/
def Dec.shows (d : Dec) : Bool := d.av1 && bitAt d.bits 5 && d.refs ≠ []
/-- The slot of the frame that is shown, or of the first reference picture. -/
def Dec.ref (d : Dec) : Option Nat := d.refs[bitsOf d.bits 6 4 % max 1 d.refs.length]?
def Dec.cols (d : Dec) : Nat := (d.w + 15) / 16
def Dec.rows (d : Dec) : Nat := (d.h + 15) / 16
/-- The mid value of a sample. -/
def Dec.mid (d : Dec) : Nat := if d.es = 1 then 128 else 512
/-- Some block is concealed when the decode says so: those that the stream gives, and at least the first (R290). -/
def Dec.concealed (d : Dec) (cx cy : Nat) : Bool :=
  !d.shows && bitAt d.bits 1 && (cx + cy = 0 || Config.blockConcealed d.ctx d.dec (cy * d.cols + cx))
/-- Offset of a luma sample, of a sample of the interleaved chroma plane. -/
def Dec.luma (d : Dec) (x y : Nat) : Nat := d.pitch * y + d.es * x
def Dec.chroma (d : Dec) (x y : Nat) : Nat := d.pitch * (16 * d.rows + y) + d.es * x

/-- A luma sample where no block is concealed. -/
def Dec.code (d : Dec) (x y : Nat) : Nat := decodedCode d.ctx d.dec d.es (d.luma x y)

/-- SAD of a cell: over its samples inside the picture, saturated (R292) (log 12). -/
def Dec.sad (d : Dec) (cx cy : Nat) : Nat :=
  min 65535 ((List.range' (16 * cy) (min 16 (d.h - 16 * cy))).map fun y =>
    ((List.range' (16 * cx) (min 16 (d.w - 16 * cx))).map fun x =>
      ((d.code x y : Int) - ((Config.predictedCode d.ctx d.dec x y).toNat % (2 * d.mid) : Nat)).natAbs).sum).sum

/-- A vector component: AV1's eighth-pel vectors are rounded; saturated (R292) (log 12). -/
def Dec.vector (d : Dec) (cell comp : Nat) : Int :=
  let v := Config.decodedVector d.ctx d.dec cell comp
  clampInt (if d.av1 then roundHalfTowardZero v 2 else v) (-32768) 32767

/-- An analysis cell (Table 12-4, R289, R290, R292) (log 12). -/
def Dec.cell (d : Dec) (cx cy : Nat) : List Byte :=
  let n := cy * d.cols + cx
  let edge : Nat := if d.w < 16 * (cx + 1) || d.h < 16 * (cy + 1) then 32 else 0
  let free := (Config.decodedByte d.ctx d.dec (2 ^ 40 + n)).toNat
  if d.shows then toBytes 6 0 ++ [BitVec.ofNat 8 (2 + edge), 0]
  else if d.concealed cx cy then toBytes 4 0 ++ toBytes 2 0xFFFF ++ [BitVec.ofNat 8 (1 + free % 4 / 2 * 2 + edge), 0]
  else
    let intra : Bool := free % 2 = 1
    let mv (i : Nat) : List Byte := toBytes 2 (if intra then 0 else wrap (d.vector n i) 16)
    mv 0 ++ mv 1 ++ toBytes 2 (d.sad cx cy) ++
      [BitVec.ofNat 8 (free % 4 + (if intra then 0 else 4 * (free / 4 % 8)) + edge), 0]

/-- The bytes of one row of samples: from the decode, from the co-located row of the reference where a block is concealed, the mid value
without one (R290); chroma of a 4:0:0 picture is the mid value (R287) (log 12). -/
def Dec.rowBytes (d : Dec) (ref : Option (List Byte)) (luma : Bool) (y : Nat) : List Byte :=
  (List.range d.w).flatMap fun x =>
    let off := if luma then d.luma x y else d.chroma x y
    if !luma && bitAt d.bits 4 then sampleBytes d.es d.mid
    else if d.concealed (x / 16) (if luma then y / 16 else y / 8) then
      match ref with
      | some b => (b.drop (d.es * x)).take d.es
      | none => sampleBytes d.es d.mid
    else sampleBytes d.es (decodedCode d.ctx d.dec d.es off)

/-- The film-grain record (R290): a bit length, then the bits, most significant first, zero-padded to 256 bytes. -/
def filmGrain (ctx dec : Nat) : List Byte :=
  let b (i : Nat) : Nat := (Config.decodedByte ctx dec (2 ^ 41 + i)).toNat
  let len := (b 0 + 256 * b 1) % 2033
  toBytes 2 len ++ (List.range 254).map fun i =>
    let keep := min 8 (len - 8 * i)
    BitVec.ofNat 8 (b (2 + i) / 2 ^ (8 - keep) * 2 ^ (8 - keep))

/-- The picture of a decode job under way: the context has counted its decode (log 12). -/
def State.decOf (s : State) (k : Task) : Dec :=
  let f := fieldAt k.desc
  let ctx := f 0x01 1
  let x := s.codec ctx
  let dec := x.dec - 1
  let bits := (Config.decodedFlags ctx dec).toNat
  let refs := (List.range 16).filter (bitAt x.refs.toNat)
  let shown : Bool := f 0x00 1 = 3 && bitAt bits 5
  let own := (64 + 2 * ((Config.decodedSize ctx dec).1 % 4065), 64 + 2 * ((Config.decodedSize ctx dec).2 % 2145),
    if bitAt bits 3 && f 0x00 1 ≠ 1 then 2 else 1)
  -- a frame that is shown again has the size it was decoded with
  let z := if shown then ((refs[bitsOf bits 6 4 % max 1 refs.length]?).bind fun r => SMap.get? x.frames r).getD own else own
  { ctx := ctx, dec := dec, av1 := f 0x00 1 = 3, w := z.1, h := z.2.1, es := z.2.2, pitch := f 0x1C 2,
    base := f 0x10 8 + f 0x02 1 * f 0x18 4, bits := bits, refs := refs, slotb := f 0x18 4, pool := f 0x10 8 }

/-- Write one row of samples: copied from the frame that is shown, or as decoded. -/
def decodeRow (c : EngCtx) (d : Dec) (luma : Bool) (y : Nat) : JobM Unit := do
  let off := if luma then d.luma 0 y else d.chroma 0 y
  let here : Bool := (List.range d.cols).any fun cx => d.concealed cx (if luma then y / 16 else y / 8)
  match d.ref with
  | some r =>
    if d.shows then
      let (b, m) ← jobReadLines c (d.pool + r * d.slotb + off) (d.es * d.w)
      jobWriteLines c (d.base + off) b m
    else if here then
      let (b, m) ← jobReadLines c (d.pool + r * d.slotb + off) (d.es * d.w)
      jobWriteLines c (d.base + off) (d.rowBytes (some b) luma y) m
    else jobWriteLines c (d.base + off) (d.rowBytes none luma y) false
  | none => jobWriteLines c (d.base + off) (d.rowBytes none luma y) false

/-- A decode job: its elements are rows of cells, with the samples of their blocks (R288-R292) (log 12). -/
def decodeSpec : JobSpec where
  setup c k := do
    let f := fieldAt k.desc
    let ctx := f 0x01 1
    let slot := f 0x02 1
    let flags := f 0x03 1
    jobCheck (decodeChecks f)
    let s ← get
    let x0 := s.codec ctx
    if !x0.en || x0.asid.toNat ≠ c.asid then jobFail 0x03 ctx
    let x := if bitAt flags 0 then { x0 with started := false, refs := 0, frames := [] } else x0
    jobCheck [(x.started && x.pool ≠ f 0x10 8, 0x10), (x.started && x.slotb ≠ f 0x18 4, 0x18),
      (x.started && x.pitch ≠ f 0x1C 2, 0x1C)]
    modify fun s => s.updCodec ctx fun _ => x
    if bitAt x.refs.toNat slot then jobFail 0x04 slot
    modify fun s => s.updCodec ctx fun x =>
      { x with started := true, pool := f 0x10 8, slotb := f 0x18 4, pitch := f 0x1C 2, dec := x.dec + 1 }
    let (_, poison) ← jobReadLines c (f 0x08 8) (f 0x04 4)
    if poison then jobFail 0x09 0
    let feature := (Config.decodedFeature ctx x.dec).toNat % 7
    if feature ≠ 0 then jobFail 0x02 feature
    let d := (← get).decOf k
    jobCheck [(f 0x18 4 < 24 * d.pitch * d.rows, 0x18)]
    pure ([], d.rows)
  work c k i m := do
    let d := (← get).decOf k
    if bitAt d.bits 0 then
      for cy in List.range' i m do
        for y in List.range' (16 * cy) (min 16 (d.h - 16 * cy)) do decodeRow c d true y
        for y in List.range' (8 * cy) (min 8 (d.h / 2 - 8 * cy)) do decodeRow c d false y
        if !bitAt (fieldAt k.desc 0x03 1) 1 then
          for cx in List.range d.cols do
            jobWrite c (fieldAt k.desc 0x20 8 + 8 * (cy * d.cols + cx)) (d.cell cx cy) false
    pure 0
  finish c k := do
    let f := fieldAt k.desc
    let d := (← get).decOf k
    let fg : Bool := bitAt (f 0x03 1) 2 && d.av1 && bitAt d.bits 2
    if fg then jobWriteLines c (f 0x28 8) (filmGrain d.ctx d.dec) false
    let refs := Config.decodedRefs d.ctx d.dec
    let slot := f 0x02 1
    modify fun s => s.updCodec d.ctx fun x =>
      { x with refs := refs, frames := if bitAt d.bits 0 then SMap.insert x.frames slot (d.w, d.h, d.es) else x.frames }
    pure (some (BitVec.ofNat 64 (refs.toNat * 2 ^ 48 + slot * 2 ^ 40 + (if fg then 2 ^ 34 else 0) +
      (if bitAt d.bits 1 && !d.shows then 2 ^ 33 else 0) + (if bitAt d.bits 0 then 2 ^ 32 else 0))))
  failed _ _ := pure ()

/-- DECODE_JOB (R288) (log 9). -/
def execDecodeJob (w : JobStep) (eng : Nat) (s : State) : Out := s.event fun s => s.runEngine w.tid 2 eng w.n decodeSpec

/-! Collective jobs (19 R433, R434). -/

/-- The descriptor of Table 19-5. -/
structure Coll where
  op : Nat
  dtype : Nat
  rop : Nat
  rank : Nat
  nr : Nat
  tmo : Nat
  count : Nat
  src : Nat
  dst : Nat
  peers : Nat
  seq : Nat
deriving DecidableEq, Repr

def collOf (b : List Byte) : Coll :=
  let f := fieldAt b
  { op := f 0 1, dtype := f 1 1, rop := f 2 1, rank := f 3 1, nr := f 4 1, tmo := f 5 1, count := f 8 8, src := f 0x10 8,
    dst := f 0x18 8, peers := f 0x20 8, seq := f 0x28 4 }

/-- Bytes of an element. -/
def Coll.es (x : Coll) : Nat := if x.dtype = 2 then 2 else 4
/-- Elements of a full chunk. -/
def Coll.chunk (x : Coll) : Nat := (x.count + x.nr - 1) / x.nr
/-- Elements of chunk c. -/
def Coll.len (x : Coll) (c : Nat) : Nat := min x.chunk (x.count - c * x.chunk)
def Coll.up (n : Nat) : Nat := (n + 127) / 128 * 128
/-- Elements of the result. -/
def Coll.result (x : Coll) : Nat := if x.op = 1 then x.chunk else x.count
/-- Byte offset from DST of the slot in rank `me`'s receive area for rank `r` (R434). -/
def Coll.slot (x : Coll) (me r : Nat) : Nat :=
  Coll.up (x.es * x.result) + (if r < me then r else r - 1) * Coll.up (x.es * x.chunk)
/-- V(k). -/
def Coll.signal (x : Coll) (k : Nat) : Nat := 4 * (x.seq % 2 ^ 30) + k
def Coll.others (x : Coll) : List Nat := (List.range x.nr).filter (· ≠ x.rank)

def Coll.checks (x : Coll) (b : List Byte) : List (Bool × Nat) :=
  [(2 < x.op, 0x00), (2 < x.dtype, 0x01), (2 < x.rop || (x.op = 0 && x.rop ≠ 0), 0x02), (x.nr ≤ x.rank, 0x03),
   (x.nr < 2 || 16 < x.nr, 0x04), (x.tmo = 0, 0x05), (x.count = 0 || 2 ^ 40 < x.count, 0x08), (x.dst % 128 ≠ 0, 0x18),
   (fieldAt b 0x2C 20 ≠ 0, 0x2C)]

/-- The address of rank r's DST. -/
def peerDst (c : EngCtx) (x : Coll) (r : Nat) : JobM Nat := do
  let b ← jobReadClean c (x.peers + 8 * r) 8
  pure (ofBytes b)

/-- Move `n` bytes, carrying poison. -/
def jobCopy (c : EngCtx) (src dst n : Nat) : JobM Unit := jobMoveRun c none (n / 64 + n / 128 + 3) src dst n

/-- Signal stage k to a peer whose DST is `dst` (R434). -/
def sendSignal (c : EngCtx) (x : Coll) (k dst : Nat) : JobM Unit :=
  jobWrite c (dst - 64 + 4 * x.rank) (toBytes 4 (x.signal k)) false

/-- Elements of a chunk as the job counts them: an empty chunk still has its signal to send. -/
def Coll.span (x : Coll) : Nat := max 1 x.chunk

/-- Runs of at most `m` elements from the `i`-th on that stay in one chunk of `span` elements: chunk, first element, elements. -/
def Coll.runs (x : Coll) : Nat → Nat → Nat → List (Nat × Nat × Nat)
  | 0, _, _ => []
  | f + 1, i, m =>
    if m = 0 then []
    else
      let n := min m (x.span - i % x.span)
      (i / x.span, i % x.span, n) :: x.runs f (i + n) (m - n)

/-- Stage 1 sends a chunk to each of these ranks in turn; an all-gather writes its own result first (R434). -/
def Coll.firstTo (x : Coll) : List Nat := if x.op = 0 then x.rank :: x.others else x.others

/-- Elements `a … a + n - 1` of stage 1's transfer to rank r; with the chunk's last, the signal. -/
def collSend (c : EngCtx) (x : Coll) (r a n : Nat) : JobM Unit := do
  let dst ← if r = x.rank then pure x.dst else peerDst c x r
  let len := x.len (if x.op = 0 then x.rank else r)
  let m := min (a + n) len - a
  let (src, to_) := if x.op = 0 then (x.src, dst + x.es * x.chunk * x.rank)
    else (x.src + x.es * x.chunk * r, dst + x.slot r x.rank)
  jobCopy c (src + x.es * a) (to_ + x.es * a) (x.es * m)
  if a + n = x.span && r ≠ x.rank then sendSignal c x 1 dst

/-- v ⊕ w on patterns (R433). -/
def Coll.combine (x : Coll) (v w : Nat) : Nat :=
  let g : FFmt := if x.dtype = 2 then BF16 else F32
  let a := g.decode v
  let b := g.decode w
  let i (p : Nat) : Int := signExt p 32
  if x.dtype = 0 then
    (if x.rop = 0 then (v + w) % 2 ^ 32 else if x.rop = 1 then wrap (min (i v) (i w)) 32 else wrap (max (i v) (i w)) 32)
  else if x.rop = 0 then g.round .rne (Fl.add .rne a b)
  else g.round .rne (if x.rop = 1 then Fl.min a b else Fl.max a b)

/-- Reduce elements `a … a + n - 1` of the own chunk, in ascending rank order, into the result (R433). -/
def collReduce (c : EngCtx) (x : Coll) (a n : Nat) : JobM Unit := do
  let dst := if x.op = 1 then x.dst else x.dst + x.es * x.chunk * x.rank
  for i in List.range' a (min (a + n) (x.len x.rank) - a) do
    let vs ← (List.range x.nr).mapM fun r =>
      jobReadClean c ((if r = x.rank then x.src + x.es * x.chunk * r else x.dst + x.slot x.rank r) + x.es * i) x.es
    match vs.map ofBytes with
    | [] => pure ()
    | v :: ws => jobWrite c (dst + x.es * i) (toBytes x.es (ws.foldl x.combine v)) false

/-- Elements of stage 2's transfer of the reduced chunk to rank r; with its last, the signal (R434). -/
def collSpread (c : EngCtx) (x : Coll) (r a n : Nat) : JobM Unit := do
  let dst ← peerDst c x r
  let at_ := x.es * x.chunk * x.rank + x.es * a
  jobCopy c (x.dst + at_) (dst + at_) (x.es * (min (a + n) (x.len x.rank) - a))
  if a + n = x.span then sendSignal c x 2 dst

/-- Elements of the part of a collective that begins at stage 1, and at stage 3 once every partner has signalled stage 1. -/
def Coll.elems (x : Coll) (stage : Nat) : Nat :=
  x.span * (if stage = 1 then x.firstTo.length else if x.op = 1 then 1 else 1 + x.others.length)

/-- A collective job: stages 1 and 3 of the task move and reduce, in stages 2 and 4 it waits for its partners (R433, R434). -/
def collSpec : JobSpec where
  setup _ k := do
    let x := collOf k.desc
    jobCheck (x.checks k.desc)
    pure ([], x.elems 1)
  work c k i m := do
    let x := collOf k.desc
    for p in x.runs (m / x.span + 2) i m do
      if k.stage = 1 then collSend c x (x.firstTo.getD p.1 0) p.2.1 p.2.2
      else if p.1 = 0 then collReduce c x p.2.1 p.2.2
      else collSpread c x (x.others.getD (p.1 - 1) 0) p.2.1 p.2.2
    pure 0
  finish _ k := pure (if k.stage = 3 && (collOf k.desc).op = 1 then some 0 else none)
  failed _ _ := pure ()

/-- COLLECTIVE_JOB (R433). -/
def execCollectiveJob (w : JobStep) (eng : Nat) (s : State) : Out := s.event fun s => s.runEngine w.tid 6 eng w.n collSpec

/-- The ranks that have not signalled stage k. -/
def collMissing (c : EngCtx) (x : Coll) (k : Nat) : JobM (List Nat) := do
  let ws ← x.others.mapM fun r => do
    let b ← jobReadClean c (x.dst - 64 + 4 * r) 4
    pure (r, (ofBytes b + 2 ^ 32 - x.signal k % 2 ^ 32) % 2 ^ 32)
  pure ((ws.filter fun w => 2 ^ 31 ≤ w.2).map (·.1))

/-- A collective that waits for its partners: its task, its engine's context, and the stage whose signals it waits for. -/
def State.collWaits (s : State) (tid : Nat) : Option (Task × EngCtx × Coll × Nat) :=
  match s.task? tid with
  | none => none
  | some k =>
    match k.ring with
    | some stop =>
      if k.typ = 6 && !s.power.t3 && k.started && k.jobEnd.isNone && k.stop.isNone && k.wdStage = 0 && (k.stage = 2 || k.stage = 4) then
        some (k, k.ctx stop, collOf k.desc, k.stage / 2)
      else none
    | none => none

/-- TIME at which a collective's partners must have signalled (R433). -/
def Task.collDeadline (k : Task) : Nat := k.startTime + 1000000 * (collOf k.desc).tmo

/-- COLLECTIVE_STAGE_PASS (R434): every partner has signalled, in time. -/
def execCollectiveStagePass (tid : Nat) (s : State) : Out :=
  s.event fun s =>
    match s.collWaits tid with
    | none => s
    | some (k, c, x, st) =>
      if k.collDeadline ≤ s.time.toNat then s
      else
        match s.runJobM (collMissing c x st) with
        | (.error e, s1) => s1.endJob tid (.err e.1 e.2)
        | (.ok (_ :: _), s1) => s1
        | (.ok [], s1) =>
          if x.op = 0 ∨ st = 2 then s1.endJob tid (.ok 0)
          else s1.updTask tid fun (k : Task) => { k with stage := 3, total := x.elems 3, moved := 0 }

/-- The result of a collective that timed out is undefined: free values. -/
def undefinedResult (c : EngCtx) (x : Coll) (n : Nat) : JobM Unit :=
  jobWriteLines c x.dst ((List.range (x.es * x.result)).map fun i => Config.undefinedByte (n + i)) false

/-- COLLECTIVE_TIMEOUT (R433): TMO ms after the job's start, it still waits.  Where all partners have signalled by now, the rank that had not
is free (log 3). -/
def execCollectiveTimeout (tid : Nat) (s : State) : Out :=
  s.event fun s =>
    match s.collWaits tid with
    | none => s
    | some (k, c, x, st) =>
      if s.time.toNat < k.collDeadline then s
      else
        match s.runJobM (collMissing c x st) with
        | (.error e, s1) => s1.endJob tid (.err e.1 e.2)
        | (.ok l, s1) =>
          let r := l.headD (x.others.getD (Config.lateRank s1.free % max 1 x.others.length) 0)
          let (_, s2) := s1.runJobM (undefinedResult c x s1.free)
          { s2 with free := s2.free + x.es * x.result }.endJob tid (.err 0x06 r)

end Sys2Proof.Machine
end

