-- ==== Sys2Proof/Machine/EvPower.lean ====
section
/-!
DEFINITION. Sys2Proof/Machine/EvPower.lean: the power manager (18 R411-R425): clocks, the budget level, the boost arbiter, permits
and the thermal ladder.
-/
namespace Sys2Proof.Machine

/-! Clocks (R411-R413, R416). -/

/-- The step commanded to an FLL: the grant's step, or the step at which the budget fall holds the clock (R416) (log 35). -/
def Clk.command (k : Clk) : Nat := min k.cmd k.cap

/-- An interval in which the command stands above nominal at any moment is charged (R420). -/
def Clk.seen (k : Clk) : Clk := { k with above := k.above || 52 < k.command }

/-- Command a step. -/
def Clk.setCmd (k : Clk) (step : Nat) : Clk := { k with cmd := step }.seen

/-- Hold `g` boost steps. -/
def Clk.setGrant (k : Clk) (g : Nat) : Clk := { k with grant := g }.setCmd (52 + g)

/-- FLL_STEP (R412): one step towards the commanded one, 100 ns after the last at the earliest. -/
def execFllStep (unit : Nat) (s : State) : Out :=
  s.event fun s =>
    let k := s.clk unit
    if 32 ≤ unit || k.step = k.command then s
    else
      let s1 := s.advanceTo k.next
      s1.updClk unit fun k =>
        { k with step := if k.step < k.command then k.step + 1 else k.step - 1, next := s1.time.toNat + 100 }

/-! The boost arbiter (R417-R419). -/

/-- Thermal trips T2 and T3 stop grants (Table 18-4). -/
def Power.hot (p : Power) : Bool := p.t2 || p.t3

/-- The issuing teams of a cluster's cores. -/
def State.clusterTeams (s : State) (c : Nat) : List Team :=
  (List.range 4).filterMap fun i =>
    match (s.core (4 * c + i)).issuing with
    | some n => s.team? n
    | none => none

/-- A deterministic team issues on a core of the cluster (R418). -/
def State.detIssues (s : State) (c : Nat) : Bool := (s.clusterTeams c).any fun t => (s.queue t.queue).det

/-- The request of a cluster (R417, R418). -/
def State.boostRequest (s : State) (c : Nat) : Nat :=
  if s.detIssues c then 0 else ((s.clusterTeams c).map fun t => min t.boost.toNat 14).foldl max 0

/-- The budget in units (Table 18-2). -/
def State.boostCap (s : State) : Nat := min s.power.bstbud.toNat 224
def State.boostHeld (s : State) : Nat := ((List.range 16).map fun c => (s.clk c).grant).sum

/-- Set a cluster's grant, lowering it at once; the newest grants stay in order. -/
def State.setGrant (s : State) (c g : Nat) : State :=
  let s1 := s.updClk c fun k => k.setGrant g
  if g = 0 then { s1 with power := { s1.power with newest := s1.power.newest.filter (· ≠ c) } } else s1

/-- Ascending cluster numbers, starting after the last cluster granted. -/
def State.boostOrder (s : State) : List Nat := (List.range 16).map fun i => (s.power.lastGrant + 1 + i) % 16

/-- Requests that arrive at one moment enter the queue. -/
def State.boostArrive (s : State) (cs : Nat → Bool) : State :=
  { s with power := { s.power with
      bstq := s.power.bstq ++ s.boostOrder.filter fun c => cs c && !s.power.bstq.contains c } }

/-- Serve the head of the queue: an unarmed head, or one that asks for no more than it holds, leaves; without a free unit
the head waits. -/
def State.boostServe : Nat → State → State
  | 0, s => s
  | n + 1, s =>
    match s.power.bstq with
    | [] => s
    | c :: r =>
      let k := s.clk c
      let want := k.req - k.grant
      let free := s.boostCap - s.boostHeld
      let left : State := { s with power := { s.power with bstq := r } }
      if !k.armed || want = 0 then State.boostServe n left
      else if free = 0 then s
      else
        let s1 := left.updClk c fun k => k.setGrant (k.grant + min want free)
        State.boostServe n { s1 with power := { s1.power with
          lastGrant := c, newest := c :: s1.power.newest.filter (· ≠ c) } }

def State.serveBoost (s : State) : State := if s.power.hot then s else s.boostServe s.power.bstq.length

/-- A cluster whose deterministic team issues holds no grant and is commanded nominal at once, in a step-down interval too
(R418) (log 35). -/
def State.detWithdraw (s : State) (c : Nat) : State :=
  if s.detIssues c then (s.setGrant c 0).updClk c fun k => { k with req := 0 } else s

/-- A cluster's new request: a fall lowers the grant at once.  A cluster that asks for no more than it holds stands in no
queue: its next rise arrives anew (log 35). -/
def State.sampleRequest (s : State) (c : Nat) : State :=
  let r := if s.power.hot then 0 else s.boostRequest c
  let s1 := s.detWithdraw c
  let s2 := if r < (s1.clk c).grant then s1.setGrant c r else s1
  let s3 := s2.updClk c fun k => { k with req := r }
  if (s3.clk c).grant < r then s3
  else { s3 with power := { s3.power with bstq := s3.power.bstq.filter (· ≠ c) } }

/-- BOOST_ARBITER_SAMPLE (R419): at this nanosecond, or at the next one when this one has been sampled, every request is
sampled, rises arrive, and the head is served. -/
def execBoostArbiterSample (s : State) : Out :=
  s.event fun s =>
    let s0 := s.advanceTo (s.power.sampledAt + 1)
    let s1 : State := { s0 with power := { s0.power with sampledAt := s0.time.toNat } }
    let s2 := (List.range 16).foldl State.sampleRequest s1
    let rises (c : Nat) : Bool := (s1.clk c).req < (s2.clk c).req && (s2.clk c).grant < (s2.clk c).req
    (s2.boostArrive rises).serveBoost

/-- Withdraw the newest grants, each whole, until the held units fit; the clusters that lost theirs. -/
def State.withdrawNewest : Nat → State → State × List Nat
  | 0, s => (s, [])
  | n + 1, s =>
    if s.boostHeld ≤ s.boostCap then (s, [])
    else
      match s.power.newest with
      | [] => (s, [])
      | c :: _ =>
        let (s1, l) := State.withdrawNewest n (s.setGrant c 0)
        (s1, c :: l)

/-- A write of BSTBUD (R419). -/
def State.writeBstbud (s : State) (v : DWord) : State :=
  let s1 : State := { s with power := { s.power with bstbud := v.setWidth 8 } }
  let (s2, l) := s1.withdrawNewest s1.power.newest.length
  (s2.boostArrive fun c => l.contains c && (s2.clk c).req ≠ 0).serveBoost

/-- BSTBUD_WRITE (R419). -/
def execBstbudWrite (val : BitVec 64) (s : State) : Out := s.hostEvent fun s => s.writeBstbud val

/-- A write of PWRQ (R414): with DET the grants of clusters where a team of the queue issues are withdrawn (log 35). -/
def State.writePwrq (s : State) (q : Nat) (v : DWord) : State :=
  let s1 := s.updQueue q fun k => { k with lvlcap := v.setWidth 2, det := bitAt v.toNat 2 }
  ((List.range 16).filter fun c => (s1.clusterTeams c).any fun t => t.queue = q).foldl State.detWithdraw s1

/-- PWRQ_WRITE (R414). -/
def execPwrqWrite (q : Nat) (val : BitVec 64) (s : State) : Out :=
  s.hostEvent fun s => if q < 272 then s.writePwrq q val else s

/-! Permits (R420, R421). -/

/-- What the end of an interval does to a cluster's clock (log 35). -/
def Clk.intervalEnd (k : Clk) : Clk :=
  let k1 : Clk :=
    if k.stepDown then { k with stepDown := false, run := if k.above then 0 else k.run + 1 }.setCmd (52 + k.grant)
    else if k.above then
      if k.permits ≤ 1 then
        { k with permits := 0, run := 0, grant := 0, armed := false, stepDown := true }.setCmd (52 + k.grant / 2)
      else { k with permits := k.permits - 1, run := 0 }
    else { k with run := k.run + 1 }
  let k2 := if k1.run ≠ 0 && k1.run % 4 = 0 then { k1 with permits := min 64 (k1.permits + 1) } else k1
  { k2 with armed := k2.armed || 16 ≤ k2.permits, above := 52 < k2.command }

/-- PERMIT_INTERVAL_END (R420, R425): at the end of the interval of 4 us under way, after a sensor sample of the same instant: the
withdrawals of R418, then the permits, then the grants (log 35). -/
def execPermitIntervalEnd (s : State) : Out :=
  s.event fun s =>
    if s.power.sensorAt = s.power.permitAt then s
    else
      let s0 := s.advanceTo s.power.permitAt
      let s1 : State := { s0 with power := { s0.power with permitAt := s0.power.permitAt + 4000 } }
      let s2 := (List.range 16).foldl (fun (s : State) c => (s.detWithdraw c).updClk c Clk.intervalEnd) s1
      let s3 : State := { s2 with power := { s2.power with newest := s2.power.newest.filter fun c => (s2.clk c).grant ≠ 0 } }
      let rearmed (c : Nat) : Bool := !(s.clk c).armed && (s3.clk c).armed && (s3.clk c).grant < (s3.clk c).req
      ((if s3.power.hot then s3 else s3.boostArrive rearmed)).serveBoost

/-! The budget level (R415, R416). -/

/-- The budget timers and level after 10 us at an estimate (log 35). -/
def Power.budgetTick (p : Power) (w : Nat) : Power :=
  let above := if 1100 < w then p.overT + 10 else 0
  let under := if w < 1000 then p.underT + 10 else 0
  let p1 : Power := { p with overT := above, underT := under }
  let p2 : Power :=
    if 100 ≤ above then { p1 with budget := min 2 (p1.budget + 1), overT := 0 }
    else if 1000 ≤ under then { p1 with budget := p1.budget - 1, underT := 0 }
    else p1
  let two := if p.budget = 2 && p2.budget = 2 then p.twoT + 10 else 0
  { p2 with twoT := two,
            throttle := if w < 1000 then false else p.throttle || (1000 ≤ two && 1100 < w) }

/-- The budget fall lowers the commanded step by one; its end raises it by one, until it holds nothing down (log 35). -/
def Clk.budgetMove (k : Clk) (fall : Bool) : Clk :=
  ({ k with cap := if fall then k.command - 1 else if k.cmd ≤ k.cap + 1 then 66 else k.cap + 1 } : Clk).seen

/-- POWER_ESTIMATE_TICK (R415, R416): at the next estimate's multiple of 10 us, with the estimate in watts. -/
def execPowerEstimateTick (watts : Nat) (s : State) : Out :=
  s.event fun s =>
    let s1 := s.advanceTo s.power.estAt
    let p := { s1.power.budgetTick watts with estAt := s.power.estAt + 10000 }
    (List.range 32).foldl (fun (s : State) d => s.updClk d fun k => k.budgetMove p.throttle) { s1 with power := p }

/-! The thermal ladder (R423, R424). -/

/-- Threshold of trips T1 to T3. -/
def tripAt (n : Nat) : Int := if n = 1 then 95 else if n = 2 then 102 else 110
def Power.trip (p : Power) (n : Nat) : Bool := if n = 1 then p.t1 else if n = 2 then p.t2 else p.t3
def Power.cool (p : Power) (n : Nat) : Nat := if n = 1 then p.cool1 else if n = 2 then p.cool2 else p.cool3
def Power.setTrip (p : Power) (n : Nat) (v : Bool) (cool : Nat) : Power :=
  if n = 1 then { p with t1 := v, cool1 := cool }
  else if n = 2 then { p with t2 := v, cool2 := cool }
  else { p with t3 := v, cool3 := cool }

/-- T2 and T3: every grant is withdrawn and the arbiter's queue emptied (log 35). -/
def State.withdrawAll (s : State) : State :=
  let s1 := (List.range 16).foldl (fun (s : State) c =>
    (if (s.clk c).grant = 0 then s else s.setGrant c 0).updClk c fun k => { k with req := 0 }) s
  { s1 with power := { s1.power with bstq := [] } }

/-- A trip asserts (Table 18-4) (log 35). -/
def State.tripOn (s : State) (n sensor : Nat) (v : Int) : State :=
  let s1 := (s.logRec 0x60 [n, sensor, wrap v 8]).raiseMsix 2046
  if n = 1 then s1
  else
    let s2 := s1.withdrawAll
    if n = 3 then
      let ms := s2.teams.map (·.1)
      ms.foldl State.swapHalted (ms.foldl (fun (s : State) m => s.requestHalt m none) s2)
    else s2

/-- A trip deasserts. -/
def State.tripOff (s : State) (n : Nat) : State :=
  let s1 := s.logRec 0x61 [n]
  if n = 3 then s1.resumeHalted else s1

/-- One trip at a sample.  `prev` holds the readings before. -/
def State.tripSample (rs : List (Nat × Int)) (prev : SMap Int) (s : State) (n : Nat) : State :=
  let thr := tripAt n
  let cool := if rs.all fun r => r.2 ≤ thr - 3 then s.power.cool n + 50 else 0
  if s.power.trip n then
    if 10000 ≤ cool then { s with power := s.power.setTrip n false cool }.tripOff n
    else { s with power := s.power.setTrip n true cool }
  else
    match rs.find? fun r => thr ≤ r.2 && thr ≤ SMap.get 0 prev r.1 with
    | some r => { s with power := s.power.setTrip n true cool }.tripOn n r.1 r.2
    | none => { s with power := s.power.setTrip n false cool }

/-- A stack's refresh rate after a reading of its sensor: x2 from 85 degrees, x4 from 95; each step down 3 below its threshold (19
R439). -/
def Stack.sampled (k : Stack) (v : Int) : Stack :=
  { k with refresh := if 95 ≤ v ∨ (k.refresh = 4 ∧ 92 < v) then 4 else if 85 ≤ v ∨ (k.refresh ≠ 1 ∧ 82 < v) then 2 else 1 }

/-- Every sensor has been read: 0-7 are those of the HBM stacks, 8-11 of the compute dies, 12 of the M die (log 19). -/
def allRead (rs : List (Nat × Int)) : Bool := (List.range 13).all (rs.map (·.1)).contains

/-- SENSOR_SAMPLE (R423): at the next sample's multiple of 50 us, the readings of every sensor; a list that lacks one is no sample (log
19). -/
def execSensorSample (readings : List (Nat × Int)) (s : State) : Out :=
  s.event fun s =>
    if !allRead readings then s
    else
      let s0 := s.advanceTo s.power.sensorAt
      let s1 : State := { s0 with power := { s0.power with sensorAt := s0.power.sensorAt + 50000 } }
      let s2 := [1, 2, 3].foldl (State.tripSample readings s1.power.prev) s1
      { s2 with
        hbm := readings.foldl (fun m r => if r.1 < 8 then SMap.upd {} m r.1 fun k => k.sampled r.2 else m) s2.hbm,
        power := { s2.power with
          prev := readings.foldl (fun m r => SMap.put 0 m r.1 r.2) [],
          tmax := match readings.map (·.2) with
            | [] => s2.power.tmax
            | v :: r => r.foldl max v } }

/-- Power is lost: a record being written may be torn (19 R441) (log 37). -/
def State.losePower (s : State) : State :=
  { s with start := { s.start with powered := false }, free := s.free + 1,
           log := match s.log with
             | [] => []
             | r :: l => { r with tear := r.tear ^^^ Config.tear s.free } :: l }

/-- T4_POWER_REMOVE (R423, R424): the comparator removes module power and latches a flag. -/
def execT4PowerRemove (s : State) : Out :=
  s.event fun s => { s with start := { s.start with t4 := true } }.losePower

end Sys2Proof.Machine
end

