-- ==== Sys2Proof/Machine/EvHost.lean ====
section
/-!
DEFINITION. Sys2Proof/Machine/EvHost.lean: the host and the peers: the registers of BAR0, BAR2 of both ports, the completions of
requests that the device sent, and the links (19 R426-R431).
-/
namespace Sys2Proof.Machine

/-! Registers of BAR0. -/

/-- Bits `lo … lo + n - 1` of a written value, in place. -/
def keepBits (v : DWord) (lo n : Nat) : DWord := BitVec.ofNat 64 (bitsOf v.toNat lo n * 2 ^ lo)

/-- A write of QCFG (03 Table 3-2, R51). -/
def Queue.writeCfg (k : Queue) (v : DWord) : Queue :=
  { k with quant := BitVec.ofNat 16 (bitsOf v.toNat 32 16), weight := BitVec.ofNat 8 (bitsOf v.toNat 24 8),
           cls := BitVec.ofNat 2 (bitsOf v.toNat 20 2), asid := if k.st = .disabled then v.setWidth 12 else k.asid }

/-- A write of QWDT (03 Table 3-3). -/
def Queue.writeWdt (k : Queue) (v : DWord) : Queue :=
  { k with tf := BitVec.ofNat 20 (bitsOf v.toNat 40 20), tk := BitVec.ofNat 20 (bitsOf v.toNat 20 20), tp := v.setWidth 20 }

/-- A write of QCTL (03 Table 3-4, Table 3-5): RESET, else TEARDOWN, else EN (log 11). -/
def State.writeQctl (s : State) (q : Nat) (v : DWord) : State :=
  let x := v.toNat
  if bitAt x 2 then s.tearQueue q true
  else if bitAt x 1 then s.tearQueue q false
  else if bitAt x 0 then s.queueEnable q
  else s.queueDisable q

/-- A write to register `r` of queue q's group (03 R50). -/
def State.writeQueue (s : State) (q r : Nat) (v : DWord) : State :=
  match r with
  | 0 => if (s.queue q).st = .disabled then s.updQueue q fun k => { k with qcba := keepBits v 6 51 } else s
  | 1 => s.updQueue q fun k => k.writeCfg v
  | 2 => s.updQueue q fun k => k.writeWdt v
  | _ => s.writeQctl q v

/-- Every queue is DISABLED (04 R90). -/
def State.allDisabled (s : State) : Bool := s.queues.all fun p => p.2.st = .disabled

/-- The ASID has an open snapshot level (16 R378). -/
def State.levelOpen (s : State) (asid : Nat) : Bool := s.snaps.any fun p => p.1 / 256 = asid && !p.2.levels.isEmpty

def State.updAsid (s : State) (a : Nat) (f : AsidRegs → AsidRegs) : State := { s with asids := SMap.upd {} s.asids a f }

/-- A write to a register of an ASID's snapshot group (16 Tables 16-1 to 16-3). -/
def State.writeSnap (s : State) (asid r : Nat) (v : DWord) : State :=
  if s.levelOpen asid then s
  else if r = 0 then s.updAsid asid fun a => { a with snrtab := keepBits v 12 40 ||| keepBits v 0 1 }
  else if r = 1 then s.updAsid asid fun a => { a with snpbase := keepBits v 12 40 }
  else if r = 2 then s.updAsid asid fun a => { a with snpsize := keepBits v 12 28 }
  else s

/-- A write to half `h` of peer aperture entry n (Table 19-12). -/
def State.writeAperture (s : State) (n h : Nat) (v : DWord) : State :=
  let e := (SMap.get 0 s.host.aper n).toNat
  let lo := if h = 0 then (keepBits v 12 40).toNat else e % 2 ^ 64
  let hi := if h = 0 then e / 2 ^ 64 else (keepBits v 0 56 ||| keepBits v 61 3).toNat
  { s with host := { s.host with aper := SMap.put 0 s.host.aper n (BitVec.ofNat 128 (hi * 2 ^ 64 + lo)) } }

/-- A write to the configuration space of a port (R426, R427, R429, R430).  The standard gives the places of these registers, this spec does
not: the model numbers them from 0x40_0000 on, past BAR0, with port P at the next 8 bytes (log 36): 0 BAR2's size (2^n GiB), 0x10 the
Completion Timeout in ns, 0x20 and 0x30 the AER correctable and uncorrectable status, cleared by ones. -/
def State.writeConfig (s : State) (off : Nat) (v : DWord) : State :=
  let x := v.toNat
  let h := s.host
  let c := v.setWidth 32
  let time : Bool := 50000 ≤ x && x ≤ 10000000
  { s with host :=
    if off = 0 then (if x ≤ 9 then { h with bar2 := 2 ^ (30 + x) } else h)
    else if off = 8 then (if x ≤ 9 then { h with pbar2 := 2 ^ (30 + x) } else h)
    else if off = 0x10 then (if time then { h with ctoH := x } else h)
    else if off = 0x18 then (if time then { h with ctoP := x } else h)
    else if off = 0x20 then { h with corH := h.corH &&& ~~~c }
    else if off = 0x28 then { h with corP := h.corP &&& ~~~c }
    else if off = 0x30 then { h with uncH := h.uncH &&& ~~~c }
    else if off = 0x38 then { h with uncP := h.uncP &&& ~~~c }
    else h }

/-- A write of 8 bytes to a register of BAR0, or of a port's configuration space.  Offsets without a register, and read-only registers, take no write (log 36). -/
def State.writeReg (s : State) (off : Nat) (v : DWord) : State :=
  let within (base size : Nat) : Bool := base ≤ off && off < base + size
  if off % 8 ≠ 0 then s
  else if within 0x190000 0x8000 then
    s.setTicket ((off - 0x190000) / 8) { s.ticket ((off - 0x190000) / 8) with en := bitAt v.toNat 63, asid := v.setWidth 12 }
  else if off = 0x1A0000 then if s.allDisabled then { s with host := { s.host with swpbase := keepBits v 12 40 } } else s
  else if off = 0x1A0008 then if s.allDisabled then { s with host := { s.host with swpsize := keepBits v 12 28 } } else s
  else if within 0x1B0000 0x8000 then
    s.updAsid ((off - 0x1B0000) / 8) fun a => { a with ptroot := keepBits v 12 40 ||| keepBits v 0 1 }
  else if off = 0x1B8000 then { s with host := { s.host with invaddr := keepBits v 12 45 } }
  else if off = 0x1B8008 then s.writeInvctl v
  else if off = 0x1B8010 then { s with host := { s.host with inverr := s.host.inverr && !bitAt v.toNat 1 } }
  else if within 0x1C0000 0x800 then
    s.updCodec ((off - 0x1C0000) / 8) fun c => { c with en := bitAt v.toNat 63, asid := v.setWidth 12 }
  else if within 0x1E0000 (8 * 272) then s.writePwrq ((off - 0x1E0000) / 8) v
  else if off = 0x1E2000 then s.writeBstbud v
  else if off = 0x1F0008 then { s with host := { s.host with winbase := keepBits v 30 9 } }
  else if off = 0x1F0010 then { s with host := { s.host with pwinbase := keepBits v 30 9 } }
  else if within 0x1F1000 0x100 then s.writeAperture ((off - 0x1F1000) / 16) (off / 8 % 2) v
  else if within 0x200000 (32 * 272) then s.writeQueue ((off - 0x200000) / 32) (off / 8 % 4) v
  else if within 0x280000 0x20000 then s.writeSnap ((off - 0x280000) / 32) (off / 8 % 4) v
  else if within 0x3F0000 0x8000 then
    { s with host := { s.host with msixTab := SMap.put 0 s.host.msixTab ((off - 0x3F0000) / 8) v } }
  else if 0x400000 ≤ off then s.writeConfig (off - 0x400000) v
  else s

/-- REGISTER_WRITE (00 R8): a host write to a register of BAR0 (log 36). -/
def execRegisterWrite (off : Nat) (val : BitVec 64) (s : State) : Out := s.hostEvent fun s => s.writeReg off val

/-! What a host read of a register shows. -/

def QStateName.code : QStateName → Nat
  | .disabled => 0 | .active => 1 | .teardown => 2 | .broken => 3

/-- Register `r` of a queue's group (03 Tables 3-2 to 3-4). -/
def Queue.reg (k : Queue) (r : Nat) : DWord :=
  match r with
  | 0 => k.qcba
  | 1 => BitVec.ofNat 64 (k.quant.toNat * 2 ^ 32 + k.weight.toNat * 2 ^ 24 + k.cls.toNat * 2 ^ 20 + k.asid.toNat)
  | 2 => BitVec.ofNat 64 (k.tf.toNat * 2 ^ 40 + k.tk.toNat * 2 ^ 20 + k.tp.toNat)
  | _ => BitVec.ofNat 64 (k.drops.toNat * 2 ^ 32 + k.st.code * 2 ^ 20 + (if k.en then 1 else 0))

/-- CLKSTAT (18 Table 18-3, R413). -/
def Clk.stat (k : Clk) (gather : Bool) : DWord :=
  BitVec.ofNat 64 ((if gather then 0 else (if k.armed then 2 ^ 16 else 0) + k.permits * 2 ^ 8) + k.step)

/-- THSTAT (18 Table 18-5). -/
def Power.thstat (p : Power) : DWord :=
  BitVec.ofNat 64 (wrap p.tmax 8 * 2 ^ 16 + (if p.t3 then 4 else 0) + (if p.t2 then 2 else 0) + (if p.t1 then 1 else 0))

/-- DEVSTAT (Table 19-8). -/
def Start.devstat (x : Start) : DWord :=
  BitVec.ofNat 64 (x.boots.toNat * 2 ^ 32 + x.step * 16 + (if x.warm then 8 else 0) + (if x.heat then 4 else 0) +
    (if x.fail then 2 else 0) + (if x.ready then 1 else 0))

/-- What a read of those registers of the configuration space shows (log 36). -/
def State.readConfig (s : State) (off : Nat) : DWord :=
  let h := s.host
  if off = 0 then BitVec.ofNat 64 (bitLen h.bar2 40 - 31)
  else if off = 8 then BitVec.ofNat 64 (bitLen h.pbar2 40 - 31)
  else if off = 0x10 then BitVec.ofNat 64 h.ctoH
  else if off = 0x18 then BitVec.ofNat 64 h.ctoP
  else if off = 0x20 then h.corH.setWidth 64
  else if off = 0x28 then h.corP.setWidth 64
  else if off = 0x30 then h.uncH.setWidth 64
  else if off = 0x38 then h.uncP.setWidth 64
  else 0

/-- The value of the register at an offset of BAR0; a read of the allocation register is FUTURE_ALLOC_READ (log 36). -/
def State.readReg (s : State) (off : Nat) : DWord :=
  let within (base size : Nat) : Bool := base ≤ off && off < base + size
  if within 0x190000 0x8000 then
    let t := s.ticket ((off - 0x190000) / 8)
    BitVec.ofNat 64 ((if t.en then 2 ^ 63 else 0) + t.asid.toNat)
  else if off = 0x1A0000 then s.host.swpbase
  else if off = 0x1A0008 then s.host.swpsize
  else if within 0x1B0000 0x8000 then (s.asid ((off - 0x1B0000) / 8)).ptroot
  else if off = 0x1B8000 then s.host.invaddr
  else if off = 0x1B8008 then s.host.invctl
  else if off = 0x1B8010 then
    BitVec.ofNat 64 (s.host.invdone.toNat * 2 ^ 16 + (if s.host.inverr then 2 else 0) + (if s.host.inv.isSome then 1 else 0))
  else if within 0x1C0000 0x800 then
    let c := s.codec ((off - 0x1C0000) / 8)
    BitVec.ofNat 64 ((if c.en then 2 ^ 63 else 0) + c.asid.toNat)
  else if within 0x1E0000 (8 * 272) then
    let k := s.queue ((off - 0x1E0000) / 8)
    BitVec.ofNat 64 ((if k.det then 4 else 0) + k.lvlcap.toNat)
  else if off = 0x1E2000 then s.power.bstbud.setWidth 64
  else if off = 0x1E2008 then s.power.thstat
  else if within 0x1E2100 0x100 then (s.clk ((off - 0x1E2100) / 8)).stat (0x1E2180 ≤ off)
  else if off = 0x1F0000 then s.start.devstat
  else if off = 0x1F0008 then s.host.winbase
  else if off = 0x1F0010 then s.host.pwinbase
  else if within 0x1F1000 0x100 then
    BitVec.ofNat 64 ((SMap.get 0 s.host.aper ((off - 0x1F1000) / 16)).toNat / 2 ^ (64 * (off / 8 % 2)))
  else if within 0x200000 (32 * 272) then (s.queue ((off - 0x200000) / 32)).reg (off / 8 % 4)
  else if within 0x280000 0x20000 then
    let a := s.asid ((off - 0x280000) / 32)
    match off / 8 % 4 with
    | 0 => a.snrtab
    | 1 => a.snpbase
    | 2 => a.snpsize
    | _ => 0
  else if within 0x3F0000 0x8100 then SMap.get 0 s.host.msixTab ((off - 0x3F0000) / 8)
  else if 0x400000 ≤ off then s.readConfig (off - 0x400000)
  else 0

/-! BAR2 of port H and port P (R427, R430). -/

/-- A message goes out. -/
def State.emit (s : State) (m : OutMsg) : State := { s with host := { s.host with out := m :: s.host.out } }

/-- A TLP received on a port whose ECRC is wrong is reported and dropped (R426; what becomes of it is the standard's, log 14). -/
def State.received (s : State) (port : Nat) (ecrc : Bool) (f : State → State) : State := if ecrc then f s else s.report port 8

/-- Physical address of an offset in a window: the base's low bits act as zero. -/
def windowPa (base : DWord) (size off : Nat) : Nat := base.toNat / size * size + off

/-- Serve a read from port `p`: bytes beyond HBM are ones; a poisoned granule completes poisoned, with all ones (17 R406). -/
def State.serveRead (s : State) (p pa len : Nat) : State :=
  let n := min len (0x6000000000 - pa)
  if s.hbmMarked pa n then (s.emit (.data (onesBytes len) true)).report p 5
  else s.emit (.data (s.readHbm pa n ++ onesBytes (len - n)) false)

/-- Serve a write: without a snapshot tag; one received poisoned stores nothing and marks the granules (17 R406). -/
def State.serveWrite (s : State) (p pa : Nat) (bs : List Byte) (ep : Bool) : State :=
  let n := min bs.length (0x6000000000 - pa)
  if n = 0 then s
  else if ep then
    ({ s with marks := (unitsOf 64 pa n).foldl (fun m g => setInsert g m) s.marks }).report p 5
  else s.performBytes pa (bs.take n) false

/-- What an AtomicOp stores: 0 FetchAdd, 1 Swap, 2 CAS (Table 19-1) (log 14). -/
def hostAtom (op size old : Nat) (a b : DWord) : Nat :=
  if op = 0 then (old + a.toNat) % 2 ^ (8 * size)
  else if op = 1 then a.toNat % 2 ^ (8 * size)
  else if old = a.toNat % 2 ^ (8 * size) then b.toNat % 2 ^ (8 * size)
  else old

/-- An AtomicOp the completer supports (log 14). -/
def atomOk (pa size op : Nat) : Bool := (size = 4 || size = 8) && op ≤ 2 && pa % size = 0 && pa < 0x6000000000

/-- Serve an AtomicOp at the home slice: the line is recalled first; a poisoned granule is left alone (15 R371, 17 R406) (log 14). -/
def State.serveAtomic (s : State) (p pa size op : Nat) (a b : DWord) : State :=
  let s1 := s.recallLine (pa / 128)
  if s1.hbmMarked pa size then (s1.emit (.data (onesBytes size) true)).report p 5
  else
    let old := ofBytes (s1.readHbm pa size)
    (s1.performBytes pa (toBytes size (hostAtom op size old a b)) false).emit (.data (toBytes size old) false)

/-- HOST_BAR2_READ (R427). -/
def execHostBar2Read (r : Tlp) (len : Nat) (s : State) : Out :=
  s.hostEvent fun s => s.received 0 r.ecrc fun s =>
    if r.off + len ≤ s.host.bar2 then s.serveRead 0 (windowPa s.host.winbase s.host.bar2 r.off) len else s

/-- HOST_BAR2_WRITE (R427). -/
def execHostBar2Write (r : Tlp) (bytes : List (BitVec 8)) (ep : Bool) (s : State) : Out :=
  s.hostEvent fun s => s.received 0 r.ecrc fun s =>
    if r.off + bytes.length ≤ s.host.bar2 then s.serveWrite 0 (windowPa s.host.winbase s.host.bar2 r.off) bytes ep else s

/-- HOST_ATOMICOP (R426) (log 14). -/
def execHostAtomicop (r : Tlp) (size op : Nat) (a b : BitVec 64) (s : State) : Out :=
  s.hostEvent fun s => s.received 0 r.ecrc fun s =>
    let pa := windowPa s.host.winbase s.host.bar2 r.off
    if s.host.bar2 < r.off + size then s
    else if atomOk pa size op then s.serveAtomic 0 pa size op a b
    else s.emit .unsupported

/-- An aperture entry admits a requester's access to a physical range (Table 19-12). -/
def apertureAllows (e : BitVec 128) (rid pa len : Nat) (write : Bool) : Bool :=
  let v := e.toNat
  bitAt v 127 && (if write then bitAt v 126 else bitAt v 125) && bitsOf v 104 16 = rid && bitsOf v 12 40 * 4096 ≤ pa &&
  pa + len ≤ (bitsOf v 64 40 + 1) * 4096

/-- PEER_REQUEST (R430): an access at an offset of port P's BAR2.  Kinds: 0 read, 1 write, 2 FetchAdd, 3 Swap, 4 CAS, 5 write
received poisoned (log 14). -/
def execPeerRequest (rid : Nat) (r : Tlp) (kind len : Nat) (bytes : List (BitVec 8)) (a b : BitVec 64) (s : State) : Out :=
  s.event fun s =>
    let pa := windowPa s.host.pwinbase s.host.pbar2 r.off
    let n := if kind = 1 ∨ kind = 5 then bytes.length else len
    if s.start.step ≠ 6 ∨ !s.host.linkP ∨ 5 < kind ∨ s.host.pbar2 < r.off + n then s
    else if !r.ecrc then s.report 1 8
    else if (List.range 16).any fun i => apertureAllows (SMap.get 0 s.host.aper i) rid pa n (kind ≠ 0) then
      if kind = 0 then s.serveRead 1 pa n
      else if kind = 1 ∨ kind = 5 then s.serveWrite 1 pa bytes (kind = 5)
      else if atomOk pa n (kind - 2) then s.serveAtomic 1 pa n (kind - 2) a b
      else s.emit .unsupported
    else ((if kind = 0 then s.emit .unsupported else s).report 1 1).logRec 0x74 [rid, pa, kind]

/-! Completions of what the device requested (R429). -/

/-- The bytes of a request reach the landing entry that waits for them. -/
def Landing.fill (l : Landing) (id : Nat) (bs : List Byte) (mark : Bool) : Landing :=
  { l with parts := l.parts.map fun p => if p.req = some id then { p with bytes := bs, mark := mark, req := none } else p }

/-- A request completes with data, or with all ones and a poison mark; a flushing read frees the team's posted writes of the
port (15 R368), an atomic writes its register. -/
def State.completeReq (s : State) (q : OutReq) (bs : List Byte) (mark : Bool) : State :=
  let s1 : State := { s with host := { s.host with outReqs := s.host.outReqs.filter fun x => x.id ≠ q.id } }
  let s2 := s1.updTeam q.slot fun t =>
    if q.op = 98 then { t with flushing := t.flushing.filter (· ≠ q.port) }
    else if q.op = 99 then { t with sq := { t.sq with landing := t.sq.landing.map fun l => l.fill q.id bs mark } }
    else
      match q.d with
      | some d => t.loadS d (BitVec.ofNat 64 (ofBytes bs)) mark q.pc
      | none => t
  if q.acq then s2.invalidateKinds q.slot [1] else s2

/-- A request fails: all ones, a poison mark, an AER report and a record of type 0x73 (log 10). -/
def State.failReq (s : State) (q : OutReq) (status : Nat) : State :=
  (s.portFailed q.port q.slot q.addr status).completeReq q (onesBytes q.len) true

/-- OUTBOUND_COMPLETION (R429): request `ix` completes; `status` is the completion's: 0 successful, 1 Unsupported Request, 4
Completer Abort, 5 received poisoned, 8 received with a wrong ECRC: it is dropped, and the request still waits (log 10, 14). -/
def execOutboundCompletion (ix status : Nat) (bytes : List (BitVec 8)) (s : State) : Out :=
  s.event fun s =>
    match s.host.outReqs[ix]? with
    | none => s
    | some q =>
      if !s.linkUp q.port then s
      else if status = 8 then s.report q.port 8
      else if status = 0 then if bytes.length = q.len then s.completeReq q bytes false else s
      else s.failReq q status

/-- A port's Completion Timeout, in ns. -/
def State.timeoutOf (s : State) (port : Nat) : Nat := if port = 0 then s.host.ctoH else s.host.ctoP

/-- COMPLETION_TIMEOUT (R429): the port's Completion Timeout has passed since the request was sent. -/
def execCompletionTimeout (ix : Nat) (s : State) : Out :=
  s.event fun s =>
    match s.host.outReqs[ix]? with
    | none => s
    | some q => if s.time.toNat < q.sent + s.timeoutOf q.port then s else s.failReq q 7

def State.setLink (s : State) (port : Nat) (up : Bool) : State :=
  { s with host := if port = 0 then { s.host with linkH := up } else { s.host with linkP := up } }

/-- The ports' physical range. -/
def onPort (port pa : Nat) : Bool := destOf pa = .port port

/-- LINK_DOWN (R429): outstanding requests complete poisoned, posted writes not yet sent are discarded. -/
def execLinkDown (port : Nat) (s : State) : Out :=
  s.event fun s =>
    if 1 < port then s
    else
      let s1 := s.setLink port false
      let s2 := (s1.host.outReqs.filter (·.port = port)).foldl (fun (s : State) q => s.failReq q 7) s1
      s2.performWrites fun w => onPort port w.pa

/-- AER status of a port: correctable, then uncorrectable, 32 bits each. -/
def State.aerStatus (s : State) (port : Nat) : Nat :=
  if port = 0 then s.host.corH.toNat + 2 ^ 32 * s.host.uncH.toNat else s.host.corP.toNat + 2 ^ 32 * s.host.uncP.toNat

/-- LINK_RETRAIN (R426, R441): the link retrains as x16 or x8, or changes its width; `err` is the correctable error that led to it, by its
AER status bit (log 10). -/
def execLinkRetrain (port width : Nat) (err : Option Nat) (s : State) : Out :=
  s.event fun s =>
    if 1 < port ∨ (width ≠ 8 ∧ width ≠ 16) then s
    else
      let s1 := s.setLink port true
      let s2 : State := { s1 with host := if port = 0 then { s1.host with widthH := width } else { s1.host with widthP := width } }
      let s3 := match err with
        | some b => s2.report port (16 + b % 32)
        | none => s2
      s3.logRec 0x72 [port, width, s3.aerStatus port]

end Sys2Proof.Machine
end

