-- ==== Sys2Proof/Machine/EvSpdm.lean ====
section
/-!
DEFINITION. Sys2Proof/Machine/EvSpdm.lean: the management path: the SPDM responder, the reading of the Vermilion log, and lane
margining (19 R435, R440-R442).  What SPDM 1.2 and the keys fix is free (log 13).
-/
namespace Sys2Proof.Machine

/-- The transport of a request reaches the system controller: `via` below 128 is the 7-bit SMBus address used, 128 is PCIe VDM on port H.
Management is available from step 2 on (R437) (log 1, 13). -/
def State.mgmtReaches (s : State) (via : Nat) : Bool :=
  2 ≤ s.start.step && (via = s.start.cfg.smbus.toNat || (via = 128 && s.hostUp))

/-- The transport over which the next request of the management path comes: the first that stands among the arrivals, and PCIe VDM when
none stands there (log 6). -/
def State.nextVia (s : State) : Nat := s.mgmt.arrivals.headD 128

/-- A request of the management path, by its transport (log 1). -/
def State.mgmtEvent (s : State) (f : Nat → State → State) : Out :=
  s.event fun s =>
    let s1 : State := { s with mgmt := { s.mgmt with arrivals := s.mgmt.arrivals.tail } }
    if s.mgmtReaches s.nextVia then f s.nextVia s1 else s1

/-- The SPDM connection of a transport (log 13). -/
def State.conn (s : State) (via : Nat) : Conn := if via = 128 then s.mgmt.vdm else s.mgmt.smb
def State.updConn (s : State) (via : Nat) (f : Conn → Conn) : State :=
  { s with mgmt := if via = 128 then { s.mgmt with vdm := f s.mgmt.vdm } else { s.mgmt with smb := f s.mgmt.smb } }

/-- An SPDM response with free words (log 13). -/
def State.respond (s : State) (via code : Nat) (known : List Nat) (words : Nat) : State :=
  { s with free := s.free + words }.emit (.spdm via code (known ++ (List.range words).map fun i => Config.spdmWord (s.free + i)))

/-- The ERROR response (log 13). -/
def State.spdmError (s : State) (via : Nat) : State := s.emit (.spdm via 0x7F [])

/-- A request is answered when the connection of its transport has come far enough (log 13). -/
def State.answer (s : State) (ok : Conn → Bool) (f : Nat → State → State) : Out :=
  s.mgmtEvent fun via s => if ok (s.conn via) then f via s else s.spdmError via

/-- GET_VERSION (R435): a new connection, version 1.2. -/
def execGetVersion (s : State) : Out :=
  s.mgmtEvent fun via s => (s.updConn via fun _ => { version := true }).respond via 0x04 [0x12] 0

/-- GET_CAPABILITIES (R435). -/
def execGetCapabilities (s : State) : Out :=
  s.answer (·.version) fun via s => (s.updConn via fun c => { c with caps := true }).respond via 0x61 [] 1

/-- NEGOTIATE_ALGORITHMS (R435): of what is offered, the responder takes its own: 0 ECDSA P-256 with SHA-256, 1 ECDHE P-256,
2 AES-256-GCM. -/
def execNegotiateAlgorithms (offer : List Nat) (s : State) : Out :=
  s.answer (·.caps) fun via s =>
    (s.updConn via fun c => { c with algs := true }).respond via 0x63 ([0, 1, 2].filter offer.contains) 0

/-- GET_DIGESTS (R435): the digest of the chain in slot 0. -/
def execGetDigests (s : State) : Out := s.answer (·.algs) fun via s => s.respond via 0x01 [0, Config.chainDigest.toNat] 0

/-- GET_CERTIFICATE (R435): the chain of slot 0. -/
def execGetCertificate (certSlot : Nat) (s : State) : Out :=
  s.answer (fun c => c.algs && certSlot = 0) fun via s => s.respond via 0x02 [0, Config.certChain] 0

/-- CHALLENGE (R435): signed, with a nonce of the responder's. -/
def execChallenge (nonce : BitVec 256) (s : State) : Out :=
  s.answer (·.algs) fun via s => s.respond via 0x03 [nonce.toNat] 1

/-- The measurement blocks (Table 19-6) (log 13). -/
def State.measured (s : State) (index : Nat) : List Nat :=
  if index = 1 then [Config.romHash.toNat]
  else if index = 2 then [s.start.fwHash.toNat]
  else if index = 3 then [(Config.blockHash s.start.cfg).toNat]
  else [s.start.fwSvn.toNat, s.start.cfg.svn.toNat]

/-- GET_MEASUREMENTS (R435, Table 19-6): index 0 asks for the number of blocks, 255 for all; one free word stands for the nonce and
signature (log 13). -/
def execGetMeasurements (index : Nat) (s : State) : Out :=
  s.answer (fun c => c.algs && (index ≤ 4 || index = 255)) fun via s =>
    if index = 0 then s.respond via 0x60 [4] 0
    else if index = 255 then s.respond via 0x60 ([1, 2, 3, 4].flatMap s.measured) 1
    else s.respond via 0x60 (s.measured index) 1

/-- KEY_EXCHANGE (R435). -/
def execKeyExchange (share : BitVec 512) (s : State) : Out :=
  s.answer (·.algs) fun via s => (s.updConn via fun c => { c with keyed := true }).respond via 0x64 [share.toNat] 2

/-- FINISH (R435): the session is established when the verification data is right (log 13). -/
def execFinish (verify : BitVec 256) (s : State) : Out :=
  s.answer (·.keyed) fun via s =>
    let s1 : State := { s with free := s.free + 1 }
    if Config.spdmVerified verify s.free then (s1.updConn via fun c => { c with keyed := false, session := true }).respond via 0x65 [] 1
    else (s1.updConn via fun c => { c with keyed := false }).spdmError via

/-- END_SESSION (R435). -/
def execEndSession (s : State) : Out :=
  s.answer (·.session) fun via s => (s.updConn via fun c => { c with session := false }).respond via 0x6C [] 0

/-! The Vermilion log (R442). -/

/-- The records that a request returns: from SEQ `start` on, oldest first; records whose CRC does not match are skipped (R441). -/
def State.logFrom (s : State) (start count : Nat) : List LogRec :=
  ((s.log.reverse.filter fun r => start ≤ r.seq).filter (·.intact)).take count

/-- LOG_READ (R442): in a session only, 1 to 16 records, with the newest SEQ. -/
def execLogRead (start count : Nat) (s : State) : Out :=
  s.answer (fun c => c.session && 1 ≤ count && count ≤ 16) fun via s =>
    let rs := s.logFrom start count
    let last := match rs.getLast? with
      | some r => some r.seq
      | none => s.mgmt.lastRead
    { s with mgmt := { s.mgmt with lastRead := last } }.emit (.log via (rs.map LogRec.bytes) (s.logSeq - 1))

/-- RECORDS_SUMMARISED (R441): at the end of a second, the records held back become one of type 0x7F. -/
def execRecordsSummarised (type source count : Nat) (s : State) : Out :=
  s.event fun s =>
    match s.logHeld.find? fun e => e.1 = type && e.2.1 = source && e.2.2.2 = count with
    | none => s
    | some e =>
      ({ s with logHeld := s.logHeld.filter (· ≠ e) }.advanceTo ((e.2.2.1 + 1) * 1000000000)).logWrite 0x7F [type, source, count]

/-! Lane margining (R440). -/

/-- A lane of a port whose link is in L0. -/
def State.laneLive (s : State) (port lane : Nat) : Bool :=
  s.start.step = 6 && port ≤ 1 && s.linkUp port && lane < (if port = 0 then s.host.widthH else s.host.widthP)

/-- Margining can cause a correctable error, which is reported like any other: which
one, or none, is free (log 14). -/
def State.marginError (s : State) (port : Nat) : State :=
  let s1 : State := { s with free := s.free + 1 }
  match Config.marginErr s.free with
  | some b => s1.report port (16 + b % 32)
  | none => s1

/-- MARGINING_REQUEST (R440): the system controller margins one lane at a time. -/
def execMarginingRequest (x : Lane) (s : State) : Out :=
  s.event fun s =>
    if 2 ≤ s.start.step && s.mgmt.margin.isNone && s.laneLive x.port x.lane then
      { s with mgmt := { s.mgmt with margin := some (x.port, x.lane) } }
    else s

/-- MARGINING_DONE (R440): vector 2,044. -/
def execMarginingDone (s : State) : Out :=
  s.event fun s =>
    match s.mgmt.margin with
    | some p => ({ s with mgmt := { s.mgmt with margin := none } }.marginError p.1).raiseMsix 2044
    | none => s

/-- MARGINING_COMMAND (R440): the host margins a lane through the commands of the PCIe standard, which the lane holds; the link stays in L0. -/
def execMarginingCommand (port lane : Nat) (cmd : BitVec 16) (s : State) : Out :=
  s.event fun s =>
    if s.laneLive port lane then
      { s with host := { s.host with lanes := SMap.put 0 s.host.lanes (16 * port + lane) cmd } }.marginError port
    else s

end Sys2Proof.Machine
end

