-- ==== Sys2Proof/Machine/EvStart.lean ====
section
/-!
DEFINITION. Sys2Proof/Machine/EvStart.lean: power, the start sequence and the retraining of HBM (19 R436-R439, R441, 18 R424).
-/
namespace Sys2Proof.Machine

/-! Power (R437, R441). -/

/-- POWER_LOSS (R441) (log 37). -/
def execPowerLoss (s : State) : Out := s.event State.losePower

/-- The device at power good: step 1, with what non-volatile memory keeps; a latched T4 flag is logged (18 R424) (log 37). -/
def State.atPowerGood (s : State) : State :=
  let s1 : State :=
    { State.reset with
        start := { ({} : Start) with boots := s.start.boots + 1, trained := s.start.trained, svn := s.start.svn },
        log := s.log, logSeq := s.logSeq, mgmt := { ({} : Mgmt) with lastRead := s.mgmt.lastRead },
        codecs := SMap.mapVals {} s.codecs fun c => { ({} : Codec) with dec := c.dec }, free := s.free }
  if s.start.t4 then s1.logRec 0x62 [] else s1

/-- POWER_ON_START (R437): power good after power was absent (log 4, 37). -/
def execPowerOnStart (s : State) : Out := if s.start.powered then .next s else .next s.atPowerGood

/-! The steps of Table 19-7. -/

/-- A start that stands in a step and has not failed. -/
def State.inStep (s : State) (n : Nat) : Bool := s.start.step = n && !s.start.fail

/-- The step fails: a record of type 0x70, and the start stays in it (R437).  No rule gives the cause codes. -/
def State.stepFails (s : State) : State :=
  ({ s with start := { s.start with fail := true }, free := s.free + 1 }).logRec 0x70
    [s.start.step, Config.startCause s.free]

def State.updStart (s : State) (f : Start → Start) : State := { s with start := f s.start }

def State.toStep (s : State) (n : Nat) : State := { s with start := { s.start with step := n } }

/-- FIRMWARE_VERIFIED (R436): step 1 ends.  The firmware, by its SVN, its hash and the signature over it, and the configuration block are
accepted when both signatures verify and the block's SVN is at least the highest accepted (log 37, 13). -/
def execFirmwareVerified (fwSvn : BitVec 32) (fw : FwImage) (blk : CfgBlock) (s : State) : Out :=
  s.event fun s =>
    if !s.inStep 1 then s
    else if Config.signed fw.hash fw.sig && Config.signed (Config.blockHash blk) blk.sig && s.start.svn ≤ blk.svn then
      let s1 : State := { s with
        start := { s.start with svn := blk.svn, fwSvn := fwSvn, fwHash := fw.hash, cfg := blk },
        power := { s.power with bstbud := blk.bstbud } }
      s1.toStep 2
    else s.stepFails

/-- Sensors 0-7 are those of the HBM stacks, 8-11 of the compute dies, 12 of the M die (log 19). -/
def isHbm (sensor : Nat) : Bool := sensor < 8
def isDie (sensor : Nat) : Bool := 8 ≤ sensor && sensor < 12

/-- Self-heat's condition (Table 19-7 step 3) (log 19). -/
def tooCold (rs : List (Nat × Int)) : Bool := rs.any fun r => (isHbm r.1 && r.2 < 5) || (isDie r.1 && r.2 < -10)

/-- A start is warm (R437): the trained values hold for the installed stacks and the configuration block, and every HBM sensor differs by
less than 15 degrees from its reading when they were taken (log 19, 37). -/
def warmStart (trained : Option Trained) (stackId : Nat) (blk : CfgBlock) (rs : List (Nat × Int)) : Bool :=
  match trained with
  | none => false
  | some t => t.stackId = stackId && t.block = Config.blockHash blk &&
      (rs.filter fun r => isHbm r.1).all fun r => (r.2 - SMap.get 0 t.temps r.1).natAbs < 15

def tempMap (rs : List (Nat × Int)) : SMap Int := rs.foldl (fun m r => SMap.put 0 m r.1 r.2) []

/-- SENSORS_READ (R437): step 2, with the identity of the installed stacks; it fails when a sensor has not been read (log 19, 37). -/
def execSensorsRead (rd : StackReadings) (s : State) : Out :=
  s.event fun s =>
    if !s.inStep 2 then s
    else if !allRead rd.temps then s.stepFails
    else
      { s with start := { s.start with
          step := 3, temps := tempMap rd.temps, stackId := rd.stackId,
          warm := warmStart s.start.trained rd.stackId s.start.cfg rd.temps, heat := tooCold rd.temps, heatAt := s.time.toNat } }

/-- SELF_HEAT_END (R437): step 3 ends once every sensor has been read and nothing is below its threshold, or fails without
readings; a warm start skips step 4 (log 19). -/
def execSelfHeatEnd (readings : Option (List (Nat × Int))) (s : State) : Out :=
  s.event fun s =>
    if !s.inStep 3 then s
    else
      match readings with
      | none => s.stepFails
      | some rs =>
        if !allRead rs || tooCold rs then s
        else
          { s with start := { s.start with
              step := if s.start.warm then 5 else 4, heat := false, temps := tempMap rs,
              heatMs := if s.start.heat then (s.time.toNat - s.start.heatAt) / 1000000 else 0 } }

/-- HBM_TRAINED (R437): step 4, all pseudo-channels; the trained values are retained with the sensors' readings (log 37). -/
def execHbmTrained (ok : Bool) (s : State) : Out :=
  s.event fun s =>
    if !s.inStep 4 then s
    else if ok then
      { s with
        start := { s.start with step := 5, trained := some { stackId := s.start.stackId, block := Config.blockHash s.start.cfg,
                                                             temps := s.start.temps.filter fun r => isHbm r.1 } },
        hbm := (List.range 8).map fun i =>
          (i, { (SMap.get {} s.hbm i) with last := (List.range 64).map fun c => (c, s.time.toNat, SMap.get 0 s.start.temps i) }) }
    else s.stepFails

/-- PCIE_TRAINED (R437): step 5. -/
def execPcieTrained (ok : Bool) (s : State) : Out :=
  s.event fun s =>
    if !s.inStep 5 then s
    else if ok then { s with host := { s.host with linkH := true, linkP := true } }.toStep 6
    else s.stepFails

/-- The units as step 6 leaves them (R438). -/
def State.startUnits (s : State) : State :=
  { s with teams := [], swapped := [], cores := [], clks := [], futures := [], tickets := [], tasks := [], stamped := [], queues := [],
           sched := {}, snaps := [], slots := [], restWork := [], fabric := [], atomq := [],
           codecs := SMap.mapVals {} s.codecs fun c => { ({} : Codec) with dec := c.dec } }

/-- SCHEDULER_STARTED (R438): step 6 completes. -/
def execSchedulerStarted (ok : Bool) (s : State) : Out :=
  s.event fun s =>
    if !s.inStep 6 || s.start.ready then s
    else if ok then
      (s.startUnits.logRec 0x71 [if s.start.warm then 1 else 0, s.start.heatMs]).updStart fun x => { x with ready := true }
    else s.stepFails

/-- A pseudo-channel is to be retrained: its period, of at most a second, has passed, or its sensor has moved 5 degrees since its last
training (R439) (log 36). -/
def State.retrainDue (s : State) (stack chan : Nat) : Bool :=
  match SMap.get? (SMap.get {} s.hbm stack).last chan with
  | none => true
  | some l => l.1 + min (Config.retrainPeriod stack) 1000000000 ≤ s.time.toNat || 5 ≤ (SMap.get 0 s.power.prev stack - l.2).natAbs

/-- HBM_RETRAIN (R439): a pseudo-channel of a stack that is due retrains, for at most 1.2 us, one at a time per stack.  Requests to it wait
(log 36). -/
def execHbmRetrain (stack chan : Nat) (s : State) : Out :=
  s.event fun s =>
    if 8 ≤ stack ∨ 64 ≤ chan ∨ s.start.step < 5 ∨ s.retraining stack ∨ !s.retrainDue stack chan then s
    else
      { s with hbm := SMap.upd {} s.hbm stack fun k =>
          { k with busy := some (chan, s.time.toNat + 1200), last := SMap.insert k.last chan (s.time.toNat, SMap.get 0 s.power.prev stack) } }

end Sys2Proof.Machine
end

