-- ==== Sys2Proof/Machine/SqAtomic.lean ====
section
/-!
DEFINITION. Sys2Proof/Machine/SqAtomic.lean: atomics and reductions (09 R206-R208, 15 R370-R372).  The word puts the
operation into the write queue of its home slice; `State.applyAtom` applies it.
-/
namespace Sys2Proof.Machine

/-- An order field acts as relaxed on a UO page, as acquire and release on an SO page (15 R362). -/
def orderAct (field : Nat) (kind : Nat) : Bool × Bool :=
  if kind = 0 then (false, false) else if kind = 2 then (true, true) else (field % 2 = 1, 2 ≤ field)

/-- Issue an atomic or reduction on `size` bytes at `ea`. -/
def State.sqAtom (s : State) (n : Nat) (t : Team) (op size ea order scope : Nat) (d : Option (BitVec 6)) (a b : DWord) :
    State :=
  if ea % size ≠ 0 then s.trap n t .sq .align 0 ea 0
  else
    match kttLookup (s.kslot n t) ea .rw with
    | .error f => s.kttTrap n t .sq 8 f
    | .ok e =>
      let pa := e.pa + (ea - e.va)
      let (acq, rel) := orderAct order e.order
      let sc := if e.order = 2 then 3 else scope
      let go (s0 : State) (t1 : Team) : State :=
        -- the SQ's own earlier writes to the line, or to the port, go before it (15 R360, 19 R428)
        let s1 := s0.performWrites fun w => w.slot = some n && w.eng = 0 &&
          (w.pa / 128 = pa / 128 || (destOf w.pa ≠ .hbm && destOf w.pa = destOf pa))
        let num := t1.wIssued + 1
        let done (s2 : State) : State := s2.updTeam n fun t => ({ t with wIssued := num }).step .sq
        match destOf pa with
        | .hbm =>
          done { s1 with atomq := s1.atomq ++ [{
            slot := n, tid := t.tid, tix := t.teamix, pc := t.sq.ctl.pc, seq := 0, asid := t.asid, va := ea, pa := pa, op := op, size := size,
            a := a, b := b, d := d.map (·.toNat), tagged := e.sreg.isSome, acq := acq, scope := sc, num := num }] }
        | .nowhere =>
          (s1.logRec 0x30 [unitNum (coreOfSlot n), pa, pa / 64]).updTeam n fun t =>
            match d with
            | some r => (t.loadS r.toNat (BitVec.allOnes 64) true t.sq.ctl.pc).step .sq
            | none => t.step .sq
        | .port p =>
          if s1.linkUp p then
            let s2 := (s1.l1WriteBack (coreOfSlot n) (pa / 128)).l1Drop (coreOfSlot n) (pa / 128)
            done ((s2.portSend { id := 0, port := p, slot := n, addr := portAddr pa, len := 8, va := ea, d := d.map (·.toNat), op := op,
                                 a := a, b := b, pc := t.sq.ctl.pc, acq := acq && 1 ≤ sc, hold := acq, order := e.order }
                                (.portAtomic p (portAddr pa) op a b)).updTeam n fun t => { t with posted := setInsert p t.posted })
          else (s1.portFailed p n (portAddr pa) 7).updTeam n fun t =>
            match d with
            | some r => (t.loadS r.toNat (BitVec.allOnes 64) true t.sq.ctl.pc).step .sq
            | none => t.step .sq
      if destOf pa ≠ .hbm ∧ op ≠ 0 ∧ op ≠ 1 ∧ op ≠ 16 then
        s.trap n t .sq .kttperm 8 ea (((s.kslot n t).ktt.findIdx? (·.covers ea)).getD 0)
      else if s.atPortFull pa then s
      else if e.order ≠ 0 ∧ s.acqPending n then s
      else if rel then s.release n sc e.order go
      else go s t

/-- ATOM (09 R206). -/
def State.atomWord (s : State) (op : Nat) (d a b : BitVec 6) (o c : BitVec 2) : Out :=
  s.sqWord [a, b] fun n t => s.sqAtom n t op 8 (t.s a).toNat o.toNat c.toNat (some d) (t.s b) (t.s b)

/-- RED (09 R208): `sz` is the low bit of the d field, 0 word and 1 dword; `o` the high bit of the order field. -/
def State.redWord (s : State) (op : Nat) (sz : BitVec 1) (a b : BitVec 6) (o : BitVec 1) (c : BitVec 2) : Out :=
  s.sqWord [a, b] fun n t =>
    s.sqAtom n t op (if sz = 1 then 8 else 4) (t.s a).toNat (2 * o.toNat) c.toNat none 0 (t.s b)

/-- ATOM.SWAP (09 R206). -/
def execAtomSwap (d a b : BitVec 6) (o c : BitVec 2) (s : State) : Out := s.atomWord 0 d a b o c
/-- ATOM.ADD (09 R206). -/
def execAtomAdd (d a b : BitVec 6) (o c : BitVec 2) (s : State) : Out := s.atomWord 1 d a b o c
/-- ATOM.AND (09 R206). -/
def execAtomAnd (d a b : BitVec 6) (o c : BitVec 2) (s : State) : Out := s.atomWord 2 d a b o c
/-- ATOM.OR (09 R206). -/
def execAtomOr (d a b : BitVec 6) (o c : BitVec 2) (s : State) : Out := s.atomWord 3 d a b o c
/-- ATOM.XOR (09 R206). -/
def execAtomXor (d a b : BitVec 6) (o c : BitVec 2) (s : State) : Out := s.atomWord 4 d a b o c
/-- ATOM.MIN (09 R206). -/
def execAtomMin (d a b : BitVec 6) (o c : BitVec 2) (s : State) : Out := s.atomWord 5 d a b o c
/-- ATOM.MAX (09 R206). -/
def execAtomMax (d a b : BitVec 6) (o c : BitVec 2) (s : State) : Out := s.atomWord 6 d a b o c
/-- ATOM.MINU (09 R206). -/
def execAtomMinu (d a b : BitVec 6) (o c : BitVec 2) (s : State) : Out := s.atomWord 7 d a b o c
/-- ATOM.MAXU (09 R206). -/
def execAtomMaxu (d a b : BitVec 6) (o c : BitVec 2) (s : State) : Out := s.atomWord 8 d a b o c

/-- CAS (09 R207): d holds the expected value and receives the old one. -/
def execCas (d a b : BitVec 6) (o c : BitVec 2) (s : State) : Out :=
  s.sqWord [d, a, b] fun n t => s.sqAtom n t 16 8 (t.s a).toNat o.toNat c.toNat (some d) (t.s d) (t.s b)

/-- RED.ADD (09 R208). -/
def execRedAdd (z : BitVec 1) (a b : BitVec 6) (o : BitVec 1) (c : BitVec 2) (s : State) : Out := s.redWord 32 z a b o c
/-- RED.AND (09 R208). -/
def execRedAnd (z : BitVec 1) (a b : BitVec 6) (o : BitVec 1) (c : BitVec 2) (s : State) : Out := s.redWord 33 z a b o c
/-- RED.OR (09 R208). -/
def execRedOr (z : BitVec 1) (a b : BitVec 6) (o : BitVec 1) (c : BitVec 2) (s : State) : Out := s.redWord 34 z a b o c
/-- RED.XOR (09 R208). -/
def execRedXor (z : BitVec 1) (a b : BitVec 6) (o : BitVec 1) (c : BitVec 2) (s : State) : Out := s.redWord 35 z a b o c
/-- RED.MIN (09 R208). -/
def execRedMin (z : BitVec 1) (a b : BitVec 6) (o : BitVec 1) (c : BitVec 2) (s : State) : Out := s.redWord 36 z a b o c
/-- RED.MAX (09 R208). -/
def execRedMax (z : BitVec 1) (a b : BitVec 6) (o : BitVec 1) (c : BitVec 2) (s : State) : Out := s.redWord 37 z a b o c
/-- RED.MINU (09 R208). -/
def execRedMinu (z : BitVec 1) (a b : BitVec 6) (o : BitVec 1) (c : BitVec 2) (s : State) : Out := s.redWord 38 z a b o c
/-- RED.MAXU (09 R208). -/
def execRedMaxu (z : BitVec 1) (a b : BitVec 6) (o : BitVec 1) (c : BitVec 2) (s : State) : Out := s.redWord 39 z a b o c
/-- RED.FADD32 (09 R208, 08 R188). -/
def execRedFadd32 (a b : BitVec 6) (o : BitVec 1) (c : BitVec 2) (s : State) : Out := s.redWord 40 0 a b o c
/-- RED.FADD64 (09 R208, 08 R188). -/
def execRedFadd64 (a b : BitVec 6) (o : BitVec 1) (c : BitVec 2) (s : State) : Out := s.redWord 41 1 a b o c

end Sys2Proof.Machine
end

