-- ==== Sys2Proof/Machine/SqInt.lean ====
section
/-!
DEFINITION. Sys2Proof/Machine/SqInt.lean: the integer words of the sequencer (09 R191-R194), one meaning each over the
shared `State.sqStep`: read the sources, write d, move to the next word.
-/
namespace Sys2Proof.Machine

/-- Shift counts are s[b][5:0] (09 R191). -/
def shiftOf (b : DWord) : Nat := bitsOf b.toNat 0 6

/-- 1 for true, 0 for false. -/
def bool64 (b : Bool) : DWord := if b then 1 else 0

/-- ADD (09 R191, Table 9-1). -/
def execAdd (d a b : BitVec 6) (s : State) : Out := s.sqStep [a, b] fun t => t.setS d (t.s a + t.s b)

/-- SUB (09 R191, Table 9-1). -/
def execSub (d a b : BitVec 6) (s : State) : Out := s.sqStep [a, b] fun t => t.setS d (t.s a - t.s b)

/-- AND (09 R191, Table 9-1). -/
def execAnd (d a b : BitVec 6) (s : State) : Out := s.sqStep [a, b] fun t => t.setS d (t.s a &&& t.s b)

/-- OR (09 R191, Table 9-1). -/
def execOr (d a b : BitVec 6) (s : State) : Out := s.sqStep [a, b] fun t => t.setS d (t.s a ||| t.s b)

/-- XOR (09 R191, Table 9-1). -/
def execXor (d a b : BitVec 6) (s : State) : Out := s.sqStep [a, b] fun t => t.setS d (t.s a ^^^ t.s b)

/-- SHL (09 R191, Table 9-1). -/
def execShl (d a b : BitVec 6) (s : State) : Out := s.sqStep [a, b] fun t => t.setS d (t.s a <<< shiftOf (t.s b))

/-- SHR (09 R191, Table 9-1). -/
def execShr (d a b : BitVec 6) (s : State) : Out := s.sqStep [a, b] fun t => t.setS d (t.s a >>> shiftOf (t.s b))

/-- SAR (09 R191, Table 9-1). -/
def execSar (d a b : BitVec 6) (s : State) : Out := s.sqStep [a, b] fun t => t.setS d ((t.s a).sshiftRight (shiftOf (t.s b)))

/-- SLT (09 R191, Table 9-1). -/
def execSlt (d a b : BitVec 6) (s : State) : Out := s.sqStep [a, b] fun t => t.setS d (bool64 ((t.s a).slt (t.s b)))

/-- SLTU (09 R191, Table 9-1). -/
def execSltu (d a b : BitVec 6) (s : State) : Out := s.sqStep [a, b] fun t => t.setS d (bool64 ((t.s a).ult (t.s b)))

/-- MIN (09 R191, Table 9-1). -/
def execMin (d a b : BitVec 6) (s : State) : Out := s.sqStep [a, b] fun t => t.setS d (if (t.s a).slt (t.s b) then t.s a else t.s b)

/-- MAX (09 R191, Table 9-1). -/
def execMax (d a b : BitVec 6) (s : State) : Out := s.sqStep [a, b] fun t => t.setS d (if (t.s a).slt (t.s b) then t.s b else t.s a)

/-- MINU (09 R191, Table 9-1). -/
def execMinu (d a b : BitVec 6) (s : State) : Out := s.sqStep [a, b] fun t => t.setS d (if (t.s a).ult (t.s b) then t.s a else t.s b)

/-- MAXU (09 R191, Table 9-1). -/
def execMaxu (d a b : BitVec 6) (s : State) : Out := s.sqStep [a, b] fun t => t.setS d (if (t.s a).ult (t.s b) then t.s b else t.s a)

/-- ANDN (09 R191, Table 9-1). -/
def execAndn (d a b : BitVec 6) (s : State) : Out := s.sqStep [a, b] fun t => t.setS d (t.s a &&& ~~~(t.s b))

/-- MUL (09 R191, Table 9-1). -/
def execMul (d a b : BitVec 6) (s : State) : Out := s.sqStep [a, b] fun t => t.setS d (t.s a * t.s b)

/-- MULH (09 R191, Table 9-1). -/
def execMulh (d a b : BitVec 6) (s : State) : Out := s.sqStep [a, b] fun t => t.setS d (BitVec.ofInt 64 ((t.s a).toInt * (t.s b).toInt / 2 ^ 64))

/-- MULHU (09 R191, Table 9-1). -/
def execMulhu (d a b : BitVec 6) (s : State) : Out := s.sqStep [a, b] fun t => t.setS d (BitVec.ofNat 64 ((t.s a).toNat * (t.s b).toNat / 2 ^ 64))

/-- DIV (09 R191, Table 9-1). -/
def execDiv (d a b : BitVec 6) (s : State) : Out := s.sqStep [a, b] fun t => t.setS d (BitVec.ofInt 64 (intDivide (t.s a).toInt (t.s b).toInt 64 true).1)

/-- DIVU (09 R191, Table 9-1). -/
def execDivu (d a b : BitVec 6) (s : State) : Out := s.sqStep [a, b] fun t => t.setS d (BitVec.ofInt 64 (intDivide (t.s a).toNat (t.s b).toNat 64 false).1)

/-- REM (09 R191, Table 9-1). -/
def execRem (d a b : BitVec 6) (s : State) : Out := s.sqStep [a, b] fun t => t.setS d (BitVec.ofInt 64 (intDivide (t.s a).toInt (t.s b).toInt 64 true).2)

/-- REMU (09 R191, Table 9-1). -/
def execRemu (d a b : BitVec 6) (s : State) : Out := s.sqStep [a, b] fun t => t.setS d (BitVec.ofInt 64 (intDivide (t.s a).toNat (t.s b).toNat 64 false).2)

/-- CMOV: reads d as a third source (09 Table 9-1). -/
def execCmov (d a b : BitVec 6) (s : State) : Out :=
  s.sqStep [a, b, d] fun t => t.setS d (if t.s a ≠ 0 then t.s b else t.s d)

/-- CLZ (09 R191, Table 9-1). -/
def execClz (d a : BitVec 6) (s : State) : Out := s.sqStep [a] fun t => t.setS d (BitVec.ofNat 64 (64 - bitLen (t.s a).toNat 64))

/-- CTZ (09 R191, Table 9-1). -/
def execCtz (d a : BitVec 6) (s : State) : Out := s.sqStep [a] fun t => t.setS d (BitVec.ofNat 64 (trailZeros (t.s a).toNat 64))

/-- POPC (09 R191, Table 9-1). -/
def execPopc (d a : BitVec 6) (s : State) : Out := s.sqStep [a] fun t => t.setS d (BitVec.ofNat 64 (popCount (t.s a).toNat 64))

/-- Low bit and width of the field that s[b] describes, cut at bit 64 (09 R192). -/
def fieldOf (b : DWord) : Nat × Nat :=
  let lo := bitsOf b.toNat 0 6
  (lo, min (bitsOf b.toNat 6 6 + 1) (64 - lo))

/-- BFX (09 R192). -/
def execBfx (d a b : BitVec 6) (s : State) : Out :=
  s.sqStep [a, b] fun t =>
    t.setS d (BitVec.ofNat 64 (bitsOf (t.s a).toNat (fieldOf (t.s b)).1 (fieldOf (t.s b)).2))

/-- BFXS (09 R192). -/
def execBfxs (d a b : BitVec 6) (s : State) : Out :=
  s.sqStep [a, b] fun t =>
    t.setS d (BitVec.ofInt 64 (signExt (bitsOf (t.s a).toNat (fieldOf (t.s b)).1 (fieldOf (t.s b)).2) (fieldOf (t.s b)).2))

/-- BFI: reads d (09 R192). -/
def execBfi (d a b : BitVec 6) (s : State) : Out :=
  s.sqStep [a, b, d] fun t =>
    t.setS d (BitVec.ofNat 64 (setBits (t.s d).toNat (fieldOf (t.s b)).1 (fieldOf (t.s b)).2 (t.s a).toNat))

/-- ADDI (09 R193). -/
def execAddi (d a : BitVec 6) (i : BitVec 14) (s : State) : Out := s.sqStep [a] fun t => t.setS d (t.s a + i.signExtend 64)

/-- ANDI (09 R193). -/
def execAndi (d a : BitVec 6) (i : BitVec 14) (s : State) : Out := s.sqStep [a] fun t => t.setS d (t.s a &&& i.signExtend 64)

/-- ORI (09 R193). -/
def execOri (d a : BitVec 6) (i : BitVec 14) (s : State) : Out := s.sqStep [a] fun t => t.setS d (t.s a ||| i.signExtend 64)

/-- XORI (09 R193). -/
def execXori (d a : BitVec 6) (i : BitVec 14) (s : State) : Out := s.sqStep [a] fun t => t.setS d (t.s a ^^^ i.signExtend 64)

/-- SLTI (09 R193). -/
def execSlti (d a : BitVec 6) (i : BitVec 14) (s : State) : Out := s.sqStep [a] fun t => t.setS d (bool64 ((t.s a).slt (i.signExtend 64)))

/-- SLTUI (09 R193). -/
def execSltui (d a : BitVec 6) (i : BitVec 14) (s : State) : Out := s.sqStep [a] fun t => t.setS d (bool64 ((t.s a).ult (i.signExtend 64)))

/-- SHLI (09 R193). -/
def execShli (d a n : BitVec 6) (s : State) : Out := s.sqStep [a] fun t => t.setS d (t.s a <<< n.toNat)

/-- SHRI (09 R193). -/
def execShri (d a n : BitVec 6) (s : State) : Out := s.sqStep [a] fun t => t.setS d (t.s a >>> n.toNat)

/-- SARI (09 R193). -/
def execSari (d a n : BitVec 6) (s : State) : Out := s.sqStep [a] fun t => t.setS d ((t.s a).sshiftRight n.toNat)

/-- LUI (09 R194). -/
def execLui (d : BitVec 6) (i : BitVec 20) (s : State) : Out :=
  s.sqStep [] fun t => t.setS d (i.signExtend 64 <<< 14)

/-- Virtual address of word `n` of the SQ section (09 R194). -/
def Team.sqWordAddr (t : Team) (n : Nat) : Nat := t.k.code + (t.k.sect.getD 0 (0, 0)).1 + 4 * n

/-- AUIPC (09 R194). -/
def execAuipc (d : BitVec 6) (i : BitVec 20) (s : State) : Out :=
  s.sqStep [] fun t => t.setS d (BitVec.ofNat 64 (t.sqWordAddr t.sq.ctl.pc) + (i.signExtend 64 <<< 14))

end Sys2Proof.Machine
end

