-- ==== Sys2Proof/Machine/VeKx.lean ====
section
/-!
DEFINITION. Sys2Proof/Machine/VeKx.lean: k and x register words of the vector engine (10 R248, Table 10-5).
-/
namespace Sys2Proof.Machine

/-- A word that reads k registers and writes one. -/
def State.kOp (s : State) (srcs : List (BitVec 4)) (d : BitVec 4) (shape : Team → Bool) (f : Team → DWord) : Out :=
  s.veWord (fun t => { ks := srcs, shape := shape t }) fun n t _ => s.setTeam n ((t.setK d (f t)).step .ve)

/-- KLI. -/
def execKli (k : BitVec 4) (i : BitVec 20) (s : State) : Out := s.kOp [] k anyShape fun _ => i.signExtend 64
/-- KADD. -/
def execKadd (d a b : BitVec 4) (s : State) : Out := s.kOp [a, b] d anyShape fun t => t.kreg a + t.kreg b
/-- KMUL. -/
def execKmul (d a b : BitVec 4) (s : State) : Out := s.kOp [a, b] d anyShape fun t => t.kreg a * t.kreg b
/-- KFADD: floating shapes only. -/
def execKfadd (d a b : BitVec 4) (s : State) : Out :=
  s.kOp [a, b] d Team.isFlt fun t =>
    BitVec.ofNat 64 (t.arith2 (· + ·) (Fl.add t.vround) ((t.kreg a).toNat % 2 ^ t.vw) ((t.kreg b).toNat % 2 ^ t.vw))

/-- KGET: sign-extended for I types. -/
def execKget (d : BitVec 4) (a : BitVec 8) (b : BitVec 4) (s : State) : Out :=
  s.veWord (fun _ => { srcs := [⟨a, 1⟩], ks := [b] }) fun n t vs =>
    match vs with
    | [[x]] =>
      let i := (t.kreg b).toNat
      let e := (elemsOf t.vw x).getD i 0
      let v : DWord := match typeInt t.vtype with
        | some ty => BitVec.ofInt 64 (ty.val e)
        | none => BitVec.ofNat 64 e
      s.setTeam n (((t.advanceChunks [⟨a, 1⟩]).setK d v).step .ve)
    | _ => s

/-- VINS: every element is written; the destination is read. -/
def execVins (d : BitVec 8) (a b : BitVec 4) (s : State) : Out :=
  s.veVec (fun _ => { dst := some ⟨d, 1⟩, readsDst := true, ks := [a, b] }) Team.vw true fun t _ =>
    vals ((t.oldElems ⟨d, 1⟩ t.vw).zipIdx.map fun p =>
      if p.2 = (t.kreg b).toNat then (t.kreg a).toNat % 2 ^ t.vw else p.1)

/-- KMFS (09 R216, 07 R155). -/
def execKmfs (k : BitVec 4) (r : BitVec 10) (s : State) : Out :=
  s.onTeam fun n t =>
    match s.special n t r.toNat with
    | none => s.illop n t .ve
    | some v => s.setTeam n ((t.setK k v).step .ve)

/-- XSET of an x register. -/
def execXsetXreg (d a : BitVec 4) (s : State) : Out :=
  s.veWord (fun _ => { ks := [a] }) fun n t _ => s.setTeam n ((t.setX d ((t.kreg a).setWidth 23)).step .ve)
/-- XADDI. -/
def execXaddi (x : BitVec 4) (i : BitVec 20) (s : State) : Out :=
  s.veWord (fun _ => { xs := [x] }) fun n t _ => s.setTeam n ((t.setX x (t.x x + i.signExtend 23)).step .ve)

end Sys2Proof.Machine
end

