-- ==== Sys2Proof/Machine/VeMask.lean ====
section
/-!
DEFINITION. Sys2Proof/Machine/VeMask.lean: compares, selects and mask words of the vector engine (10 R241, R242).
-/
namespace Sys2Proof.Machine

/-- A condition of Table 7-8 on two integer values. -/
def condInt (c : Nat) (x y : Int) : Bool :=
  match c with
  | 0 => x = y | 1 => x ≠ y | 2 => x < y | 3 => x ≤ y | 4 => y < x | 5 => y ≤ x | _ => false

/-- A condition of Table 7-8 on two floating values: false for a NaN operand, but for NE and UN (08 R174). -/
def condFlt (c : Nat) (x y : Fl) : Bool :=
  let un := x.isNaN || y.isNaN
  match c with
  | 0 => x.eq y | 1 => !(x.eq y) | 2 => !un && x.lt y | 3 => !un && !(y.lt x) | 4 => !un && y.lt x
  | 5 => !un && !(x.lt y) | 6 => un | _ => !un

def Team.cond (t : Team) (c : Nat) (x y : Nat) : Bool :=
  match typeFlt t.vtype, typeInt t.vtype with
  | some f, _ => condFlt c (f.decode x) (f.decode y)
  | none, some ty => condInt c (ty.val x) (ty.val y)
  | none, none => false

/-- A mask from a list of bits, bit 0 first. -/
def packBits (l : List Bool) : BitVec 1024 := BitVec.ofNat 1024 (l.foldr (fun b acc => (if b then 1 else 0) + 2 * acc) 0)

/-- VCMP (R241): inactive bits are kept, bits n and above cleared; UN and OR take floating shapes. -/
def execVcmp (c : BitVec 4) (m : BitVec 3) (a b : BitVec 8) (s : State) : Out :=
  s.veWord (fun t => { srcs := [⟨a, 1⟩, ⟨b, 1⟩], shape := t.isFlt || c.toNat < 6, ms := [t.vmaskReg, m] }) fun n t vs =>
    match vs with
    | [[x], [y]] =>
      let old := t.m m
      let bits := ((elemsOf t.vw x).zip (elemsOf t.vw y)).zipIdx.map fun p =>
        if t.active p.2 then t.cond c.toNat p.1.1 p.1.2 else old.getLsbD p.2
      s.setTeam n (((t.advanceChunks [⟨a, 1⟩, ⟨b, 1⟩]).setM m (packBits bits)).step .ve)
    | _ => s

/-- VSEL (R242): every element is written. -/
def execVsel (d a b : BitVec 8) (s : State) : Out :=
  s.veVec (fun t => { srcs := [⟨a, 1⟩, ⟨b, 1⟩], dst := some ⟨d, 1⟩, ms := [t.vmaskReg] }) Team.vw true fun t vs =>
    match vs with
    | [[x], [y]] => vals (((elemsOf t.vw x).zip (elemsOf t.vw y)).zipIdx.map fun p => if t.active p.2 then p.1.1 else p.1.2)
    | _ => []

/-- A mask word over all 1,024 bits. -/
def State.maskWord (s : State) (srcs : List (BitVec 3)) (d : BitVec 3) (f : Team → BitVec 1024) : Out :=
  s.veWord (fun _ => { ms := srcs }) fun n t _ => s.setTeam n ((t.setM d (f t)).step .ve)

/-- MAND (R242). -/
def execMand (d a b : BitVec 3) (s : State) : Out := s.maskWord [a, b] d fun t => t.m a &&& t.m b
/-- MOR (R242). -/
def execMor (d a b : BitVec 3) (s : State) : Out := s.maskWord [a, b] d fun t => t.m a ||| t.m b
/-- MXOR (R242). -/
def execMxor (d a b : BitVec 3) (s : State) : Out := s.maskWord [a, b] d fun t => t.m a ^^^ t.m b
/-- MNOT (R242). -/
def execMnot (d a : BitVec 3) (s : State) : Out := s.maskWord [a] d fun t => ~~~(t.m a)

/-- Bits 0 to n - 1 of a mask. -/
def Team.maskLow (t : Team) (a : BitVec 3) : Nat := (t.m a).toNat % 2 ^ t.vn

/-- MPOPC (R242). -/
def execMpopc (d : BitVec 4) (a : BitVec 3) (s : State) : Out :=
  s.veWord (fun _ => { ms := [a] }) fun n t _ =>
    s.setTeam n ((t.setK d (BitVec.ofNat 64 (popCount (t.maskLow a) 1024))).step .ve)
/-- MFIRST (R242). -/
def execMfirst (d : BitVec 4) (a : BitVec 3) (s : State) : Out :=
  s.veWord (fun _ => { ms := [a] }) fun n t _ =>
    s.setTeam n ((t.setK d (BitVec.ofNat 64 (min (trailZeros (t.maskLow a) 1024) t.vn))).step .ve)

end Sys2Proof.Machine
end

