-- ==== Sys2Proof/Machine/VeReduce.lean ====
section
/-!
DEFINITION. Sys2Proof/Machine/VeReduce.lean: reductions and scans of the vector engine (10 R246, 08 R186, R187).
-/
namespace Sys2Proof.Machine

/-- A reduction or scan: every element is written. -/
def State.redWord1 (s : State) (d a : BitVec 8) (f : Team → List Nat → List Nat) : Out :=
  s.veVec (fun t => { srcs := [⟨a, 1⟩], dst := some ⟨d, 1⟩, ms := [t.vmaskReg] }) Team.vw true fun t vs =>
    match vs with
    | [[x]] => vals (f t (elemsOf t.vw x))
    | _ => []

/-- A single result in element 0, zero elsewhere. -/
def Team.single (t : Team) (r : Nat) : List Nat := r :: List.replicate (t.vn - 1) 0

/-- The elements, with an identity in place of the inactive ones. -/
def Team.masked (t : Team) (ident : Nat) (l : List Nat) : List Nat :=
  l.zipIdx.map fun p => if t.active p.2 then p.1 else ident

/-- The identity of a floating addition (R187): -0, or +0 under RDN. -/
def addIdent (f : FFmt) (md : RMode) : Nat := if md = .rdn then 0 else 2 ^ (f.w - 1)

/-- VRSUM (R246). -/
def execVrsum (d a : BitVec 8) (s : State) : Out :=
  s.redWord1 d a fun t l =>
    match typeFlt t.vtype, typeInt t.vtype with
    | some f, _ => t.single (treeSum f t.vround 12 (t.masked (addIdent f t.vround) l))
    | none, some ty => t.single (wrap (((t.masked 0 l).map ty.val).foldl (· + ·) 0) ty.w)
    | none, none => []

/-- VRMAX and VRMIN: the extreme of the active elements; with none, the type's other extreme. -/
def Team.extreme (t : Team) (mx : Bool) (l : List Nat) : List Nat :=
  match typeFlt t.vtype, typeInt t.vtype with
  | some f, _ =>
    t.single (f.round .rne ((t.masked (f.infPat mx) l).foldl (fun acc x =>
      if mx then Fl.max acc (f.decode x) else Fl.min acc (f.decode x)) (.inf mx)))
  | none, some ty =>
    let ident := if mx then ty.lo else ty.hi
    t.single (wrap (((t.masked (wrap ident ty.w) l).map ty.val).foldl (fun acc x => if mx then max acc x else min acc x) ident)
      ty.w)
  | none, none => []

/-- VRMAX (R246). -/
def execVrmax (d a : BitVec 8) (s : State) : Out := s.redWord1 d a fun t => t.extreme true
/-- VRMIN (R246). -/
def execVrmin (d a : BitVec 8) (s : State) : Out := s.redWord1 d a fun t => t.extreme false

/-- The left-to-right chain of Table 8-6 (log 31). -/
def chain (f : Nat → Nat → Nat) : Nat → List Nat → List Nat
  | _, [] => []
  | acc, x :: r => f acc x :: chain f (f acc x) r

/-- VSCAN (R246): a NaN it produces is canonical (08 R170). -/
def execVscan (d a : BitVec 8) (s : State) : Out :=
  s.redWord1 d a fun t l =>
    match typeFlt t.vtype, typeInt t.vtype with
    | some f, _ =>
      (match t.masked (addIdent f t.vround) l with
       | [] => []
       | x :: r =>
         let x0 := f.round t.vround (f.decode x)
         x0 :: chain (fun acc y => f.round t.vround (Fl.add t.vround (f.decode acc) (f.decode y))) x0 r)
    | none, some ty => chain (fun acc y => (acc + y) % 2 ^ ty.w) 0 (t.masked 0 l)
    | none, none => []

end Sys2Proof.Machine
end

