-- ==== Sys2Proof/Machine/VeSpecial.lean ====
section
/-!
DEFINITION. Sys2Proof/Machine/VeSpecial.lean: VRCP, VRSQ, VEXP2 and VLOG2 (10 R240), by their stated procedures in exact integer
arithmetic.  The tables that need logarithms or roots of 2 are written out; they are the values of the stated formulas.
-/
namespace Sys2Proof.Machine

/-- TR[j] = RoundRNE(2^32 / (257 + 2j)). -/
def tableTR (j : Nat) : Nat := roundMag .rne false (2 ^ 32) (257 + 2 * j)

/-- RoundRNE of the square root of n / d. -/
def rootRne (n d : Nat) : Nat :=
  let r := isqrt (n / d) (Nat.log2 (n / d) / 2 + 1) 0
  -- compare n / d with (r + 1/2)^2
  if (2 * r + 1) * (2 * r + 1) * d < 4 * n then r + 1
  else if (2 * r + 1) * (2 * r + 1) * d = 4 * n then r + r % 2 else r

/-- TQ[p][j] = RoundRNE(2^24 / sqrt(2^p (1 + (j + 0.5) / 64))). -/
def tableTQ (p j : Nat) : Nat := rootRne (2 ^ 55) (2 ^ p * (129 + 2 * j))

/-- TE[j] = RoundRNE(2^30 × 2^(j / 64)). -/
def tableTE : List Nat :=
   [1073741824, 1085434106, 1097253708, 1109202018, 1121280436, 1133490379, 1145833280, 1158310587] ++
   [1170923762, 1183674286, 1196563654, 1209593378, 1222764986, 1236080024, 1249540052, 1263146652] ++
   [1276901417, 1290805962, 1304861917, 1319070932, 1333434672, 1347954824, 1362633090, 1377471191] ++
   [1392470869, 1407633882, 1422962010, 1438457051, 1454120821, 1469955159, 1485961921, 1502142985] ++
   [1518500250, 1535035634, 1551751076, 1568648537, 1585730000, 1602997467, 1620452965, 1638098541] ++
   [1655936265, 1673968228, 1692196547, 1710623359, 1729250827, 1748081133, 1767116489, 1786359126] ++
   [1805811301, 1825475297, 1845353420, 1865448001, 1885761398, 1906295993, 1927054196, 1948038440] ++
   [1969251188, 1990694927, 2012372174, 2034285470, 2056437387, 2078830522, 2101467502, 2124350982]

/-- TL[j] = RoundRNE(2^30 × log2(1 + j / 64)). -/
def tableTL : List Nat :=
   [0, 24017256, 47667823, 70962728, 93912511, 116527248, 138816582, 160789745] ++
   [182455581, 203822568, 224898839, 245692198, 266210141, 286459867, 306448299, 326182095] ++
   [345667660, 364911162, 383918542, 402695523, 421247625, 439580170, 457698295, 475606957] ++
   [493310944, 510814882, 528123241, 545240343, 562170370, 578917365, 595485245, 611877800] ++
   [628098702, 644151509, 660039669, 675766525, 691335320, 706749198, 722011213, 737124328] ++
   [752091421, 766915285, 781598637, 796144114, 810554283, 824831638, 838978604, 852997541] ++
   [866890747, 880660455, 894308843, 907838029, 921250079, 934547002, 947730758, 960803257] ++
   [973766362, 986621888, 999371606, 1012017244, 1024560487, 1037002979, 1049346328, 1061592099]

/-- TI[j] = RoundRNE(2^30 / (1 + j / 64)). -/
def tableTI (j : Nat) : Nat := roundMag .rne false (2 ^ 36) (64 + j)

/-- Split of R240: M and e with |x| = M × 2^(e - 23). -/
def splitFl (n d : Nat) : Nat × Int :=
  let e := floorLog2 n d
  let k := 23 - e
  (if 0 ≤ k then n * 2 ^ k.toNat / d else n / (d * 2 ^ (-k).toNat), e)

/-- The exact value `(-1)^neg × m × 2^e`. -/
def flPow (neg : Bool) (m : Nat) (e : Int) : Fl :=
  if 0 ≤ e then .fin neg (m * 2 ^ e.toNat) 1 else .fin neg m (2 ^ (-e).toNat)

/-- One refinement of VRCP. -/
def rcpStep (m : Int) (r : Int) : Int := r + r * (2 ^ 47 - m * r) / 2 ^ 47

/-- VRCP of R240. -/
def flRcp : Fl → Fl
  | .nan => .nan
  | .inf g => .fin g 0 1
  | .fin g n d =>
    if n = 0 then .inf g
    else
      let (m, e) := splitFl n d
      let r := rcpStep m (rcpStep m (tableTR ((m - 2 ^ 23) / 2 ^ 16)))
      flPow g r.toNat (-24 - e)

/-- One refinement of VRSQ. -/
def rsqStep (m : Int) (r : Int) : Int := r + r * (2 ^ 71 - m * r * r) / 2 ^ 72

/-- VRSQ of R240. -/
def flRsq : Fl → Fl
  | .nan => .nan
  | .inf g => if g then .nan else .fin false 0 1
  | .fin g n d =>
    if n = 0 then .inf g
    else if g then .nan
    else
      let (m, e) := splitFl n d
      let p := (e % 2).toNat
      let r := rsqStep (m * 2 ^ p : Nat) (rsqStep (m * 2 ^ p : Nat) (tableTQ p ((m - 2 ^ 23) / 2 ^ 17)))
      flPow false r.toNat (-24 - (e - p) / 2)

/-- c1, c2 and c3 of R240. -/
def expC1 : Int := 744261118
def expC2 : Int := 257941248
def expC3 : Int := 59597083

/-- VEXP2 of R240. -/
def flExp2 : Fl → Fl
  | .nan => .nan
  | .inf g => if g then .fin false 0 1 else .inf false
  | .fin g n d =>
    let v : Int := if g then -(n : Int) else n
    if 128 * (d : Int) ≤ v then .inf false
    else if v < -150 * (d : Int) then .fin false 0 1
    else
      let m := v / (d : Int)
      let f := ((v - m * d) * 2 ^ 30 / (d : Int)).toNat
      let gg : Int := (f % 2 ^ 24 : Nat)
      let p := expC2 + expC3 * gg / 2 ^ 30
      let p1 := expC1 + p * gg / 2 ^ 30
      let p2 := 2 ^ 30 + p1 * gg / 2 ^ 30
      let y := ((tableTE.getD (f / 2 ^ 24) 0 : Nat) : Int) * p2 / 2 ^ 30
      flPow false y.toNat (m - 30)

/-- d1 to d4 of R240. -/
def logD1 : Int := 1549082005
def logD2 : Int := -774541002
def logD3 : Int := 516360668
def logD4 : Int := -387270501

/-- VLOG2 of R240. -/
def flLog2 : Fl → Fl
  | .nan => .nan
  | .inf g => if g then .nan else .inf false
  | .fin g n d =>
    if n = 0 then .inf true
    else if g then .nan
    else
      let (m, e) := splitFl n d
      let j := (m - 2 ^ 23) / 2 ^ 17
      let u : Int := ((m * tableTI j / 2 ^ 23 : Nat) : Int) - 2 ^ 30
      let q := logD3 + logD4 * u / 2 ^ 30
      let q1 := logD2 + q * u / 2 ^ 30
      let q2 := logD1 + q1 * u / 2 ^ 30
      let z := e * 2 ^ 30 + (tableTL.getD j 0 : Nat) + q2 * u / 2 ^ 30
      flPow (z < 0) z.natAbs (-30)

/-- A special function: floating shapes only, rounded RNE whatever VSHAPE.ROUND. -/
def State.veFn (s : State) (d a : BitVec 8) (f : Fl → Fl) : Out :=
  s.ve1 d a Team.isFlt fun t x =>
    match typeFlt t.vtype with
    | some ty => ty.round .rne (f (ty.decode x))
    | none => 0

/-- VRCP (R240). -/
def execVrcp (d a : BitVec 8) (s : State) : Out := s.veFn d a flRcp
/-- VRSQ (R240). -/
def execVrsq (d a : BitVec 8) (s : State) : Out := s.veFn d a flRsq
/-- VEXP2 (R240). -/
def execVexp2 (d a : BitVec 8) (s : State) : Out := s.veFn d a flExp2
/-- VLOG2 (R240). -/
def execVlog2 (d a : BitVec 8) (s : State) : Out := s.veFn d a flLog2

end Sys2Proof.Machine
end

