-- ==== Sys2Proof/Machine/Dispatch.lean ====
section
/-!
DEFINITION. Sys2Proof/Machine/Dispatch.lean: the meaning of every instruction word and every device operation.
-/
namespace Sys2Proof.Machine

def exec (i : Instr) (s : State) : Host.Outcome State Fault Refusal :=
  match i with
  | .add d a b => Sys2Proof.Machine.execAdd d a b s
  | .sub d a b => Sys2Proof.Machine.execSub d a b s
  | .and d a b => Sys2Proof.Machine.execAnd d a b s
  | .or d a b => Sys2Proof.Machine.execOr d a b s
  | .xor d a b => Sys2Proof.Machine.execXor d a b s
  | .shl d a b => Sys2Proof.Machine.execShl d a b s
  | .shr d a b => Sys2Proof.Machine.execShr d a b s
  | .sar d a b => Sys2Proof.Machine.execSar d a b s
  | .slt d a b => Sys2Proof.Machine.execSlt d a b s
  | .sltu d a b => Sys2Proof.Machine.execSltu d a b s
  | .min d a b => Sys2Proof.Machine.execMin d a b s
  | .max d a b => Sys2Proof.Machine.execMax d a b s
  | .minu d a b => Sys2Proof.Machine.execMinu d a b s
  | .maxu d a b => Sys2Proof.Machine.execMaxu d a b s
  | .cmov d a b => Sys2Proof.Machine.execCmov d a b s
  | .andn d a b => Sys2Proof.Machine.execAndn d a b s
  | .mul d a b => Sys2Proof.Machine.execMul d a b s
  | .mulh d a b => Sys2Proof.Machine.execMulh d a b s
  | .mulhu d a b => Sys2Proof.Machine.execMulhu d a b s
  | .div d a b => Sys2Proof.Machine.execDiv d a b s
  | .divu d a b => Sys2Proof.Machine.execDivu d a b s
  | .rem d a b => Sys2Proof.Machine.execRem d a b s
  | .remu d a b => Sys2Proof.Machine.execRemu d a b s
  | .clz d a => Sys2Proof.Machine.execClz d a s
  | .ctz d a => Sys2Proof.Machine.execCtz d a s
  | .popc d a => Sys2Proof.Machine.execPopc d a s
  | .bfx d a b => Sys2Proof.Machine.execBfx d a b s
  | .bfxs d a b => Sys2Proof.Machine.execBfxs d a b s
  | .bfi d a b => Sys2Proof.Machine.execBfi d a b s
  | .addi d a imm => Sys2Proof.Machine.execAddi d a imm s
  | .andi d a imm => Sys2Proof.Machine.execAndi d a imm s
  | .ori d a imm => Sys2Proof.Machine.execOri d a imm s
  | .xori d a imm => Sys2Proof.Machine.execXori d a imm s
  | .slti d a imm => Sys2Proof.Machine.execSlti d a imm s
  | .sltui d a imm => Sys2Proof.Machine.execSltui d a imm s
  | .shli d a n => Sys2Proof.Machine.execShli d a n s
  | .shri d a n => Sys2Proof.Machine.execShri d a n s
  | .sari d a n => Sys2Proof.Machine.execSari d a n s
  | .lui d imm => Sys2Proof.Machine.execLui d imm s
  | .auipc d imm => Sys2Proof.Machine.execAuipc d imm s
  | .beq a b o => Sys2Proof.Machine.execBeq a b o s
  | .bne a b o => Sys2Proof.Machine.execBne a b o s
  | .blt a b o => Sys2Proof.Machine.execBlt a b o s
  | .bge a b o => Sys2Proof.Machine.execBge a b o s
  | .bltu a b o => Sys2Proof.Machine.execBltu a b o s
  | .bgeu a b o => Sys2Proof.Machine.execBgeu a b o s
  | .j o => Sys2Proof.Machine.execJ o s
  | .jal o => Sys2Proof.Machine.execJal o s
  | .jalr d a imm => Sys2Proof.Machine.execJalr d a imm s
  | .loop a l => Sys2Proof.Machine.execLoop a l s
  | .ldb d b r p => Sys2Proof.Machine.execLdb d b r p s
  | .ldbu d b r p => Sys2Proof.Machine.execLdbu d b r p s
  | .ldh d b r p => Sys2Proof.Machine.execLdh d b r p s
  | .ldhu d b r p => Sys2Proof.Machine.execLdhu d b r p s
  | .ldw d b r p => Sys2Proof.Machine.execLdw d b r p s
  | .ldwu d b r p => Sys2Proof.Machine.execLdwu d b r p s
  | .ldd d b r p => Sys2Proof.Machine.execLdd d b r p s
  | .stb d b p => Sys2Proof.Machine.execStb d b p s
  | .sth d b p => Sys2Proof.Machine.execSth d b p s
  | .stw d b p => Sys2Proof.Machine.execStw d b p s
  | .std d b p => Sys2Proof.Machine.execStd d b p s
  | .lds d a z o => Sys2Proof.Machine.execLds d a z o s
  | .sts d a z o => Sys2Proof.Machine.execSts d a z o s
  | .ldp d a w o => Sys2Proof.Machine.execLdp d a w o s
  | .atomSwap d a b o c => Sys2Proof.Machine.execAtomSwap d a b o c s
  | .atomAdd d a b o c => Sys2Proof.Machine.execAtomAdd d a b o c s
  | .atomAnd d a b o c => Sys2Proof.Machine.execAtomAnd d a b o c s
  | .atomOr d a b o c => Sys2Proof.Machine.execAtomOr d a b o c s
  | .atomXor d a b o c => Sys2Proof.Machine.execAtomXor d a b o c s
  | .atomMin d a b o c => Sys2Proof.Machine.execAtomMin d a b o c s
  | .atomMax d a b o c => Sys2Proof.Machine.execAtomMax d a b o c s
  | .atomMinu d a b o c => Sys2Proof.Machine.execAtomMinu d a b o c s
  | .atomMaxu d a b o c => Sys2Proof.Machine.execAtomMaxu d a b o c s
  | .cas d a b o c => Sys2Proof.Machine.execCas d a b o c s
  | .redAdd sc a b o c => Sys2Proof.Machine.execRedAdd sc a b o c s
  | .redAnd sc a b o c => Sys2Proof.Machine.execRedAnd sc a b o c s
  | .redOr sc a b o c => Sys2Proof.Machine.execRedOr sc a b o c s
  | .redXor sc a b o c => Sys2Proof.Machine.execRedXor sc a b o c s
  | .redMin sc a b o c => Sys2Proof.Machine.execRedMin sc a b o c s
  | .redMax sc a b o c => Sys2Proof.Machine.execRedMax sc a b o c s
  | .redMinu sc a b o c => Sys2Proof.Machine.execRedMinu sc a b o c s
  | .redMaxu sc a b o c => Sys2Proof.Machine.execRedMaxu sc a b o c s
  | .redFadd32 a b o c => Sys2Proof.Machine.execRedFadd32 a b o c s
  | .redFadd64 a b o c => Sys2Proof.Machine.execRedFadd64 a b o c s
  | .lda d a u z c => Sys2Proof.Machine.execLda d a u z c s
  | .stl d a z c => Sys2Proof.Machine.execStl d a z c s
  | .fenceAcq c => Sys2Proof.Machine.execFenceAcq c s
  | .fenceRel c => Sys2Proof.Machine.execFenceRel c s
  | .ldblk f a n => Sys2Proof.Machine.execLdblk f a n s
  | .blkwait f => Sys2Proof.Machine.execBlkwait f s
  | .blkfree f => Sys2Proof.Machine.execBlkfree f s
  | .chwf n c => Sys2Proof.Machine.execChwf n c s
  | .chwe n c => Sys2Proof.Machine.execChwe n c s
  | .chap n c => Sys2Proof.Machine.execChap n c s
  | .chac n c => Sys2Proof.Machine.execChac n c s
  | .chst d c => Sys2Proof.Machine.execChst d c s
  | .binit b => Sys2Proof.Machine.execBinit b s
  | .barr b => Sys2Proof.Machine.execBarr b s
  | .bexp a b => Sys2Proof.Machine.execBexp a b s
  | .bwait a b => Sys2Proof.Machine.execBwait a b s
  | .estart m => Sys2Proof.Machine.execEstart m s
  | .ewait m => Sys2Proof.Machine.execEwait m s
  | .estop m => Sys2Proof.Machine.execEstop m s
  | .mfs d n => Sys2Proof.Machine.execMfs d n s
  | .mts a n => Sys2Proof.Machine.execMts a n s
  | .swpt n => Sys2Proof.Machine.execSwpt n s
  | .falloc d => Sys2Proof.Machine.execFalloc d s
  | .fresResolve d a b => Sys2Proof.Machine.execFresResolve d a b s
  | .fresFail d a b => Sys2Proof.Machine.execFresFail d a b s
  | .fresCancel d a => Sys2Proof.Machine.execFresCancel d a s
  | .fresFree d a => Sys2Proof.Machine.execFresFree d a s
  | .fresReset d a => Sys2Proof.Machine.execFresReset d a s
  | .fwait d a => Sys2Proof.Machine.execFwait d a s
  | .fpoll d a => Sys2Proof.Machine.execFpoll d a s
  | .tktake d a => Sys2Proof.Machine.execTktake d a s
  | .tkwait a b => Sys2Proof.Machine.execTkwait a b s
  | .tkserve a => Sys2Proof.Machine.execTkserve a s
  | .qenq d a b => Sys2Proof.Machine.execQenq d a b s
  | .qdeq d a b => Sys2Proof.Machine.execQdeq d a b s
  | .tsub d a b => Sys2Proof.Machine.execTsub d a b s
  | .snap d a b => Sys2Proof.Machine.execSnap d a b s
  | .sresv d a b => Sys2Proof.Machine.execSresv d a b s
  | .sacc a => Sys2Proof.Machine.execSacc a s
  | .srej a => Sys2Proof.Machine.execSrej a s
  | .sqry d a => Sys2Proof.Machine.execSqry d a s
  | .ldv d a b => Sys2Proof.Machine.execLdv d a b s
  | .tdcls d a => Sys2Proof.Machine.execTdcls d a s
  | .tdscan a n => Sys2Proof.Machine.execTdscan a n s
  | .cwb a n => Sys2Proof.Machine.execCwb a n s
  | .cinv a n => Sys2Proof.Machine.execCinv a n s
  | .cwbi a n => Sys2Proof.Machine.execCwbi a n s
  | .trap n => Sys2Proof.Machine.execTrap n s
  | .brk n => Sys2Proof.Machine.execBrk n s
  | .vsetsh p r m t => Sys2Proof.Machine.execVsetsh p r m t s
  | .vchmap p j c => Sys2Proof.Machine.execVchmap p j c s
  | .vsetpat k sc w o => Sys2Proof.Machine.execVsetpat k sc w o s
  | .vsetpatHdr f p => Sys2Proof.Machine.execVsetpatHdr f p s
  | .vloop k l => Sys2Proof.Machine.execVloop k l s
  | .vjmp o => Sys2Proof.Machine.execVjmp o s
  | .vswpt n => Sys2Proof.Machine.execVswpt n s
  | .vadvc c => Sys2Proof.Machine.execVadvc c s
  | .vadvp c => Sys2Proof.Machine.execVadvp c s
  | .vwaitb k b => Sys2Proof.Machine.execVwaitb k b s
  | .vadd d a b => Sys2Proof.Machine.execVadd d a b s
  | .vsub d a b => Sys2Proof.Machine.execVsub d a b s
  | .vmul d a b => Sys2Proof.Machine.execVmul d a b s
  | .vmulh d a b => Sys2Proof.Machine.execVmulh d a b s
  | .vfma d a b => Sys2Proof.Machine.execVfma d a b s
  | .vfms d a b => Sys2Proof.Machine.execVfms d a b s
  | .vmin d a b => Sys2Proof.Machine.execVmin d a b s
  | .vmax d a b => Sys2Proof.Machine.execVmax d a b s
  | .vabs d a => Sys2Proof.Machine.execVabs d a s
  | .vneg d a => Sys2Proof.Machine.execVneg d a s
  | .vadds d a b => Sys2Proof.Machine.execVadds d a b s
  | .vsubs d a b => Sys2Proof.Machine.execVsubs d a b s
  | .vavg d a b => Sys2Proof.Machine.execVavg d a b s
  | .vabd d a b => Sys2Proof.Machine.execVabd d a b s
  | .vand d a b => Sys2Proof.Machine.execVand d a b s
  | .vor d a b => Sys2Proof.Machine.execVor d a b s
  | .vxor d a b => Sys2Proof.Machine.execVxor d a b s
  | .vnot d a => Sys2Proof.Machine.execVnot d a s
  | .vshl d a b => Sys2Proof.Machine.execVshl d a b s
  | .vshr d a b => Sys2Proof.Machine.execVshr d a b s
  | .vsar d a b => Sys2Proof.Machine.execVsar d a b s
  | .vshli d a n => Sys2Proof.Machine.execVshli d a n s
  | .vshri d a n => Sys2Proof.Machine.execVshri d a n s
  | .vsari d a n => Sys2Proof.Machine.execVsari d a n s
  | .vclz d a => Sys2Proof.Machine.execVclz d a s
  | .vpopc d a => Sys2Proof.Machine.execVpopc d a s
  | .vdiv d a b => Sys2Proof.Machine.execVdiv d a b s
  | .vsqrt d a => Sys2Proof.Machine.execVsqrt d a s
  | .vrcp d a => Sys2Proof.Machine.execVrcp d a s
  | .vrsq d a => Sys2Proof.Machine.execVrsq d a s
  | .vexp2 d a => Sys2Proof.Machine.execVexp2 d a s
  | .vlog2 d a => Sys2Proof.Machine.execVlog2 d a s
  | .vclass d a => Sys2Proof.Machine.execVclass d a s
  | .vcmp c m a b => Sys2Proof.Machine.execVcmp c m a b s
  | .vsel d a b => Sys2Proof.Machine.execVsel d a b s
  | .mand d a b => Sys2Proof.Machine.execMand d a b s
  | .mor d a b => Sys2Proof.Machine.execMor d a b s
  | .mxor d a b => Sys2Proof.Machine.execMxor d a b s
  | .mnot d a => Sys2Proof.Machine.execMnot d a s
  | .mpopc d a => Sys2Proof.Machine.execMpopc d a s
  | .mfirst d a => Sys2Proof.Machine.execMfirst d a s
  | .vcvt d a t => Sys2Proof.Machine.execVcvt d a t s
  | .vwiden d a t => Sys2Proof.Machine.execVwiden d a t s
  | .vnarrow d a t => Sys2Proof.Machine.execVnarrow d a t s
  | .vquant d a b => Sys2Proof.Machine.execVquant d a b s
  | .vdeq d a b => Sys2Proof.Machine.execVdeq d a b s
  | .vrsum d a => Sys2Proof.Machine.execVrsum d a s
  | .vrmax d a => Sys2Proof.Machine.execVrmax d a s
  | .vrmin d a => Sys2Proof.Machine.execVrmin d a s
  | .vscan d a => Sys2Proof.Machine.execVscan d a s
  | .vperm d a b => Sys2Proof.Machine.execVperm d a b s
  | .vslide d a sc => Sys2Proof.Machine.execVslide d a sc s
  | .vbcast d a k => Sys2Proof.Machine.execVbcast d a k s
  | .vcomp d a => Sys2Proof.Machine.execVcomp d a s
  | .vexpd d a => Sys2Proof.Machine.execVexpd d a s
  | .kli k imm => Sys2Proof.Machine.execKli k imm s
  | .kadd d a b => Sys2Proof.Machine.execKadd d a b s
  | .kmul d a b => Sys2Proof.Machine.execKmul d a b s
  | .kfadd d a b => Sys2Proof.Machine.execKfadd d a b s
  | .kget d a b => Sys2Proof.Machine.execKget d a b s
  | .vins d a b => Sys2Proof.Machine.execVins d a b s
  | .kmfs k n => Sys2Proof.Machine.execKmfs k n s
  | .xsetXreg d a => Sys2Proof.Machine.execXsetXreg d a s
  | .xaddi x imm => Sys2Proof.Machine.execXaddi x imm s
  | .vld d x o => Sys2Proof.Machine.execVld d x o s
  | .vst d x o => Sys2Proof.Machine.execVst d x o s
  | .vlds d x k o => Sys2Proof.Machine.execVlds d x k o s
  | .vsts d x k o => Sys2Proof.Machine.execVsts d x k o s
  | .vldx d x a => Sys2Proof.Machine.execVldx d x a s
  | .vstx d x a => Sys2Proof.Machine.execVstx d x a s
  | .vldp d x o => Sys2Proof.Machine.execVldp d x o s
  | .vldb d x o => Sys2Proof.Machine.execVldb d x o s
  | .nset f v => Sys2Proof.Machine.execNset f v s
  | .nseth f v => Sys2Proof.Machine.execNseth f v s
  | .nld a => Sys2Proof.Machine.execNld a s
  | .mgo o c d => Sys2Proof.Machine.execMgo o c d s
  | .mwait n => Sys2Proof.Machine.execMwait n s
  | .mloop c l => Sys2Proof.Machine.execMloop c l s
  | .mjmp o => Sys2Proof.Machine.execMjmp o s
  | .mswpt n => Sys2Proof.Machine.execMswpt n s
  | .mwaitb b p t => Sys2Proof.Machine.execMwaitb b p t s
  | .xld a => Sys2Proof.Machine.execXld a s
  | .xset f p v => Sys2Proof.Machine.execXset f p v s
  | .xgo o d => Sys2Proof.Machine.execXgo o d s
  | .xwait n => Sys2Proof.Machine.execXwait n s
  | .xmc o d => Sys2Proof.Machine.execXmc o d s
  | .xconv o d => Sys2Proof.Machine.execXconv o d s
  | .xdec o d => Sys2Proof.Machine.execXdec o d s
  | .xgath o d => Sys2Proof.Machine.execXgath o d s
  | .xscat o d => Sys2Proof.Machine.execXscat o d s
  | .xloop c l => Sys2Proof.Machine.execXloop c l s
  | .xjmp o => Sys2Proof.Machine.execXjmp o s
  | .xswpt n => Sys2Proof.Machine.execXswpt n s
  | .xwaitb b p t => Sys2Proof.Machine.execXwaitb b p t s
  | .xpushr o d => Sys2Proof.Machine.execXpushr o d s
  | .lpop o e d => Sys2Proof.Machine.execLpop o e d s
  | .lpeek o e d => Sys2Proof.Machine.execLpeek o e d s
  | .gfetch o e d => Sys2Proof.Machine.execGfetch o e d s
  | .gshift o e d => Sys2Proof.Machine.execGshift o e d s
  | .gpool o e d => Sys2Proof.Machine.execGpool o e d s
  | .gdone o => Sys2Proof.Machine.execGdone o s
  | .fenceFullT => Sys2Proof.Machine.execFenceFullT s
  | .fenceFullC => Sys2Proof.Machine.execFenceFullC s
  | .fenceFullD => Sys2Proof.Machine.execFenceFullD s
  | .fenceFullS => Sys2Proof.Machine.execFenceFullS s
  | .yield => Sys2Proof.Machine.execYield s
  | .pstart => Sys2Proof.Machine.execPstart s
  | .pwait => Sys2Proof.Machine.execPwait s
  | .exit => Sys2Proof.Machine.execExit s
  | .exitErr => Sys2Proof.Machine.execExitErr s
  | .eret => Sys2Proof.Machine.execEret s
  | .vend => Sys2Proof.Machine.execVend s
  | .mend => Sys2Proof.Machine.execMend s
  | .mclr0 => Sys2Proof.Machine.execMclr0 s
  | .mclr1 => Sys2Proof.Machine.execMclr1 s
  | .mclrBoth => Sys2Proof.Machine.execMclrBoth s
  | .mdrain => Sys2Proof.Machine.execMdrain s
  | .xend => Sys2Proof.Machine.execXend s
  | .switchPointJump slot => Sys2Proof.Machine.execSwitchPointJump slot s
  | .registerWrite off val => Sys2Proof.Machine.execRegisterWrite off val s
  | .queueEnable q => Sys2Proof.Machine.execQueueEnable q s
  | .queueDisable q => Sys2Proof.Machine.execQueueDisable q s
  | .queueTeardown q => Sys2Proof.Machine.execQueueTeardown q s
  | .queueReset q => Sys2Proof.Machine.execQueueReset q s
  | .teardownFinish q => Sys2Proof.Machine.execTeardownFinish q s
  | .futureAllocRead asid => Sys2Proof.Machine.execFutureAllocRead asid s
  | .queueWake q => Sys2Proof.Machine.execQueueWake q s
  | .recordAdmit q => Sys2Proof.Machine.execRecordAdmit q s
  | .taskFutureResolve tid => Sys2Proof.Machine.execTaskFutureResolve tid s
  | .taskFutureFail tid => Sys2Proof.Machine.execTaskFutureFail tid s
  | .taskFutureCancel tid => Sys2Proof.Machine.execTaskFutureCancel tid s
  | .taskFutureFree tid => Sys2Proof.Machine.execTaskFutureFree tid s
  | .taskFutureReset tid => Sys2Proof.Machine.execTaskFutureReset tid s
  | .taskTicketServe tid => Sys2Proof.Machine.execTaskTicketServe tid s
  | .taskTicketInit tid => Sys2Proof.Machine.execTaskTicketInit tid s
  | .teamPlace tid ix places evict => Sys2Proof.Machine.execTeamPlace tid ix places evict s
  | .kernelSlotLoaded core ks => Sys2Proof.Machine.execKernelSlotLoaded core ks s
  | .bankClearDone slot => Sys2Proof.Machine.execBankClearDone slot s
  | .swapOutDone slot => Sys2Proof.Machine.execSwapOutDone slot s
  | .swapInDone slot => Sys2Proof.Machine.execSwapInDone slot s
  | .occupancyTick => Sys2Proof.Machine.execOccupancyTick s
  | .classStarved cls => Sys2Proof.Machine.execClassStarved cls s
  | .quantumExpiry core => Sys2Proof.Machine.execQuantumExpiry core s
  | .switchComplete core => Sys2Proof.Machine.execSwitchComplete core s
  | .meSwitchDone core => Sys2Proof.Machine.execMeSwitchDone core s
  | .preemptRequest slot => Sys2Proof.Machine.execPreemptRequest slot s
  | .teamHalted slot => Sys2Proof.Machine.execTeamHalted slot s
  | .watchdogPreempt tid => Sys2Proof.Machine.execWatchdogPreempt tid s
  | .watchdogForceKill tid => Sys2Proof.Machine.execWatchdogForceKill tid s
  | .watchdogFence tid f => Sys2Proof.Machine.execWatchdogFence tid f s
  | .fenceReturn unit => Sys2Proof.Machine.execFenceReturn unit s
  | .taskRetire tid => Sys2Proof.Machine.execTaskRetire tid s
  | .decodeJob w eng => Sys2Proof.Machine.execDecodeJob w eng s
  | .cmuJob w => Sys2Proof.Machine.execCmuJob w s
  | .listJob w => Sys2Proof.Machine.execListJob w s
  | .copyJob w eng => Sys2Proof.Machine.execCopyJob w eng s
  | .collectiveJob w eng => Sys2Proof.Machine.execCollectiveJob w eng s
  | .collectiveStagePass tid => Sys2Proof.Machine.execCollectiveStagePass tid s
  | .collectiveTimeout tid => Sys2Proof.Machine.execCollectiveTimeout tid s
  | .tlbMissProbe stop asid va => Sys2Proof.Machine.execTlbMissProbe stop asid va s
  | .pageWalk stop walker asid va => Sys2Proof.Machine.execPageWalk stop walker asid va s
  | .invalidateGo val => Sys2Proof.Machine.execInvalidateGo val s
  | .invalidateAck => Sys2Proof.Machine.execInvalidateAck s
  | .loadDataArrival slot ix => Sys2Proof.Machine.execLoadDataArrival slot ix s
  | .timedLanding slot ix => Sys2Proof.Machine.execTimedLanding slot ix s
  | .lateLandingFreeze slot => Sys2Proof.Machine.execLateLandingFreeze slot s
  | .completionDeadline slot eng => Sys2Proof.Machine.execCompletionDeadline slot eng s
  | .tuJobComplete slot w => Sys2Proof.Machine.execTuJobComplete slot w s
  | .pushClaim slot eng => Sys2Proof.Machine.execPushClaim slot eng s
  | .windowLanding cluster => Sys2Proof.Machine.execWindowLanding cluster s
  | .nestValidated slot => Sys2Proof.Machine.execNestValidated slot s
  | .meBLoadDone slot => Sys2Proof.Machine.execMeBLoadDone slot s
  | .mePassDone slot => Sys2Proof.Machine.execMePassDone slot s
  | .meBoundaryDone slot => Sys2Proof.Machine.execMeBoundaryDone slot s
  | .meDrainDone slot => Sys2Proof.Machine.execMeDrainDone slot s
  | .nestComplete slot => Sys2Proof.Machine.execNestComplete slot s
  | .mclrClear slot => Sys2Proof.Machine.execMclrClear slot s
  | .mdrainClear slot => Sys2Proof.Machine.execMdrainClear slot s
  | .loadBlockFilled slot flag => Sys2Proof.Machine.execLoadBlockFilled slot flag s
  | .writeDrainDone slot => Sys2Proof.Machine.execWriteDrainDone slot s
  | .taggedWrite c => Sys2Proof.Machine.execTaggedWrite c s
  | .restorerWorkDone => Sys2Proof.Machine.execRestorerWorkDone s
  | .lineRecall ix => Sys2Proof.Machine.execLineRecall ix s
  | .atomicApply ix => Sys2Proof.Machine.execAtomicApply ix s
  | .patrolScrub slot dtile bad => Sys2Proof.Machine.execPatrolScrub slot dtile bad s
  | .uncorrectableError store unit addr => Sys2Proof.Machine.execUncorrectableError store unit addr s
  | .correctedError unit => Sys2Proof.Machine.execCorrectedError unit s
  | .faultHalt slot => Sys2Proof.Machine.execFaultHalt slot s
  | .handlerEntry slot => Sys2Proof.Machine.execHandlerEntry slot s
  | .asyncFault slot => Sys2Proof.Machine.execAsyncFault slot s
  | .clusterGate cluster => Sys2Proof.Machine.execClusterGate cluster s
  | .gatedBounce origin cluster addr => Sys2Proof.Machine.execGatedBounce origin cluster addr s
  | .powerEstimateTick watts => Sys2Proof.Machine.execPowerEstimateTick watts s
  | .fllStep unit => Sys2Proof.Machine.execFllStep unit s
  | .boostArbiterSample => Sys2Proof.Machine.execBoostArbiterSample s
  | .permitIntervalEnd => Sys2Proof.Machine.execPermitIntervalEnd s
  | .bstbudWrite val => Sys2Proof.Machine.execBstbudWrite val s
  | .pwrqWrite q val => Sys2Proof.Machine.execPwrqWrite q val s
  | .sensorSample readings => Sys2Proof.Machine.execSensorSample readings s
  | .t4PowerRemove => Sys2Proof.Machine.execT4PowerRemove s
  | .hostBar2Read r len => Sys2Proof.Machine.execHostBar2Read r len s
  | .hostBar2Write r bytes ep => Sys2Proof.Machine.execHostBar2Write r bytes ep s
  | .hostAtomicop r size op a b => Sys2Proof.Machine.execHostAtomicop r size op a b s
  | .peerRequest rid r kind len bytes a b => Sys2Proof.Machine.execPeerRequest rid r kind len bytes a b s
  | .outboundCompletion ix status bytes => Sys2Proof.Machine.execOutboundCompletion ix status bytes s
  | .completionTimeout ix => Sys2Proof.Machine.execCompletionTimeout ix s
  | .linkDown port => Sys2Proof.Machine.execLinkDown port s
  | .linkRetrain port width err => Sys2Proof.Machine.execLinkRetrain port width err s
  | .getVersion => Sys2Proof.Machine.execGetVersion s
  | .getCapabilities => Sys2Proof.Machine.execGetCapabilities s
  | .negotiateAlgorithms offer => Sys2Proof.Machine.execNegotiateAlgorithms offer s
  | .getDigests => Sys2Proof.Machine.execGetDigests s
  | .getCertificate certSlot => Sys2Proof.Machine.execGetCertificate certSlot s
  | .challenge nonce => Sys2Proof.Machine.execChallenge nonce s
  | .getMeasurements index => Sys2Proof.Machine.execGetMeasurements index s
  | .keyExchange share => Sys2Proof.Machine.execKeyExchange share s
  | .finish verify => Sys2Proof.Machine.execFinish verify s
  | .endSession => Sys2Proof.Machine.execEndSession s
  | .logRead start count => Sys2Proof.Machine.execLogRead start count s
  | .marginingRequest x => Sys2Proof.Machine.execMarginingRequest x s
  | .marginingDone => Sys2Proof.Machine.execMarginingDone s
  | .powerOnStart => Sys2Proof.Machine.execPowerOnStart s
  | .firmwareVerified fwSvn fw blk => Sys2Proof.Machine.execFirmwareVerified fwSvn fw blk s
  | .sensorsRead rd => Sys2Proof.Machine.execSensorsRead rd s
  | .selfHeatEnd readings => Sys2Proof.Machine.execSelfHeatEnd readings s
  | .hbmTrained ok => Sys2Proof.Machine.execHbmTrained ok s
  | .pcieTrained ok => Sys2Proof.Machine.execPcieTrained ok s
  | .schedulerStarted ok => Sys2Proof.Machine.execSchedulerStarted ok s
  | .hbmRetrain stack chan => Sys2Proof.Machine.execHbmRetrain stack chan s
  | .deviceUnitReply slot => Sys2Proof.Machine.execDeviceUnitReply slot s
  | .marginingCommand port lane cmd => Sys2Proof.Machine.execMarginingCommand port lane cmd s
  | .powerLoss => Sys2Proof.Machine.execPowerLoss s
  | .recordsSummarised type source count => Sys2Proof.Machine.execRecordsSummarised type source count s

end Sys2Proof.Machine
end

