-- ==== Sys2Proof/Machine/Step.lean ====
section
/-!
DEFINITION. Sys2Proof/Machine/Step.lean: the step of the device.  The operation or event at the head of `agenda` happens; with
none asked for, a landing or completion that is due takes effect, or the next engine issues its word (log 6, log 7).
-/
namespace Sys2Proof.Machine

def step (s : State) : Host.Outcome State Fault Refusal :=
  match s.agenda with
  | i :: r => if i.streams.isEmpty then exec i { s with agenda := r } else .next { s with agenda := r }
  | [] =>
    match s.plan with
    | .dead => .fault .noPower
    | .move s1 => .next s1
    | .word n t e i =>
      match exec i s with
      | .next s1 => .next (s1.afterWord n t e i)
      | .fault f => .fault f
      | .refused r => .refused r

/-- The state in which the instruction whose bits are `w` is the next that step fetches (log 2). -/
def State.withFetchWord (s : State) (nbits w : Nat) : State :=
  if nbits = 32 then s.placeWord (tableEngine w) w else s

end Sys2Proof.Machine
end

