-- ==== Sys2Proof/Safety.lean ====
section
/-!
DEFINITION. Sys2Proof/Safety.lean: the terms the statements use: when a word is ready to issue, the registers it reads, the results
that the tables of the spec give, and what a word leaves as it was.  Nothing of the machine refers to this file.
-/
namespace Sys2Proof.Claims

open Sys2Proof Machine

/-! What stays as it was. -/

/-- Every part of the device but the team in slot `n` is as it was. -/
def OnlyTeam (s s' : State) (n : Nat) : Prop :=
  s' = { s with teams := s'.teams } ∧ ∀ m, m ≠ n → s'.team? m = s.team? m

/-- Every byte of memory reads as it did. -/
def SameMemory (s s' : State) : Prop := ∀ a, readByte s'.mem a = readByte s.mem a

/-- Of the team only the SQ's place in its program, register `d` and the poison mark of `d` may differ. -/
def OnlySqRegister (t t' : Team) (d : BitVec 6) : Prop :=
  t' = { t with sq := { t.sq with s := t'.sq.s, marks := t'.sq.marks, ctl := { t.sq.ctl with pc := t'.sq.ctl.pc, loops := t'.sq.ctl.loops } } } ∧
  ∀ r, r ≠ d → t'.s r = t.s r ∧ SMap.get? t'.sq.marks r.toNat = SMap.get? t.sq.marks r.toNat

/-! The sequencer: the registers a word reads (09). -/

/-- The registers a word of the SQ reads as sources; none for an instruction that is no word of the SQ. -/
def sqSources : Instr → Option (List (BitVec 6))
  | .add _ a b | .sub _ a b | .and _ a b | .or _ a b | .xor _ a b | .shl _ a b | .shr _ a b | .sar _ a b | .slt _ a b
  | .sltu _ a b | .min _ a b | .max _ a b | .minu _ a b | .maxu _ a b | .andn _ a b | .mul _ a b | .mulh _ a b
  | .mulhu _ a b | .div _ a b | .divu _ a b | .rem _ a b | .remu _ a b | .bfx _ a b | .bfxs _ a b => some [a, b]
  | .cmov d a b | .bfi d a b => some [a, b, d]
  | .clz _ a | .ctz _ a | .popc _ a => some [a]
  | .addi _ a _ | .andi _ a _ | .ori _ a _ | .xori _ a _ | .slti _ a _ | .sltui _ a _ | .shli _ a _ | .shri _ a _
  | .sari _ a _ => some [a]
  | .lui _ _ | .auipc _ _ => some []
  | .beq a b _ | .bne a b _ | .blt a b _ | .bge a b _ | .bltu a b _ | .bgeu a b _ => some [a, b]
  | .j _ | .jal _ => some []
  | .jalr _ a _ => some [a]
  | .loop a _ => some [a]
  | .ldb _ b _ _ | .ldbu _ b _ _ | .ldh _ b _ _ | .ldhu _ b _ _ | .ldw _ b _ _ | .ldwu _ b _ _ | .ldd _ b _ _ => some [b]
  | .stb d b _ | .sth d b _ | .stw d b _ | .std d b _ => some [d, b]
  | .lds _ a _ _ => some [a]
  | .sts d a _ _ => some [d, a]
  | .ldp _ a _ _ => some [a]
  | .atomSwap _ a b _ _ | .atomAdd _ a b _ _ | .atomAnd _ a b _ _ | .atomOr _ a b _ _ | .atomXor _ a b _ _ | .atomMin _ a b _ _
  | .atomMax _ a b _ _ | .atomMinu _ a b _ _ | .atomMaxu _ a b _ _ => some [a, b]
  | .cas d a b _ _ => some [d, a, b]
  | .redAdd _ a b _ _ | .redAnd _ a b _ _ | .redOr _ a b _ _ | .redXor _ a b _ _ | .redMin _ a b _ _ | .redMax _ a b _ _
  | .redMinu _ a b _ _ | .redMaxu _ a b _ _ | .redFadd32 a b _ _ | .redFadd64 a b _ _ => some [a, b]
  | .lda _ a _ _ _ => some [a]
  | .stl d a _ _ => some [d, a]
  | .fenceAcq _ | .fenceRel _ | .fenceFullT | .fenceFullC | .fenceFullD | .fenceFullS => some []
  | .ldblk _ a _ => some [a]
  | .blkwait _ | .blkfree _ => some []
  | .chwf _ _ | .chwe _ _ | .chap _ _ | .chac _ _ | .chst _ _ => some []
  | .binit _ | .barr _ => some []
  | .bexp a _ | .bwait a _ => some [a]
  | .estart _ | .ewait _ | .estop _ | .mfs _ _ => some []
  | .mts a _ => some [a]
  | .swpt _ | .yield | .pstart | .pwait | .exit | .exitErr | .eret | .trap _ | .brk _ | .falloc _ => some []
  | .fresResolve _ a b | .fresFail _ a b => some [a, b]
  | .fresCancel _ a | .fresFree _ a | .fresReset _ a | .fwait _ a | .fpoll _ a | .tktake _ a | .tkserve a => some [a]
  | .tkwait a b => some [a, b]
  | .qenq _ a b | .qdeq _ a b | .tsub _ a b | .snap _ a b | .sresv _ a b => some [a, b]
  | .sacc a | .srej a | .sqry _ a => some [a]
  | .ldv _ a b => some [a, b]
  | .tdcls _ a | .tdscan a _ | .cwb a _ | .cinv a _ | .cwbi a _ => some [a]
  | _ => none

/-- Register `r` of the team holds a poison mark; s0 never does. -/
def Marked (t : Team) (r : BitVec 6) : Prop := r ≠ 0 ∧ (SMap.get? t.sq.marks r.toNat).isSome

/-- Team `t` in slot `n` issues on the selected core, and word `i` of its SQ reads no marked register. -/
def SqReady (s : State) (n : Nat) (t : Team) (i : Instr) : Prop :=
  s.cur? = some (n, t) ∧ ∃ l, sqSources i = some l ∧ ∀ r ∈ l, ¬Marked t r

/-! Results of the integer words (09 R191-R194). -/

/-- Table 9-1 and R192: the words with destination `d`, and the result each gives for `x` = s[a], `y` = s[b], `z` = s[d]. -/
def aluResults (d a b : BitVec 6) (x y z : DWord) : List (Instr × DWord) :=
  let n := y.toNat % 64
  let lo := y.toNat % 64
  let w := min (y.toNat / 64 % 64 + 1) (64 - lo)
  let f := x.toNat / 2 ^ lo % 2 ^ w
  [ (.add d a b, BitVec.ofInt 64 (x.toInt + y.toInt)),
    (.sub d a b, BitVec.ofInt 64 (x.toInt - y.toInt)),
    (.and d a b, x &&& y), (.or d a b, x ||| y), (.xor d a b, x ^^^ y), (.andn d a b, x &&& ~~~y),
    (.shl d a b, BitVec.ofNat 64 (x.toNat * 2 ^ n)),
    (.shr d a b, BitVec.ofNat 64 (x.toNat / 2 ^ n)),
    (.sar d a b, BitVec.ofInt 64 (x.toInt / 2 ^ n)),
    (.slt d a b, if x.toInt < y.toInt then 1 else 0),
    (.sltu d a b, if x.toNat < y.toNat then 1 else 0),
    (.min d a b, if x.toInt ≤ y.toInt then x else y),
    (.max d a b, if x.toInt ≤ y.toInt then y else x),
    (.minu d a b, if x.toNat ≤ y.toNat then x else y),
    (.maxu d a b, if x.toNat ≤ y.toNat then y else x),
    (.cmov d a b, if x = 0 then z else y),
    (.mul d a b, BitVec.ofNat 64 (x.toNat * y.toNat)),
    (.mulh d a b, BitVec.ofInt 64 (x.toInt * y.toInt / 2 ^ 64)),
    (.mulhu d a b, BitVec.ofNat 64 (x.toNat * y.toNat / 2 ^ 64)),
    (.div d a b, if y = 0 then BitVec.allOnes 64 else x.sdiv y),
    (.rem d a b, if y = 0 then x else x.srem y),
    (.divu d a b, if y = 0 then BitVec.allOnes 64 else BitVec.ofNat 64 (x.toNat / y.toNat)),
    (.remu d a b, if y = 0 then x else BitVec.ofNat 64 (x.toNat % y.toNat)),
    (.clz d a, if x = 0 then 64 else BitVec.ofNat 64 (63 - x.toNat.log2)),
    (.ctz d a, BitVec.ofNat 64 (((List.range 64).find? fun i => x.getLsbD i).getD 64)),
    (.popc d a, BitVec.ofNat 64 ((List.range 64).filter fun i => x.getLsbD i).length),
    (.bfx d a b, BitVec.ofNat 64 f),
    (.bfxs d a b, if 2 ^ (w - 1) ≤ f then BitVec.ofInt 64 (f - 2 ^ w : Int) else BitVec.ofNat 64 f),
    (.bfi d a b, (z &&& ~~~(BitVec.ofNat 64 (2 ^ w - 1) <<< lo)) ||| (BitVec.ofNat 64 (x.toNat % 2 ^ w) <<< lo)) ]

/-- R193 and R194: the words with an immediate, and the result each gives for `x` = s[a], with the word at virtual address `at_`. -/
def immResults (d a : BitVec 6) (imm : BitVec 14) (sh : BitVec 6) (up : BitVec 20) (x : DWord) (pcAddr : Nat) :
    List (Instr × DWord) :=
  [ (.addi d a imm, BitVec.ofInt 64 (x.toInt + imm.toInt)),
    (.andi d a imm, x &&& BitVec.ofInt 64 imm.toInt),
    (.ori d a imm, x ||| BitVec.ofInt 64 imm.toInt),
    (.xori d a imm, x ^^^ BitVec.ofInt 64 imm.toInt),
    (.slti d a imm, if x.toInt < imm.toInt then 1 else 0),
    (.sltui d a imm, if x.toNat < (BitVec.ofInt 64 imm.toInt).toNat then 1 else 0),
    (.shli d a sh, BitVec.ofNat 64 (x.toNat * 2 ^ sh.toNat)),
    (.shri d a sh, BitVec.ofNat 64 (x.toNat / 2 ^ sh.toNat)),
    (.sari d a sh, BitVec.ofInt 64 (x.toInt / 2 ^ sh.toNat)),
    (.lui d up, BitVec.ofInt 64 (up.toInt * 2 ^ 14)),
    (.auipc d up, BitVec.ofInt 64 (pcAddr + up.toInt * 2 ^ 14)) ]

/-! Control flow (09 R195-R197). -/

/-- Table 9-2: the branches on registers `a` and `b`, and whether each is taken for `x` = s[a], `y` = s[b]. -/
def branches (a b : BitVec 6) (o : BitVec 14) (x y : DWord) : List (Instr × Bool) :=
  [ (.beq a b o, decide (x = y)), (.bne a b o, decide (x ≠ y)),
    (.blt a b o, decide (x.toInt < y.toInt)), (.bge a b o, decide (y.toInt ≤ x.toInt)),
    (.bltu a b o, decide (x.toNat < y.toNat)), (.bgeu a b o, decide (y.toNat ≤ x.toNat)) ]

/-- The loops that stay open after a taken control word to word `p`: the innermost whose body holds `p`, and those around it
(09 R197). -/
def loopsAround (p : Nat) (l : List Loop) : List Loop := l.dropWhile fun k => !(k.start ≤ p && p ≤ k.stop)

/-- A jump by `off` words in the stream `e` of the issuing team: +1 does not branch, another in range does (09 R195, R197). -/
def jumpTo (s : State) (n : Nat) (t : Team) (e : Engine) (off : Int) : State :=
  let k := t.ctl e
  let p := ((k.pc : Int) + off).toNat
  if off = 1 then s.setTeam n (t.step e)
  else s.setTeam n (t.setCtl e { k with pc := p, loops := loopsAround p k.loops,
                                        busy := if e = .sq ∨ e = .ve then t.cycle + 2 else k.busy })

/-- The word index that `off` words on from the engine's word lies in its section. -/
def InSection (t : Team) (e : Engine) (off : Int) : Prop := 0 ≤ ((t.ctl e).pc : Int) + off ∧ ((t.ctl e).pc : Int) + off < t.words e

/-- A loop that may be opened at the engine's word: the body of `len` words ends inside the section and inside the innermost
open loop, and fewer than four loops are open, or the count is 0 (09 R196). -/
def MayLoop (t : Team) (e : Engine) (count len : Nat) : Prop :=
  (t.ctl e).pc + len < t.words e ∧ (count = 0 ∨ (t.ctl e).loops.length < 4) ∧
  ∀ l r, (t.ctl e).loops = l :: r → l.start ≤ (t.ctl e).pc + 1 ∧ (t.ctl e).pc + len ≤ l.stop

/-! The sequencer's accesses to memory (09 R198-R208). -/

/-- The address of an M-format access: base plus displacement times size, modulo 2^64 (09 R198). -/
def addressM (t : Team) (b : BitVec 6) (p : BitVec 8) (size : Nat) : Nat := (((t.s b).toNat + p.toInt * size) % 2 ^ 64).toNat

/-- The loads, with the bytes each reads and whether it sign-extends (09 R199). -/
def loads (d b r : BitVec 6) (p : BitVec 8) : List (Instr × Nat × Bool) :=
  [ (.ldb d b r p, 1, true), (.ldbu d b r p, 1, false), (.ldh d b r p, 2, true), (.ldhu d b r p, 2, false),
    (.ldw d b r p, 4, true), (.ldwu d b r p, 4, false), (.ldd d b r p, 8, false) ]

/-- The stores, with the bytes each writes (09 R201). -/
def stores (d b : BitVec 6) (p : BitVec 8) : List (Instr × Nat) :=
  [ (.stb d b p, 1), (.sth d b p, 2), (.stw d b p, 4), (.std d b p, 8) ]

/-- One entry `e` of the team's translation table covers the `size` bytes at `ea` and grants the access, and the bytes lie in HBM from
physical address `pa` on (05 R109, 11 R261). -/
structure Reaches (s : State) (n : Nat) (t : Team) (acc : Acc) (ea size : Nat) (e : KttEntry) (pa : Nat) : Prop where
  granted : kttLookup (s.kslot n t) ea acc = .ok e
  covered : ea + size ≤ e.va + 2 ^ e.log2
  place : pa = e.pa + (ea - e.va)
  hbm : pa + size ≤ 0x6000000000

/-- No atomic or reduction of the team, and no request of its on a port, is on its way. -/
def Calm (s : State) (n : Nat) : Prop := (∀ a ∈ s.atomq, a.slot ≠ n) ∧ ∀ q ∈ s.host.outReqs, q.slot ≠ n

/-- No write of the team's SQ is on its way either. -/
def Settled (s : State) (n : Nat) : Prop := (∀ w ∈ s.fabric, ¬(w.slot = some n ∧ w.eng = 0)) ∧ Calm s n

/-- Accesses through the entry bypass the L1 and order nothing by themselves: no SO page, and L1C is 0 or the core is a gather core (09
R198, 11 R260). -/
def Bypasses (n : Nat) (e : KttEntry) : Prop := e.order ≠ 2 ∧ cacheable e.order e.l1c (coreOfSlot n) = false

/-- A load has issued with entry `l` of the landing buffer (09 R199, 06 R124). -/
def addLoad (l : Landing) (t : Team) : Team := ({ t with sq := { t.sq with landing := t.sq.landing ++ [l] } } : Team).step .sq

/-- The entry of a load of the `size` bytes that memory holds at `pa`, with their poison and the cycle it names. -/
def loadOf (s : State) (t : Team) (d : BitVec 6) (size : Nat) (sgn : Bool) (named : Option Nat) (ea pa : Nat) : Landing :=
  { d := d.toNat, pc := t.sq.ctl.pc, named := named, size := size, sgn := sgn,
    parts := [{ bytes := readBytes s.mem pa size, mark := markedRange 64 s.marks pa size, va := ea, ln := pa / 128 }] }

/-- The load has issued. -/
def loading (s : State) (n : Nat) (t : Team) (d : BitVec 6) (size : Nat) (sgn : Bool) (named : Option Nat) (ea pa : Nat) : State :=
  s.setTeam n (addLoad (loadOf s t d size sgn named ea pa) t)

/-- The value a load of `size` bytes that hold the number `v` writes (09 R199). -/
def loaded (size : Nat) (sgn : Bool) (v : Nat) : DWord :=
  if sgn then (BitVec.ofNat (8 * size) v).signExtend 64 else (BitVec.ofNat (8 * size) v).setWidth 64

/-- The store has issued: its bytes are on their way to their home slice, counted in the team's write-drain count (09 R201, 03 R57). -/
def storing (s : State) (n : Nat) (t : Team) (ea : Nat) (e : KttEntry) (pa : Nat) (bs : List Byte) : State :=
  (s.sendWrite { slot := some n, tid := t.tid, tix := t.teamix, eng := 0, pc := t.sq.ctl.pc, seq := 0, asid := t.asid, va := ea, pa := pa, bytes := bs,
                 tagged := e.sreg.isSome, order := e.order, num := t.wIssued + 1 }).setTeam n
    (({ t with wIssued := t.wIssued + 1 } : Team).step .sq)

/-- The atomics, with their number (09 R206, R207); CAS has its own operands. -/
def atomics (d a b : BitVec 6) (o c : BitVec 2) : List (Instr × Nat) :=
  [ (.atomSwap d a b o c, 0), (.atomAdd d a b o c, 1), (.atomAnd d a b o c, 2), (.atomOr d a b o c, 3), (.atomXor d a b o c, 4),
    (.atomMin d a b o c, 5), (.atomMax d a b o c, 6), (.atomMinu d a b o c, 7), (.atomMaxu d a b o c, 8) ]

/-- The reductions, with their number and size (09 R208). -/
def reductions (z : BitVec 1) (a b : BitVec 6) (o : BitVec 1) (c : BitVec 2) : List (Instr × Nat × Nat) :=
  let k := if z = 1 then 8 else 4
  [ (.redAdd z a b o c, 32, k), (.redAnd z a b o c, 33, k), (.redOr z a b o c, 34, k), (.redXor z a b o c, 35, k),
    (.redMin z a b o c, 36, k), (.redMax z a b o c, 37, k), (.redMinu z a b o c, 38, k), (.redMaxu z a b o c, 39, k),
    (.redFadd32 a b o c, 40, 4), (.redFadd64 a b o c, 41, 8) ]

/-- The atomic or reduction has issued: it stands in the write queue of its home slice and counts in the write-drain count. -/
def atomizing (s : State) (n : Nat) (t : Team) (x : PAtom) : State :=
  ({ s with atomq := s.atomq ++ [{ x with slot := n, tid := t.tid, tix := t.teamix, pc := t.sq.ctl.pc, seq := 0, asid := t.asid, num := t.wIssued + 1 }] }
  ).setTeam n (({ t with wIssued := t.wIssued + 1 } : Team).step .sq)

/-- The new contents for the old number `x` and the operand `y`, of `w` bits, by the number of an ATOM (09 R206). -/
def atomResult (op w : Nat) (x y : Nat) : Nat :=
  let X := (BitVec.ofNat w x).toInt
  let Y := (BitVec.ofNat w y).toInt
  let u := y % 2 ^ w
  match op with
  | 0 => u
  | 1 => (x + u) % 2 ^ w
  | 2 => x &&& u
  | 3 => x ||| u
  | 4 => x ^^^ u
  | 5 => if X < Y then x else u
  | 6 => if X < Y then u else x
  | 7 => if x < u then x else u
  | _ => if x < u then u else x

/-- Nothing of the team is under way and it owns no dirty line: a fence has nothing to wait for or to write back. -/
structure Quiet (s : State) (n : Nat) (t : Team) : Prop where
  writes : ∀ w ∈ s.fabric, w.slot ≠ some n
  atoms : ∀ a ∈ s.atomq, a.slot ≠ n
  lines : ∀ l ∈ (s.core (coreOfSlot n)).l1, n ∉ l.2.owners ∧ ∀ w ∈ l.2.writes, w.1 ≠ n
  loads : t.sq.landing = []
  ports : t.posted = [] ∧ t.flushing = [] ∧ t.flushSent = false
  requests : ∀ q ∈ s.host.outReqs, q.slot ≠ n

/-- The fences, with whether each acquires, whether it releases, and its scope (09 R205). -/
def fences (c : BitVec 2) : List (Instr × Bool × Bool × Nat) :=
  [ (.fenceFullT, true, true, 0), (.fenceFullC, true, true, 1), (.fenceFullD, true, true, 2), (.fenceFullS, true, true, 3),
    (.fenceAcq c, true, false, c.toNat), (.fenceRel c, false, true, c.toNat) ]

/-! Channels and barrier objects (06 R131-R136, 09 R212, R213). -/

/-- Slots `start` to `start + k - 1`, modulo `slots`, are all in `full`; or none of them is. -/
def AllIn (full : List Nat) (slots start k : Nat) : Prop := ∀ i < k, (start + i) % slots ∈ full
def NoneIn (full : List Nat) (slots start k : Nat) : Prop := ∀ i < k, (start + i) % slots ∉ full

/-- The team issues on its own core, and that core is served. -/
def Issues (s : State) (n : Nat) (t : Team) : Prop := s.cur? = some (n, t) ∧ s.sel.core = coreOfSlot n

/-! System words. -/

/-- Table 7-13: the special registers a program may read, and their values. -/
def specials (s : State) (n : Nat) (t : Team) : List (BitVec 10 × DWord) :=
  [ (0x000, t.wid), (0x001, BitVec.ofNat 64 t.teamix), (0x002, BitVec.ofNat 64 t.gangix), (0x003, t.k.kernid.setWidth 64),
    (0x004, BitVec.ofNat 64 t.cycle), (0x005, (s.clk (domainOf (coreOfSlot n))).freeze), (0x006, s.time), (0x008, t.status),
    (0x010, t.faults.getD 0 0), (0x011, t.faults.getD 1 0), (0x012, t.faults.getD 2 0), (0x013, t.faults.getD 3 0),
    (0x014, t.faults.getD 4 0), (0x015, t.faults.getD 5 0), (0x016, t.faults.getD 6 0), (0x017, t.faults.getD 7 0),
    (0x020, BitVec.ofNat 64 t.variant), (0x021, t.boost.setWidth 64),
    (0x030, BitVec.ofNat 64 (if t.k.hnd then t.k.handler else 0)), (0x031, t.epc) ]

/-- The switch-point words, with the engine of each (06 R137). -/
def switchWords (s : State) (p : BitVec 8) : List (Instr × Engine) :=
  [(.swpt p, .sq), (.vswpt p, .ve), (.mswpt p, .me), (.xswpt p, s.stream)]

/-- The engines a mask names, all of which the team has (09 R214). -/
def Names (t : Team) (m : BitVec 5) (es : List Engine) : Prop :=
  es ≠ [] ∧ es = maskEngines m ∧ ∀ e ∈ es, t.hasEngine e = true

/-- The team with every running engine but the SQ stopped, leaving (09 R215). -/
def leaving (t : Team) (err : Bool) : Team :=
  { (allEngines.filter fun e => e ≠ .sq && t.hasEngine e).foldl (fun u e => u.updCtl e EngCtl.stop) t with exiting := some err }

/-! Device words (03, 09 R218-R224, 16). -/

/-- Table 3-6: what an operation (1 RESOLVE, 2 FAIL, 3 CANCEL, 4 FREE, 5 RESET) with value `v` makes of an entry; none when it is refused. -/
def futureAfter (f : Future) (op : Nat) (v : DWord) : Option Future :=
  match op, f.st with
  | 1, .empty => some { f with st := .ready, value := v }
  | 2, .empty => some { f with st := .error, value := v }
  | 3, .empty => some { f with st := .cancelled, value := 0 }
  | 4, .empty | 4, .ready | 4, .error | 4, .cancelled => some { f with st := .free, asid := none, gen := f.gen + 1 }
  | 5, .empty | 5, .ready | 5, .error | 5, .cancelled => some { f with st := .empty, value := 0 }
  | _, _ => none

/-- The handle names entry `i`: its index is not 0, the entry is not FREE, belongs to the ASID and has the handle's generation (03 R69). -/
def HandleNames (s : State) (asid : Nat) (h : BitVec 32) (i : Nat) : Prop :=
  i = h.toNat % 65536 ∧ i ≠ 0 ∧ (s.future i).st ≠ .free ∧ (s.future i).gen.toNat = h.toNat / 65536 ∧ (s.future i).asid = some asid

/-- The state after an operation on entry `i`: the entry changed and, unless the operation is RESET, its waiters woken (03 R70, R71). -/
def futureDone (s : State) (i op : Nat) (f : Future) : State := if op = 5 then s.setFuture i f else s.futureWake i f

/-- Queue `q` is bound to the block at physical address `pa`: its QCBA translates there (03 R77). -/
def BoundTo (s : State) (q pa : Nat) : Prop :=
  q < 272 ∧ ∃ e, s.walk (s.queue q).asid.toNat (s.queue q).qcba.toNat = .ok e ∧ e.pa + ((s.queue q).qcba.toNat - e.va) = pa

/-- The checks of QENQ, QDEQ and TSUB are passed (09 R221): aligned, the record inside the banks, the block at physical address `pa` in HBM, sound and
unpoisoned once the SQ's own accesses to its line have reached memory, which is state `s1`. -/
structure RingReady (s s1 : State) (n : Nat) (t : Team) (ea la : Nat) (e : KttEntry) (blk : RingBlk) : Prop where
  aligned : ea % 64 = 0 ∧ la % 64 = 0
  inside : la + 64 ≤ t.bankCount * 0x20000
  granted : kttLookup (s.kslot n t) ea .rw = .ok e
  hbm : e.pa + (ea - e.va) < 0x6000000000
  calm : e.order = 0 ∨ Calm s n
  settled : s1 = s.unitLine n (e.pa + (ea - e.va))
  read : blk = ringBlk (readBytes s1.mem (e.pa + (ea - e.va)) 64)
  sound : blk.bad = none ∧ markedRange 64 s1.marks (e.pa + (ea - e.va)) 64 = false

/-- The slot at virtual address `va` of a ring is granted and lies in HBM at `pa`. -/
def SlotAt (s : State) (n : Nat) (t : Team) (va : Nat) (e : KttEntry) (pa : Nat) : Prop :=
  kttLookup (s.kslot n t) va .rw = .ok e ∧ pa = e.pa + (va - e.va) ∧ pa < 0x6000000000

/-! The vector engine (10 R228-R254). -/

/-- Element `i` of a vector of `w`-bit elements (08 R165). -/
def elem (w : Nat) (v : VReg) (i : Nat) : Nat := v.toNat / 2 ^ (w * i) % 2 ^ w

/-- Selector `x` gives a word the register `v` as a source, `skip` earlier sources of the word naming it too; no poison is met (10 R230,
R233, 17 R405). -/
def Source (t : Team) (x : BitVec 8) (skip : Nat) (v : VReg) : Prop :=
  (x.toNat < 128 ∧ x.toNat < t.k.vregs ∧ x.toNat ∉ t.ve.vMarks ∧ v = t.v x.toNat) ∨
  (x = 0x80 ∧ v = 0) ∨
  (∃ i, 1 ≤ i ∧ i ≤ 8 ∧ x.toNat = 0x80 + i ∧ v = t.ve.ring.getD (i - 1) 0) ∨
  (∃ j c d, j < 8 ∧ x.toNat = 0x90 + j ∧ SMap.get? t.ve.chunks j = some c ∧ c.producer = false ∧ t.chanDecl c.chan = some d ∧
    512 * (c.ptr + skip + 1) ≤ d.slotBytes ∧ (t.chan c.chan).c ∈ (t.chan c.chan).shown ∧
    (let la := d.base + (t.chan c.chan).c * d.slotBytes + 512 * (c.ptr + skip)
     t.spMarked la 512 = false ∧ v = BitVec.ofNat 4096 (ofBytes (t.spRead la 512)))) ∨
  (∃ k : BitVec 4, x.toNat = 0xA0 + k.toNat ∧ k.toNat ∉ t.ve.kMarks ∧
    ∀ i < t.vn, elem t.vw v i = (t.kreg k).toNat % 2 ^ t.vw)

/-- The one-register sources of a word, in order. -/
def Sources (t : Team) : List (BitVec 8) → List VReg → Prop
  | [], [] => True
  | [a], [x] => Source t a 0 x
  | [a, b], [x, y] => Source t a 0 x ∧ Source t b (if a = b then 1 else 0) y
  | _, _ => False

/-- A group of `cnt` registers from selector `x` on, none marked: a single register may be any source (10 R231). -/
def Group (t : Team) (x : BitVec 8) (cnt : Nat) (vs : List VReg) : Prop :=
  vs.length = cnt ∧ ((cnt = 1 ∧ Source t x 0 (vs.getD 0 0)) ∨
    (cnt ≠ 1 ∧ x.toNat < 128 ∧ x.toNat % cnt = 0 ∧ x.toNat + cnt ≤ t.k.vregs ∧
     ∀ i < cnt, x.toNat + i ∉ t.ve.vMarks ∧ vs.getD i 0 = t.v (x.toNat + i)))

/-- Selector `d` can take a result of `cnt` registers: aligned registers below VREGS, ZERO, or a chunk register that produces into an
empty slot with room (10 R231, R233). -/
def Dest (t : Team) (d : BitVec 8) (cnt : Nat) : Prop :=
  (d.toNat < 128 ∧ d.toNat % cnt = 0 ∧ d.toNat + cnt ≤ t.k.vregs) ∨ d = 0x80 ∨
  (∃ j c k, j < 8 ∧ d.toNat = 0x90 + j ∧ SMap.get? t.ve.chunks j = some c ∧ c.producer = true ∧ t.chanDecl c.chan = some k ∧
    512 * (c.ptr + cnt) ≤ k.slotBytes ∧ (t.chan c.chan).p ∉ (t.chan c.chan).shown)

/-- The destination may be read as a third source: an unmarked register, or ZERO. -/
def ReadsDest (t : Team) (d : BitVec 8) : Prop := d = 0x80 ∨ (d.toNat < 128 ∧ d.toNat ∉ t.ve.vMarks)

/-- A word of the VE of the issuing team has its sources, its destination of one register and an unmarked mask. -/
structure VeReady (s : State) (n : Nat) (t : Team) (srcs : List (BitVec 8)) (vs : List VReg) (d : BitVec 8) : Prop where
  issues : s.cur? = some (n, t)
  sources : Sources t srcs vs
  dest : Dest t d 1
  mask : t.vmaskReg.toNat ∉ t.ve.mMarks

/-- What an inactive element keeps: the element of a register, 0 for ZERO and a chunk (10 R229). -/
def oldElem (t : Team) (d : BitVec 8) (w e : Nat) : Nat :=
  if d.toNat < 128 then elem w (t.v (d.toNat + e / (4096 / w))) (e % (4096 / w)) else 0

/-- The vectors `rs` go to the destination `d` (10 R229, R231, R232).  When `keeps`, a register that was marked and keeps the old
contents of one of the word's `num` elements of `w` bits stays marked (17 R405). -/
def Puts (t u : Team) (d : VOp) (rs : List VReg) (w num : Nat) (keeps : Bool) : Prop :=
  let z := t.putVec d rs
  u = { z with ve := { z.ve with vMarks := u.ve.vMarks } } ∧
  ∀ r, r ∈ u.ve.vMarks ↔ r ∈ z.ve.vMarks ∨
    (keeps = true ∧ d.sel.toNat < 128 ∧ r ∈ t.ve.vMarks ∧ ∃ e < num, r = d.sel.toNat + e / (4096 / w) ∧ t.active e = false)

/-- The word completes: its chunk sources advance, and a vector `r` with property `P` goes to the destination. -/
def Gives (s : State) (n : Nat) (t : Team) (i : Instr) (srcs : List (BitVec 8)) (d : BitVec 8) (keeps : Bool) (P : VReg → Prop) : Prop :=
  ∃ r u, P r ∧ Puts (t.advanceChunks (srcs.map fun x => ⟨x, 1⟩)) u ⟨d, 1⟩ [r] t.vw t.vn keeps ∧ exec i s = .next (s.setTeam n (u.step .ve))

/-- The word gives each active element `e` the pattern `f e`, and each inactive one its old value (10 R229). -/
def GivesElements (s : State) (n : Nat) (t : Team) (i : Instr) (srcs : List (BitVec 8)) (d : BitVec 8) (f : Nat → Nat) : Prop :=
  Gives s n t i srcs d true fun r => ∀ e < t.vn, elem t.vw r e = if t.active e then f e % 2 ^ t.vw else oldElem t d t.vw e

/-- The word gives every element `e` the pattern `f e`. -/
def GivesAll (s : State) (n : Nat) (t : Team) (i : Instr) (srcs : List (BitVec 8)) (d : BitVec 8) (f : Nat → Nat) : Prop :=
  Gives s n t i srcs d false fun r => ∀ e < t.vn, elem t.vw r e = f e % 2 ^ t.vw

/-- The element width, and whether the type is signed, of the integer shapes 0 to 7 (07 Table 7-8). -/
def intWidth (ty : Nat) : Nat := if ty < 2 then 4 else if ty < 4 then 8 else if ty < 6 then 16 else 32
def intValue (ty x : Nat) : Int := if ty % 2 = 0 ∧ 2 ^ (intWidth ty - 1) ≤ x then (x : Int) - 2 ^ intWidth ty else x
def intLow (ty : Nat) : Int := if ty % 2 = 0 then -2 ^ (intWidth ty - 1) else 0
def intHigh (ty : Nat) : Int := if ty % 2 = 0 then 2 ^ (intWidth ty - 1) - 1 else 2 ^ intWidth ty - 1

/-- A word of the element tables: its instruction, its sources, whether it reads its destination, and the pattern it gives for the
patterns of its sources and of the old destination. -/
structure ElementWord where
  i : Instr
  srcs : List (BitVec 8)
  reads : Bool := false
  f : Nat → Nat → Nat → Nat

/-- The words that act on patterns whatever the shape (10 R237). -/
def patternWords (w : Nat) (d a b : BitVec 8) : List ElementWord :=
  [ ⟨.vand d a b, [a, b], false, fun x y _ => x &&& y⟩, ⟨.vor d a b, [a, b], false, fun x y _ => x ||| y⟩,
    ⟨.vxor d a b, [a, b], false, fun x y _ => x ^^^ y⟩, ⟨.vnot d a, [a], false, fun x _ _ => 2 ^ w - 1 - x⟩ ]

/-- The pattern of an integer of `w` bits. -/
def pat (w : Nat) (v : Int) : Nat := (v % 2 ^ w).toNat

/-- Table 10-2 and R236-R238 under the integer shape `ty`. -/
def intWords (ty : Nat) (d a b : BitVec 8) (k : BitVec 5) : List ElementWord :=
  let w := intWidth ty
  let v := intValue ty
  let sat (x : Int) : Int := if x < intLow ty then intLow ty else if intHigh ty < x then intHigh ty else x
  let sgn (x : Nat) : Int := if 2 ^ (w - 1) ≤ x then (x : Int) - 2 ^ w else x
  [ ⟨.vadd d a b, [a, b], false, fun x y _ => pat w (v x + v y)⟩,
    ⟨.vsub d a b, [a, b], false, fun x y _ => pat w (v x - v y)⟩,
    ⟨.vmul d a b, [a, b], false, fun x y _ => pat w (v x * v y)⟩,
    ⟨.vmulh d a b, [a, b], false, fun x y _ => pat w (v x * v y / 2 ^ w)⟩,
    ⟨.vfma d a b, [a, b], true, fun x y z => pat w (v z + v x * v y)⟩,
    ⟨.vfms d a b, [a, b], true, fun x y z => pat w (v z - v x * v y)⟩,
    ⟨.vmin d a b, [a, b], false, fun x y _ => if v x ≤ v y then x else y⟩,
    ⟨.vmax d a b, [a, b], false, fun x y _ => if v x ≤ v y then y else x⟩,
    ⟨.vabs d a, [a], false, fun x _ _ => pat w (v x).natAbs⟩,
    ⟨.vneg d a, [a], false, fun x _ _ => pat w (-v x)⟩,
    ⟨.vadds d a b, [a, b], false, fun x y _ => pat w (sat (v x + v y))⟩,
    ⟨.vsubs d a b, [a, b], false, fun x y _ => pat w (sat (v x - v y))⟩,
    ⟨.vavg d a b, [a, b], false, fun x y _ => pat w ((v x + v y + 1) / 2)⟩,
    ⟨.vabd d a b, [a, b], false, fun x y _ => pat w (v x - v y).natAbs⟩,
    ⟨.vshl d a b, [a, b], false, fun x y _ => x * 2 ^ y⟩,
    ⟨.vshr d a b, [a, b], false, fun x y _ => x / 2 ^ y⟩,
    ⟨.vsar d a b, [a, b], false, fun x y _ => pat w (sgn x / 2 ^ y)⟩,
    ⟨.vshli d a k, [a], false, fun x _ _ => x * 2 ^ k.toNat⟩,
    ⟨.vshri d a k, [a], false, fun x _ _ => x / 2 ^ k.toNat⟩,
    ⟨.vsari d a k, [a], false, fun x _ _ => pat w (sgn x / 2 ^ k.toNat)⟩,
    ⟨.vclz d a, [a], false, fun x _ _ => if x = 0 then w else w - 1 - Nat.log2 x⟩,
    ⟨.vpopc d a, [a], false, fun x _ _ => ((List.range w).filter fun i => x.testBit i).length⟩,
    ⟨.vdiv d a b, [a, b], false, fun x y _ => if y = 0 then 2 ^ w - 1 else pat w ((v x).tdiv (v y))⟩ ] ++ patternWords w d a b

/-- Table 10-2 and R236-R240 under a floating shape of format `f`, rounding by `md`. -/
def floatWords (f : FFmt) (md : RMode) (d a b : BitVec 8) : List ElementWord :=
  let v := f.decode
  [ ⟨.vadd d a b, [a, b], false, fun x y _ => f.round md (Fl.add md (v x) (v y))⟩,
    ⟨.vsub d a b, [a, b], false, fun x y _ => f.round md (Fl.add md (v x) (v y).neg)⟩,
    ⟨.vmul d a b, [a, b], false, fun x y _ => f.round md (Fl.mul (v x) (v y))⟩,
    ⟨.vfma d a b, [a, b], true, fun x y z => f.round md (Fl.add md (v z) (Fl.mul (v x) (v y)))⟩,
    ⟨.vfms d a b, [a, b], true, fun x y z => f.round md (Fl.add md (v z) (Fl.mul (v x) (v y)).neg)⟩,
    ⟨.vmin d a b, [a, b], false, fun x y _ => f.round md (Fl.min (v x) (v y))⟩,
    ⟨.vmax d a b, [a, b], false, fun x y _ => f.round md (Fl.max (v x) (v y))⟩,
    ⟨.vabs d a, [a], false, fun x _ _ => x % 2 ^ (f.w - 1)⟩,
    ⟨.vneg d a, [a], false, fun x _ _ => x ^^^ 2 ^ (f.w - 1)⟩,
    ⟨.vavg d a b, [a, b], false, fun x y _ => f.round md (Fl.add md (v x) (v y)).half⟩,
    ⟨.vabd d a b, [a, b], false, fun x y _ => f.round md (Fl.add md (v x) (v y).neg) % 2 ^ (f.w - 1)⟩,
    ⟨.vdiv d a b, [a, b], false, fun x y _ => f.round md (Fl.div (v x) (v y))⟩,
    ⟨.vsqrt d a, [a], false, fun x _ _ => f.round md (v x).sqrt⟩,
    ⟨.vrcp d a, [a], false, fun x _ _ => f.round .rne (flRcp (v x))⟩,
    ⟨.vrsq d a, [a], false, fun x _ _ => f.round .rne (flRsq (v x))⟩,
    ⟨.vexp2 d a, [a], false, fun x _ _ => f.round .rne (flExp2 (v x))⟩,
    ⟨.vlog2 d a, [a], false, fun x _ _ => f.round .rne (flLog2 (v x))⟩,
    ⟨.vclass d a, [a], false, fun x _ _ => 2 ^ f.classOf x⟩ ] ++ patternWords f.w d a b

/-- The words that an integer shape, and those that a floating shape, turns away with SHAPEBAD, with their sources. -/
def floatOnly (d a : BitVec 8) : List (Instr × List (BitVec 8)) :=
  [(.vsqrt d a, [a]), (.vrcp d a, [a]), (.vrsq d a, [a]), (.vexp2 d a, [a]), (.vlog2 d a, [a]), (.vclass d a, [a])]
def intOnly (d a b : BitVec 8) (k : BitVec 5) : List (Instr × List (BitVec 8)) :=
  [(.vmulh d a b, [a, b]), (.vadds d a b, [a, b]), (.vsubs d a b, [a, b]), (.vshl d a b, [a, b]), (.vshr d a b, [a, b]),
   (.vsar d a b, [a, b]), (.vshli d a k, [a]), (.vshri d a k, [a]), (.vsari d a k, [a]), (.vclz d a, [a]), (.vpopc d a, [a])]

/-- A condition of Table 7-8 on a comparison: `lt` x < y, `gt` y < x, both false for equal values; `un` when an operand is NaN (08
R174). -/
def condHolds (c : Nat) (lt gt un : Bool) : Bool :=
  match c with
  | 0 => !un && !lt && !gt
  | 1 => un || lt || gt
  | 2 => !un && lt
  | 3 => !un && !gt
  | 4 => !un && gt
  | 5 => !un && !lt
  | 6 => un
  | _ => !un

/-- A conversion word: with no active element that traps it gives the elements their conversions and sets the flags; with one it raises
CONVTRAP (10 R243, 08 R177, R178). -/
def Converts (s : State) (n : Nat) (t : Team) (i : Instr) (srcs : List VOp) (d : VOp) (wd num : Nat) (conv : Nat → Conv) : Prop :=
  ((∀ e < num, t.active e = true → conv e ≠ .trap) →
    ∃ rs u sat inf, rs.length = d.cnt ∧ Puts (t.advanceChunks srcs) u d rs wd num true ∧
      exec i s = .next (s.setTeam n ((u.flagConv sat inf).step .ve)) ∧
      (sat = true ↔ ∃ e < num, t.active e = true ∧ ∃ x, conv e = .sat x) ∧
      (inf = true ↔ ∃ e < num, t.active e = true ∧ ∃ x, conv e = .inf x) ∧
      ∀ e < num, elem wd (rs.getD (e / (4096 / wd)) 0) (e % (4096 / wd)) =
        if t.active e then (conv e).parts.1 % 2 ^ wd else oldElem t d.sel wd e) ∧
  ((∃ e < num, t.active e = true ∧ conv e = .trap) → exec i s = .next (s.trap n t .ve .convtrap 0 0 0))

/-- The active elements of a vector, in rising order. -/
def actives (t : Team) (v : VReg) : List Nat := ((List.range t.vn).filter t.active).map (elem t.vw v)

/-- Active elements as they stand, the others as the identity of a floating addition (08 R187). -/
def withIdentity (t : Team) (ident : Nat) (v : VReg) (e : Nat) : Nat := if t.active e then elem t.vw v e else ident

/-- The local address of a piece `j` of a plain (512 bytes), broadcast or strided VE access from `la` with stride `k` (10 R250). -/
def pieceAt (la : Nat) (k : Int) (j : Nat) : Nat := (((la : Int) + j * k) % 2 ^ 23).toNat

/-- The bit `b` that a VE store leaves at local address `a`: that of the last active element stored there, the old bit where none is.  Byte
`p` of the vector `v` goes to address `at_ p`. -/
def StoredBit (t : Team) (w : Nat) (v : VReg) (at_ : Nat → Nat) (a b : Nat) (new : Bool) : Prop :=
  (∃ p < 512, at_ p = a ∧ t.active ((8 * p + b) / w) = true ∧ new = v.getLsbD (8 * p + b) ∧
    ∀ q < 512, p < q → at_ q = a → t.active ((8 * q + b) / w) = false) ∨
  ((∀ p < 512, at_ p = a → t.active ((8 * p + b) / w) = false) ∧ new = (t.spByte a).getLsbD b)

/-- Of the team nothing but scratchpad, its poison marks, its tile directory, and what a TDSCAN and jobs have covered of its dtiles
differs. -/
def OnlyScratchpad (t u : Team) : Prop :=
  u = { t with sp := u.sp, spMarks := u.spMarks, dirs := u.dirs, scanDt := u.scanDt, covers := u.covers }

/-- A selector that no source may name: a register at or above VREGS, or a reserved code (07 Table 7-7). -/
def BadSource (t : Team) (x : BitVec 8) : Prop :=
  (x.toNat < 128 ∧ t.k.vregs ≤ x.toNat) ∨ (0x89 ≤ x.toNat ∧ x.toNat ≤ 0x8F) ∨ (0x98 ≤ x.toNat ∧ x.toNat ≤ 0x9F) ∨ 0xB0 ≤ x.toNat

/-! Streams. -/

/-- Of `width` bits from bit `lo` on, the descriptor `new` of `len` bits takes the `span` bits of `v` from bit `shift` of the field on, clears the rest of
the field when `shift` is 0, and keeps every other bit of `old`. -/
def WritesField (old new len lo width shift span v : Nat) : Prop :=
  ∀ i < len, new.testBit i =
    if i < lo ∨ lo + width ≤ i then old.testBit i
    else if lo + shift ≤ i ∧ i < lo + shift + span then v.testBit (i - lo - shift)
    else if shift = 0 then false else old.testBit i

/-- The stream has taken on job `j`: team `u` with the job last, counted, at the next word. -/
def addJob (s : State) (n : Nat) (e : Engine) (j : TuJob) (u : Team) : State :=
  s.setTeam n ((u.updTu e fun q => { q with jobs := q.jobs ++ [j], count := q.count + 1 }).step e)

/-- The order in which a go-word `i` of engine `e` is checked (07 R154, 11 R264, R272): its completion object, the limit of eight jobs, its own
check `fail`; the job is then added to team `u`. -/
def GoWord (s : State) (n : Nat) (t : Team) (e : Engine) (i : Instr) (j : TuJob) (fail : Option NestFail) (u : Team) : Prop :=
  (∀ c, t.coFault j.co = some c → exec i s = .next (s.trap n u e c 0 0 0)) ∧
  (t.coFault j.co = none →
    (8 ≤ (t.tu e).outstanding → exec i s = .next s) ∧
    ((t.tu e).outstanding < 8 →
      (∀ f, fail = some f → exec i s = .next (s.raise n
        { cause := f.cause, eng := e.num, operand := f.operand, field := f.field, pc := j.pc, addr := BitVec.ofNat 64 f.addr,
          seq := j.seq })) ∧
      (fail = none → exec i s = .next (addJob s n e j u))))

/-! Operations and events of the device's units. -/

/-- The host reaches the device: power is present, the start stands in step 6 and the link of port H is up (19 R429, R437). -/
def HostReaches (s : State) : Prop := s.start.powered = true ∧ s.start.step = 6 ∧ s.host.linkH = true

/-- An event of `s` answers a next state with property `P`. -/
def Answers (i : Instr) (s : State) (P : State → Prop) : Prop := ∃ s', exec i s = .next s' ∧ P s'

/-- Only queue `q` of the device differs. -/
def OnlyQueue (s s' : State) (q : Nat) : Prop := s' = { s with queues := s'.queues } ∧ ∀ r, r ≠ q → s'.queue r = s.queue r

/-- `n` bytes at a virtual address of an ASID read as `bs` for the queue manager, without poison and with nothing to report. -/
def ReadsAs (s : State) (asid va n : Nat) (bs : List Byte) : Prop := s.virtAccess asid va n = (s, some (bs, false))

/-- The queue's block can be read without poison and holds the fields `b`. -/
def BlockIs (s : State) (q : Nat) (b : RingBlk) : Prop :=
  ∃ bs, ReadsAs s (s.queue q).asid.toNat (s.queue q).qcba.toNat 64 bs ∧ b = ringBlk bs

/-- The queue's block can be read without poison and holds the fields `b`, which pass the tests of 03 R49, and its ring can be read. -/
structure BlockSound (s : State) (q : Nat) (b : RingBlk) : Prop where
  read : BlockIs s q b
  fields : b.bad = none
  ring : s.ringOk (s.queue q).asid.toNat b = true

/-- The queue's block cannot be made ACTIVE: the offset of the field and the reason that 03 R49 reports. -/
def BadBlock (s : State) (q off reason : Nat) : Prop :=
  (∃ b, BlockIs s q b ∧ b.bad = some (reason, off)) ∨
  (∃ b, BlockIs s q b ∧ b.bad = none ∧ s.ringOk (s.queue q).asid.toNat b = false ∧ off = 0x10 ∧ reason = 3) ∨
  (∃ bs, s.virtAccess (s.queue q).asid.toNat (s.queue q).qcba.toNat 64 = (s, some (bs, true)) ∧ off = 0 ∧ reason = 4) ∨
  (s.virtAccess (s.queue q).asid.toNat (s.queue q).qcba.toNat 64 = (s, none) ∧ off = 0xFF ∧ reason = 3)

/-- The record at HEAD of a queue that the queue manager consumes (03 R53): unpoisoned, VALID set; `va` and `pa` are its addresses. -/
structure RecordAt (s : State) (q : Nat) (b : RingBlk) (r : List Byte) (va pa : Nat) : Prop where
  active : (s.queue q).st = .active ∧ (s.queue q).watch = none ∧ s.windowAdmits q = true
  block : BlockIs s q b
  some_ : b.head ≠ b.tail
  slot : va = b.slot b.head
  record : ReadsAs s (s.queue q).asid.toNat va 64 r
  valid : fieldAt r 0 1 % 2 = 1
  place : ∃ e, s.walk (s.queue q).asid.toNat va = .ok e ∧ pa = e.pa + (va - e.va)
  turn : s.visitNext = some q

/-- The queue manager clears the record's CTRL and advances HEAD (03 R53). -/
def consumed (s : State) (q : Nat) (b : RingBlk) (va asid qcba : Nat) (cls : Nat) : State :=
  (({ s with sched := { s.sched with visit := s.sched.visit.set cls q } } : State).virtWrite asid va [0]).virtWrite asid (qcba + 8)
    (toBytes 8 (b.head + 1))

/-- A task that waits for nothing (03 R57, R61): each future it waits for has told it that it is READY, none of its edges, queue
predecessors or stamped writes is open, and it is neither cancelled nor being torn down. -/
structure Startable (s : State) (k : Task) : Prop where
  alive : k.stop = none ∧ k.cancelled = none ∧ k.wdStage = 0
  waits : k.waits = [] ∧ k.waitFail = none
  edges : ∀ e ∈ k.edges, ∀ u, s.task? e.1 = some u → e.2 = true ∧ s.allPstarted u = true
  ordered : ∀ u, k.ordered = some u → s.task? u = none
  stamp : ∀ n c, k.stamp = some (n, c) → s.unstamped n k.stampTid k.stampIx c = false

/-- The operation tasks of TYPE 0x07, with their operation (03 R73). -/
def FutureTask (i : Instr) (tid op : Nat) : Prop :=
  (i = .taskFutureResolve tid ∧ op = 1) ∨ (i = .taskFutureFail tid ∧ op = 2) ∨ (i = .taskFutureCancel tid ∧ op = 3) ∨
  (i = .taskFutureFree tid ∧ op = 4) ∨ (i = .taskFutureReset tid ∧ op = 5)

/-- A kernel whose teams may be placed, when its queue's turn has come (03 R65, R66, R81, 04 R82). -/
structure MayPlace (s : State) (tid ix : Nat) (t : Task) (k : Kernel) : Prop where
  task : s.task? tid = some t
  kernel : t.k = some k
  cool : s.power.t3 = false
  unthrottled : s.throttled t.queue = false
  may : s.open_ t = true
  member : ix < k.teams
  waits : s.waits t k ix = true
  turn : s.classTurn (s.queue t.queue).cls.toNat = true

/-- The engine jobs: their event, type, engine index, the elements that the event takes a job on by, and their kind (12 R286). -/
def EngineJob (i : Instr) (tid typ ix n : Nat) (sp : JobSpec) : Prop :=
  (i = .decodeJob ⟨tid, n⟩ ix ∧ typ = 2 ∧ sp = decodeSpec) ∨ (i = .cmuJob ⟨tid, n⟩ ∧ typ = 3 ∧ ix = 0 ∧ sp = cmuSpec) ∨
  (i = .listJob ⟨tid, n⟩ ∧ typ = 4 ∧ ix = 0 ∧ sp = listSpec) ∨
  (∃ m, i = .copyJob ⟨tid, m⟩ ix ∧ n = 2 * ((m + 1) / 2) ∧ typ = 5 ∧ sp = copySpec) ∨
  (i = .collectiveJob ⟨tid, n⟩ ix ∧ typ = 6 ∧ sp = collSpec)

/-- `stop` is the ring stop of engine `ix` of those that serve a task type (05 Table 5-3). -/
def StopOf (typ ix stop : Nat) : Prop := ix < (engineStops (engineKind typ)).2 ∧ stop = (engineStops (engineKind typ)).1 + ix

/-- The job of task `k` may start on the engine at ring stop `stop` (03 R64, 12 R289, 18 Table 18-4). -/
structure JobStarts (s : State) (k : Task) (typ ix stop : Nat) : Prop where
  kind : k.typ = typ
  engine : StopOf typ ix stop
  cool : s.power.t3 = false
  fresh : k.started = false
  may : Startable s k
  context : s.contextTurn k = true
  turn : s.jobTurn k = true
  free : s.engineFree stop = true

/-- The task has started its job on the engine at `stop`; the start is a decision for its queue (03 R51). -/
def jobStarted (s : State) (k : Task) (stop : Nat) : State :=
  (s.updTask k.id fun u => { u with started := true, startTime := s.time.toNat, ring := some stop, stage := 1 }).updQueue k.queue fun q =>
    { q with clsNow := q.cls }

/-- The job of task `k` runs on the engine at `stop`, with elements left to do and nothing that stops it. -/
structure JobRuns (s : State) (k : Task) (typ ix stop : Nat) : Prop where
  kind : k.typ = typ
  engine : StopOf typ ix stop
  runs : k.started = true ∧ k.ring = some stop ∧ k.jobEnd = none
  left_ : k.total ≠ 0
  asked : k.stop = none ∧ k.wdStage = 0
  cool : s.power.t3 = false

/-- A write to HBM on its way, the first of its stream on its line. -/
def FirstOnLine (s : State) (ix : Nat) (w : PWrite) : Prop :=
  s.fabric[ix]? = some w ∧ w.pa < 0x6000000000 ∧ s.lineWaits (w.pa / 128) = false ∧
  ∀ j x, j < ix → s.fabric[j]? = some x → ¬(x.slot = w.slot ∧ x.eng = w.eng ∧ x.pa / 128 = w.pa / 128)

/-- The new contents that an atomic or reduction gives old contents `old` of `w` bits, when it writes (09 R206-R208). -/
def atomicWrites (op size old : Nat) (a b : DWord) : Option Nat :=
  if op ≤ 8 then some (atomResult op (8 * size) old b.toNat)
  else if op = 16 then (if old = a.toNat then some b.toNat else none)
  else if 32 ≤ op ∧ op ≤ 39 then some (atomResult (op - 31) (8 * size) old b.toNat)
  else if op = 40 then some (F32.round .rne (Fl.add .rne (F32.decode old) (F32.decode (b.toNat % 2 ^ 32))))
  else if op = 41 then some (F64.round .rne (Fl.add .rne (F64.decode old) (F64.decode b.toNat)))
  else none

/-- The team of slot `n` may advance its nests and jobs (06 R127, 17 R398, R402, 04 R94). -/
structure Advances (s : State) (n : Nat) (t : Team) : Prop where
  powered : s.start.powered = true
  team : s.team? n = some t
  issues : (s.core (coreOfSlot n)).issuing = some n
  runs : (s.clk (domainOf (coreOfSlot n))).frozen = false
  free : t.inHandler = false ∧ t.pend = none ∧ t.halting = none ∧ t.leaving = false ∧ t.preempt = false ∧ t.kill = none

/-- The cycles of the array step under way, of item `x` of the ME's queue, have passed; no switch holds the ME (13 R338). -/
def StepEnds (t : Team) (x : MeItem) : Prop :=
  t.me.hold = none ∧ t.me.begun = true ∧ t.me.dur ≤ t.me.at_ ∧ t.me.work = some x

/-- The cycles of step `st` of nest `n` have passed (13 R331). -/
def WorksOn (t : Team) (n : Nest) (st : MeStep) : Prop := StepEnds t (.nest n) ∧ n.todo.head? = some st

/-- Element (m, k) of the A tile of a nest: the bits of its planes, as an unsigned or two's-complement number of P bits (13 R324). -/
def aElement (planes : Nat → Nat → Nat → Bool) (p : Nat) (sgn : Bool) (m k : Nat) : Int :=
  ((List.range p).map fun j => if planes j m k then (if sgn ∧ j + 1 = p then -2 ^ j else 2 ^ j : Int) else 0).sum

/-- A number clamped to 32 signed bits. -/
def clamp32 (v : Int) : Int := if v < -2 ^ 31 then -2 ^ 31 else if 2 ^ 31 - 1 < v then 2 ^ 31 - 1 else v

/-- A job of a transfer stream that is next to move: the first, its first request sent, not done (11 R266, R267). -/
def NextJob (t : Team) (e : Engine) (j : TuJob) (r : List TuJob) : Prop := (t.tu e).jobs = j :: r ∧ j.done = false ∧ j.begun = true

/-- An access of port H at an offset of BAR2: its physical address (19 R427). -/
def barAddress (base : DWord) (size off : Nat) : Nat := base.toNat / size * size + off

/-- No L1 holds a line. -/
def InNoL1 (s : State) (ln : Nat) : Prop := ∀ p ∈ s.cores, SMap.get? p.2.l1 ln = none

/-- An AtomicOp (0 FetchAdd, 1 Swap, 2 CAS) on `size` bytes that hold `old` (19 Table 19-1). -/
def atomicOp (op size old : Nat) (a b : DWord) : Nat :=
  match op with
  | 0 => (old + a.toNat) % 2 ^ (8 * size)
  | 1 => a.toNat % 2 ^ (8 * size)
  | _ => if old = a.toNat % 2 ^ (8 * size) then b.toNat % 2 ^ (8 * size) else old

/-- A landing entry once request `id` has completed with `bs` and mark `mark` (19 R429). -/
def filled (l : Landing) (id : Nat) (bs : List Byte) (mark : Bool) : Landing :=
  { l with parts := l.parts.map fun p => if p.req = some id then { p with bytes := bs, mark := mark, req := none } else p }

/-- What a port receives. -/
def sends (s : State) (m : OutMsg) : State := { s with host := { s.host with out := m :: s.host.out } }

/-- The transport of the next request of the management path, and the state once that request has come (log 6). -/
def transport (s : State) : Nat := s.mgmt.arrivals.headD 128
def arrived (s : State) : State := { s with mgmt := { s.mgmt with arrivals := s.mgmt.arrivals.tail } }

/-- The management path answers on a transport: power is present, the start has reached step 2, and the transport is the SMBus at the
configuration block's address, or VDM (128) over the link of port H, which is up once step 6 is reached (19 R435, R437). -/
def Managed (s : State) (via : Nat) : Prop :=
  s.start.powered = true ∧ 2 ≤ s.start.step ∧
  (via = s.start.cfg.smbus.toNat ∨ (via = 128 ∧ s.start.step = 6 ∧ s.host.linkH = true))

/-- An SPDM response of `known` words followed by `words` free ones (19 R435, log 13). -/
def responds (s : State) (via code : Nat) (known : List Nat) (words : Nat) : State :=
  sends { s with free := s.free + words } (.spdm via code (known ++ (List.range words).map fun i => Config.spdmWord (s.free + i)))

end Sys2Proof.Claims
end

