-- ==== Sys2Proof/Certificates/Slice0/Obligations.lean ====
section
/-!
DEFINITION. Sys2Proof/Certificates/Slice0/Obligations.lean: the statements about the machine.  Each docstring names the rules
it formalises; one that rests on a choice of the model says so and names the log entry.
-/
section

open Sys2Proof Sys2Proof.Machine Sys2Proof.Claims

/-! The sequencer: integer words and control flow (09 R190-R197). -/

/-- 09 R191, R192, Table 9-1: every integer word whose sources hold no poison mark writes to d the result that the table
gives, and moves to the next word; nothing else of the team or the device changes. -/
def Sys2Proof.Claims.IntegerWordsGiveTheResultsOfTable91 : Prop :=
  ∀ (s : State) (n : Nat) (t : Team) (d a b : BitVec 6), ∀ w ∈ aluResults d a b (t.s a) (t.s b) (t.s d),
    SqReady s n t w.1 → exec w.1 s = .next (s.setTeam n ((t.setS d w.2).step .sq))

/-- 09 R193, R194: every immediate word, LUI and AUIPC writes to d the result that the rule gives.  The word's own address is
CODE + SECT[SQ].offset + 4 times its index. -/
def Sys2Proof.Claims.ImmediateWordsGiveTheResultsOfR193AndR194 : Prop :=
  ∀ (s : State) (n : Nat) (t : Team) (d a sh : BitVec 6) (imm : BitVec 14) (up : BitVec 20),
    ∀ w ∈ immResults d a imm sh up (t.s a) (t.k.code + (t.k.sect.getD 0 (0, 0)).1 + 4 * t.sq.ctl.pc),
      SqReady s n t w.1 → exec w.1 s = .next (s.setTeam n ((t.setS d w.2).step .sq))

/-- 09 R191-R194, Table 9-1: what every integer word, immediate word, LUI and AUIPC writes, and that it changes nothing else of the state. -/
def Obligations.IntegerAndImmediateWordsGiveTheirResults : Prop :=
  Claims.IntegerWordsGiveTheResultsOfTable91 ∧ Claims.ImmediateWordsGiveTheResultsOfR193AndR194

/-- 09 R190, R200: WriteReg writes d and no other register, discards a write of s0, which reads 0, and clears the poison mark of
d and no other. -/
def Obligations.WriteRegWritesOneRegisterAndDiscardsS0 : Prop :=
  ∀ (t : Team) (d r : BitVec 6) (v : DWord),
    (t.setS d v).s r = (if r = 0 then 0 else if r = d then v else t.s r) ∧
    (Marked (t.setS d v) r ↔ Marked t r ∧ r ≠ d)

/-- 09 R200: a word of the SQ that reads a register with a poison mark raises POISON at the word with the word index of the load
that marked the register, and has no other effect. -/
def Obligations.ReadingAMarkedRegisterRaisesPoison : Prop :=
  ∀ (s : State) (n : Nat) (t : Team) (i : Instr) (l : List (BitVec 6)),
    s.cur? = some (n, t) → sqSources i = some l → (∃ r ∈ l, Marked t r) →
    ∃ r ∈ l, Marked t r ∧
      exec i s = .next (s.raise n { cause := .poison, eng := 0, pc := t.sq.ctl.pc,
                                    info := (SMap.get? t.sq.marks r.toNat).getD 0 })

/-- The frame of the integer and immediate words: only d, its poison mark and the SQ's place in its program change; every other register
and mark of the SQ, every flag and special register, every other engine and team and every byte of memory stay. -/
def Obligations.IntegerWordsLeaveEverythingElseAsItWas : Prop :=
  ∀ (s s' : State) (n : Nat) (t : Team) (d a b sh : BitVec 6) (imm : BitVec 14) (up : BitVec 20) (i : Instr),
    (i ∈ (aluResults d a b 0 0 0).map (·.1) ∨ i ∈ (immResults d a imm sh up 0 0).map (·.1)) →
    SqReady s n t i → exec i s = .next s' →
    OnlyTeam s s' n ∧ SameMemory s s' ∧ ∃ t', s'.team? n = some t' ∧ OnlySqRegister t t' d

/-- 09 R195, R197, Table 9-2: a branch whose target lies in the section goes there when it is taken, at a cost of two cycles, and leaves the
loops whose body does not hold the target; not taken it moves to the next word.  A target outside the section raises ILLOP, taken or
not. -/
def Sys2Proof.Claims.BranchesGoWhereTable92Says : Prop :=
  ∀ (s : State) (n : Nat) (t : Team) (a b : BitVec 6) (o : BitVec 14), ∀ w ∈ branches a b o (t.s a) (t.s b),
    SqReady s n t w.1 →
    (InSection t .sq o.toInt → exec w.1 s = .next (s.setTeam n (
      if w.2 then
        let p := ((t.sq.ctl.pc : Int) + o.toInt).toNat
        t.setCtl .sq { t.sq.ctl with pc := p, loops := loopsAround p t.sq.ctl.loops, busy := t.cycle + 2 }
      else t.step .sq))) ∧
    (¬InSection t .sq o.toInt → exec w.1 s = .next (s.illop n t .sq))

/-- 09 R195, R197; 10, 11, 13: J, VJMP, MJMP and XJMP jump by their offset within their engine's section; an offset of +1 does not branch; a
target outside the section raises ILLOP. -/
def Sys2Proof.Claims.JumpsStayInTheSection : Prop :=
  ∀ (s : State) (n : Nat) (t : Team) (oj : BitVec 26) (ov : BitVec 20) (om : BitVec 28) (ox : BitVec 27),
    s.cur? = some (n, t) →
    (InSection t .sq oj.toInt → exec (.j oj) s = .next (jumpTo s n t .sq oj.toInt)) ∧
    (InSection t .ve ov.toInt → exec (.vjmp ov) s = .next (jumpTo s n t .ve ov.toInt)) ∧
    (InSection t .me om.toInt → exec (.mjmp om) s = .next (jumpTo s n t .me om.toInt)) ∧
    (InSection t s.stream ox.toInt → exec (.xjmp ox) s = .next ((jumpTo s n t s.stream ox.toInt).updTeam n Team.trimPops)) ∧
    (¬InSection t .sq oj.toInt → exec (.j oj) s = .next (s.illop n t .sq)) ∧
    (¬InSection t .ve ov.toInt → exec (.vjmp ov) s = .next (s.illop n t .ve)) ∧
    (¬InSection t .me om.toInt → exec (.mjmp om) s = .next (s.illop n t .me))

/-- 09 R195, R197: JAL links PC + 1 into s63, JALR into d after it has read s[a]; both cost two cycles and pop no loop; a target
outside the section raises ILLOP and links nothing. -/
def Sys2Proof.Claims.CallsLinkAndPopNoLoop : Prop :=
  ∀ (s : State) (n : Nat) (t : Team) (o : BitVec 26) (d a : BitVec 6) (imm : BitVec 14),
    let p := (BitVec.ofInt 64 ((t.s a).toInt + imm.toInt)).toNat
    let go (u : Team) (q : Nat) : Team := u.setCtl .sq { t.sq.ctl with pc := q, busy := t.cycle + 2 }
    (s.cur? = some (n, t) →
      (InSection t .sq o.toInt → exec (.jal o) s = .next (s.setTeam n
        (go (t.setS 63 (BitVec.ofNat 64 (t.sq.ctl.pc + 1))) ((t.sq.ctl.pc : Int) + o.toInt).toNat))) ∧
      (¬InSection t .sq o.toInt → exec (.jal o) s = .next (s.illop n t .sq))) ∧
    (SqReady s n t (.jalr d a imm) →
      (p < t.words .sq → exec (.jalr d a imm) s = .next (s.setTeam n (go (t.setS d (BitVec.ofNat 64 (t.sq.ctl.pc + 1))) p))) ∧
      (t.words .sq ≤ p → exec (.jalr d a imm) s = .next (s.illop n t .sq)))

/-- 09 R195, R197, Table 9-2: where branches, jumps and calls of every engine go, what they cost, which loops they leave, and where they raise ILLOP. -/
def Obligations.BranchesJumpsAndCallsGoToTheirTargets : Prop :=
  Claims.BranchesGoWhereTable92Says ∧ Claims.JumpsStayInTheSection ∧ Claims.CallsLinkAndPopNoLoop

/-- 09 R196, 10, 11, 13: LOOP, VLOOP, MLOOP and XLOOP open a hardware loop over the next `len` words with their count; a count of 0
skips the body, which costs the VE two cycles, and opens nothing. -/
def Sys2Proof.Claims.LoopsOpenWhereTheyMay : Prop :=
  ∀ (s : State) (n : Nat) (t : Team) (e : Engine) (count len : Nat) (i : Instr),
    s.cur? = some (n, t) →
    ((∃ a l, i = .loop a l ∧ ¬Marked t a ∧ e = .sq ∧ count = (t.s a).toNat ∧ len = l.toNat) ∨
     (∃ k l, i = .vloop k l ∧ k.toNat ∉ t.ve.kMarks ∧ e = .ve ∧ count = (t.kreg k).toNat ∧ len = l.toNat) ∨
     (∃ c l, i = .mloop c l ∧ e = .me ∧ count = c.toNat + 1 ∧ len = l.toNat) ∨
     (∃ c l, i = .xloop c l ∧ e = s.stream ∧ count = c.toNat + 1 ∧ len = l.toNat)) →
    MayLoop t e count len →
    let k := t.ctl e
    exec i s = .next (s.setTeam n (t.setCtl e (
      if count = 0 then { k with pc := k.pc + len + 1, busy := if e = .ve then t.cycle + 2 else k.busy }
      else { k with pc := k.pc + 1, loopMark := k.loopMark && !k.loops.isEmpty,
                    loops := { start := k.pc + 1, stop := k.pc + len, count := count, iter := 0 } :: k.loops })))

/-- 09 R196: a LOOP beyond depth 4, or whose body leaves the enclosing loop's, raises LOOPBAD at the LOOP; one whose body reaches the
section's end raises ILLOP. -/
def Sys2Proof.Claims.LoopsThatMayNotOpenTrap : Prop :=
  ∀ (s : State) (n : Nat) (t : Team) (a : BitVec 6) (l : BitVec 13), SqReady s n t (.loop a l) →
    let k := t.sq.ctl
    let leaves : Prop := ∃ o r, k.loops = o :: r ∧ ¬(o.start ≤ k.pc + 1 ∧ k.pc + l.toNat ≤ o.stop)
    let deep : Prop := t.s a ≠ 0 ∧ 4 ≤ k.loops.length
    (deep ∨ leaves → exec (.loop a l) s = .next (s.trap n t .sq .loopbad 0 0 0)) ∧
    (¬deep → ¬leaves → t.words .sq ≤ k.pc + l.toNat → exec (.loop a l) s = .next (s.illop n t .sq))

/-- 09 R196: at a word that is not a taken control word the engine moves to the next word; at the end word of its innermost loop it goes to
the start with the count one lower while iterations remain, and otherwise leaves the loop and goes on after the end word, which costs the
VE two cycles (log 38).  Nothing else of the team changes. -/
def Sys2Proof.Claims.TheEndWordOfALoopGoesRoundOrLeaves : Prop :=
  ∀ (t : Team) (e : Engine), e ≠ .gq →
    (∃ k, t.step e = t.setCtl e k ∧
      k = (match (t.ctl e).loops with
        | [] => { t.ctl e with pc := (t.ctl e).pc + 1 }
        | l :: r =>
          if (t.ctl e).pc ≠ l.stop then { t.ctl e with pc := (t.ctl e).pc + 1 }
          else if l.count ≤ 1 then { t.ctl e with
            pc := (t.ctl e).pc + 1, loops := r, busy := if e = .ve then t.cycle + 2 else (t.ctl e).busy }
          else { t.ctl e with pc := l.start, loops := { l with count := l.count - 1, iter := l.iter + 1 } :: r }))

/-- 09 R196: how hardware loops of every engine open, trap, go round and end. -/
def Obligations.LoopsOpenTurnAndTrap : Prop :=
  Claims.LoopsOpenWhereTheyMay ∧ Claims.LoopsThatMayNotOpenTrap ∧ Claims.TheEndWordOfALoopGoesRoundOrLeaves

/-! The sequencer: memory, ordering and caches (09 R198-R211, R225). -/

/-- 09 R198, R199, 06 R124: a load of a page that bypasses the L1 takes an entry of the landing buffer with the bytes that memory holds at
its address and the cycle it names; a full buffer makes it wait; a failed lookup is precise at the load. -/
def Sys2Proof.Claims.LoadsTakeTheirBytesIntoTheLandingBuffer : Prop :=
  ∀ (s : State) (n : Nat) (t : Team) (d b r : BitVec 6) (p : BitVec 8), ∀ w ∈ loads d b r p, SqReady s n t w.1 →
    let ea := addressM t b p w.2.1
    (16 ≤ t.sq.landing.length → exec w.1 s = .next s) ∧
    (t.sq.landing.length < 16 →
      (∀ f, kttLookup (s.kslot n t) ea .r = .error f → exec w.1 s = .next (s.kttTrap n t .sq 7 f)) ∧
      (∀ e pa, Reaches s n t .r ea w.2.1 e pa → Bypasses n e → Settled s n →
        exec w.1 s = .next (loading s n t d w.2.1 w.2.2
          (if r = 0 ∨ t.inHandler then none else some (t.cycle + max r.toNat 4)) ea pa)))

/-- 09 R199, 06 Table 6-2: a load of bytes that the core's L1 holds clean takes them, and the poison of their granules, at its issue, and names
the cycle it asks for, or, asking for none, the fourth after its issue.  While a handler runs, whose cycles are not counted, one that asks for none writes d
at once (log 8). -/
def Sys2Proof.Claims.LoadsOfCleanL1LinesNameACycle : Prop :=
  ∀ (s : State) (n : Nat) (t : Team) (d b r : BitVec 6) (p : BitVec 8), ∀ w ∈ loads d b r p, SqReady s n t w.1 →
    ∀ e pa l, t.sq.landing.length < 16 → Reaches s n t .r (addressM t b p w.2.1) w.2.1 e pa → Settled s n →
      cacheable e.order e.l1c (coreOfSlot n) = true → pa % 128 + w.2.1 ≤ 128 →
      SMap.get? (s.core (coreOfSlot n)).l1 (pa / 128) = some l → l.dirty = 0 →
      let marked := (unitsOf 64 (pa % 128) w.2.1).any fun g => l.marks.getLsbD g
      (t.inHandler = false → exec w.1 s = .next (s.setTeam n (addLoad
        { d := d.toNat, pc := t.sq.ctl.pc, named := some (t.cycle + max r.toNat 4), size := w.2.1, sgn := w.2.2, arrived := true,
          parts := [{ bytes := ((toBytes 128 l.data.toNat).drop (pa % 128)).take w.2.1, mark := marked, va := addressM t b p w.2.1,
                      ln := pa / 128 }] } t))) ∧
      (t.inHandler = true → exec w.1 s = .next (s.setTeam n ((t.loadS d.toNat
        (loaded w.2.1 w.2.2 (l.data.toNat / 2 ^ (8 * (pa % 128)) % 2 ^ (8 * w.2.1))) marked t.sq.ctl.pc).step .sq)))

/-- 09 R198-R200: the loads, past the L1 and out of it. -/
def Obligations.LoadsTakeTheirBytes : Prop :=
  Claims.LoadsTakeTheirBytesIntoTheLandingBuffer ∧ Claims.LoadsOfCleanL1LinesNameACycle

/-- 09 R201, 03 R57: a store of a page that bypasses the L1 completes at issue: its bytes are on their way and counted; a failed lookup is
precise at the store.  Memory itself changes when the write is performed. -/
def Sys2Proof.Claims.StoresSendTheirBytes : Prop :=
  ∀ (s : State) (n : Nat) (t : Team) (d b : BitVec 6) (p : BitVec 8), ∀ w ∈ stores d b p, SqReady s n t w.1 →
    let ea := addressM t b p w.2
    (∀ f, kttLookup (s.kslot n t) ea .w = .error f → exec w.1 s = .next (s.kttTrap n t .sq 8 f)) ∧
    (∀ e pa, Reaches s n t .w ea w.2 e pa → Bypasses n e → Calm s n →
      exec w.1 s = .next (storing s n t ea e pa (toBytes w.2 (t.s d).toNat)))

/-- 09 R198, R201, 11 R260: a store into a line that the L1 holds writes the line's bytes and marks them dirty, the team owning the line;
memory keeps its bytes. -/
def Sys2Proof.Claims.StoresIntoTheL1MakeTheirBytesDirty : Prop :=
  ∀ (s : State) (n : Nat) (t : Team) (d b : BitVec 6) (p : BitVec 8), ∀ w ∈ stores d b p, SqReady s n t w.1 →
    ∀ e pa l, Reaches s n t .w (addressM t b p w.2) w.2 e pa → Settled s n →
      cacheable e.order e.l1c (coreOfSlot n) = true → pa % 128 + w.2 ≤ 128 →
      SMap.get? (s.core (coreOfSlot n)).l1 (pa / 128) = some l →
      ∃ s', exec w.1 s = .next s' ∧ SameMemory s s' ∧
        s'.team? n = some (({ t with wIssued := t.wIssued + 1 } : Team).step .sq) ∧
        ∃ l', SMap.get? (s'.core (coreOfSlot n)).l1 (pa / 128) = some l' ∧ n ∈ l'.owners ∧
          ∀ i, i < 1024 → l'.data.getLsbD i =
              (if 8 * (pa % 128) ≤ i ∧ i < 8 * (pa % 128) + 8 * w.2 then (t.s d).getLsbD (i - 8 * (pa % 128)) else l.data.getLsbD i) ∧
            (i < 128 → l'.dirty.getLsbD i = (decide (pa % 128 ≤ i ∧ i < pa % 128 + w.2) || l.dirty.getLsbD i))

/-- 09 R198, R201: the stores, past the L1 and into it. -/
def Obligations.StoresSendOrKeepTheirBytes : Prop :=
  Claims.StoresSendTheirBytes ∧ Claims.StoresIntoTheL1MakeTheirBytesDirty

/-- 15 R359, 17 R406: a write that its home slice performs changes the bytes it stores and no other byte of memory. -/
def Sys2Proof.Claims.PerformedWritesChangeTheirBytesOnly : Prop :=
  ∀ (s : State) (pa a : Nat) (bs : List Byte) (mark : Bool),
    readByte (s.performBytes pa bs mark).mem a = (if pa ≤ a ∧ a < pa + bs.length then bs.getD (a - pa) 0 else readByte s.mem a)

/-- 09 R202: LDS reads `2^z` bytes of the team's scratchpad, sign-extends them and writes d, marked when a beat is poisoned; STS writes the low bytes of s[d].
Misalignment raises ALIGN, an address outside the team's banks SPOOB, in this order. -/
def Sys2Proof.Claims.ScratchpadWordsReadAndWriteTheirBytes : Prop :=
  ∀ (s : State) (n : Nat) (t : Team) (d a : BitVec 6) (z : BitVec 2) (o : BitVec 12),
    let size := 2 ^ z.toNat
    let la := (BitVec.ofInt 64 ((t.s a).toNat + o.toInt)).toNat
    (∀ i, i = .lds d a z o ∨ i = .sts d a z o → SqReady s n t i →
      (la % size ≠ 0 → exec i s = .next (s.trap n t .sq .align 0 (la % 2 ^ 23) 0)) ∧
      (la % size = 0 → t.bankCount * 0x20000 < la + size → exec i s = .next (s.trap n t .sq .spoob 0 (la % 2 ^ 23) 0))) ∧
    (la % size = 0 → la + size ≤ t.bankCount * 0x20000 →
      (SqReady s n t (.lds d a z o) → exec (.lds d a z o) s = .next (s.setTeam n
        ((t.loadS d.toNat (loaded size true (ofBytes (t.spRead la size))) (t.spMarked la size) t.sq.ctl.pc).step .sq))) ∧
      (SqReady s n t (.sts d a z o) → exec (.sts d a z o) s = .next (s.setTeam n
        ((t.spStore la (toBytes size (t.s d).toNat)).step .sq))))

/-- 11 R255, 14 R349: a partial write of scratchpad changes the bytes it stores and no other, and of the team nothing but scratchpad, its poison
marks, its tile directory, and what a TDSCAN and jobs have covered of the dtiles it writes. -/
def Sys2Proof.Claims.ScratchpadStoresChangeTheirBytesOnly : Prop :=
  ∀ (t : Team) (la a : Nat) (bs : List Byte),
    (t.spStore la bs).spByte a = (if la ≤ a ∧ a < la + bs.length then bs.getD (a - la) 0 else t.spByte a) ∧
    OnlyScratchpad t (t.spStore la bs)

/-- 15 R359, 11 R255: a write that is performed changes the bytes it stores, in memory or in scratchpad, and no other byte. -/
def Obligations.WritesChangeTheirBytesOnly : Prop :=
  Claims.PerformedWritesChangeTheirBytesOnly ∧ Claims.ScratchpadStoresChangeTheirBytesOnly

/-- 09 R203, Table 9-3: LDP of an unbound window raises PWUNB, of a misaligned offset ALIGN; wholly inside SIZE it is an untimed load; across SIZE it
loads the bytes below SIZE, the others being 0, and at or beyond SIZE it writes 0; both set STATUS.PWOOB. -/
def Sys2Proof.Claims.ParameterLoadsFollowTable93 : Prop :=
  ∀ (s : State) (n : Nat) (t : Team) (d a : BitVec 6) (w : BitVec 3) (o : BitVec 11), SqReady s n t (.ldp d a w o) →
    let off := (t.s a + BitVec.ofNat 64 (8 * o.toNat)).toNat
    ((∀ win, t.k.wins[w.toNat]? = some win → win.bound = false) → exec (.ldp d a w o) s = .next (s.trap n t .sq .pwunb 0 0 0)) ∧
    (∀ win, t.k.wins[w.toNat]? = some win → win.bound = true →
      let ea := (win.base + off) % 2 ^ 64
      (off % 8 ≠ 0 → exec (.ldp d a w o) s = .next (s.trap n t .sq .align 0 ea 0)) ∧
      (off % 8 = 0 → off + 8 ≤ win.size → t.sq.landing.length < 16 → ∀ e pa, Reaches s n t .r ea 8 e pa → Bypasses n e →
        Settled s n → exec (.ldp d a w o) s = .next (loading s n t d 8 false none ea pa)) ∧
      (off % 8 = 0 → off < win.size → win.size < off + 8 → t.sq.landing.length < 16 →
        ∀ e pa, Reaches s n t .r ea (win.size - off) e pa → Bypasses n e → Settled s n →
        exec (.ldp d a w o) s = .next (loading s n { t with status := t.status ||| 1 } d (win.size - off) false none ea pa)) ∧
      (off % 8 = 0 → win.size ≤ off →
        exec (.ldp d a w o) s = .next (s.setTeam n (({ t.setS d 0 with status := t.status ||| 1 } : Team).step .sq))))

/-- 09 R202, R203: LDS, STS and LDP with their checks. -/
def Obligations.ScratchpadAndParameterWords : Prop :=
  Claims.ScratchpadWordsReadAndWriteTheirBytes ∧ Claims.ParameterLoadsFollowTable93

/-- 09 R204, 15 R363, R365: LDA at team scope, or on a UO page, is a load; at a wider scope it also does what an acquire does to the L1.  STL on a UO
page is a store; on another page the team's earlier writes are performed before it.  Misalignment raises ALIGN. -/
def Sys2Proof.Claims.OrderedAccessesAcquireAndRelease : Prop :=
  ∀ (s : State) (n : Nat) (t : Team) (d a : BitVec 6) (u : BitVec 1) (z c : BitVec 2),
    let size := 2 ^ z.toNat
    let ea := (t.s a).toNat
    (SqReady s n t (.lda d a u z c) → ¬(u = 1 ∧ z = 3) →
      (ea % size ≠ 0 → exec (.lda d a u z c) s = .next (s.trap n t .sq .align 0 ea 0)) ∧
      (ea % size = 0 → t.sq.landing.length < 16 → ∀ e pa, Reaches s n t .r ea size e pa → Bypasses n e → Settled s n →
        (c = 0 ∨ e.order = 0 → exec (.lda d a u z c) s = .next (loading s n t d size (decide (u = 0)) none ea pa)) ∧
        (c ≠ 0 → e.order ≠ 0 →
          exec (.lda d a u z c) s = .next ((s.invalidateKinds n [1]).updTeam n
            (addLoad (loadOf s t d size (decide (u = 0)) none ea pa)))))) ∧
    (SqReady s n t (.stl d a z c) →
      (ea % size ≠ 0 → exec (.stl d a z c) s = .next (s.trap n t .sq .align 0 ea 0)) ∧
      (ea % size = 0 → ∀ e pa, Reaches s n t .w ea size e pa → Bypasses n e →
        (e.order = 0 → Calm s n → exec (.stl d a z c) s = .next (storing s n t ea e pa (toBytes size (t.s d).toNat))) ∧
        (e.order = 1 → Quiet s n t → exec (.stl d a z c) s = .next (storing s n t ea e pa (toBytes size (t.s d).toNat)))))

/-- 09 R206-R208, 15 R370: an atomic or reduction that is not a release goes to the write queue of its home slice with its operands, order and
scope, and counts in the write-drain count; CAS carries the value it expects.  Misalignment raises ALIGN. -/
def Sys2Proof.Claims.AtomicsGoToTheirHomeSlice : Prop :=
  ∀ (s : State) (n : Nat) (t : Team) (d a b : BitVec 6) (o c : BitVec 2) (z p : BitVec 1),
    let ea := (t.s a).toNat
    let sent (i : Instr) (order size : Nat) (x : PAtom) : Prop := SqReady s n t i →
      (ea % size ≠ 0 → exec i s = .next (s.trap n t .sq .align 0 ea 0)) ∧
      (ea % size = 0 → ∀ e pa, Reaches s n t .rw ea size e pa → e.order ≠ 2 → (order < 2 ∨ e.order = 0) → Settled s n →
        exec i s = .next (atomizing s n t { x with
          va := ea, pa := pa, size := size, tagged := e.sreg.isSome, acq := decide (order = 1 ∧ e.order ≠ 0), scope := c.toNat }))
    let x0 : PAtom := { slot := n, tid := 0, pc := 0, seq := 0, asid := 0, va := 0, pa := 0, op := 0, size := 0, a := 0, b := 0, d := none,
                        tagged := false }
    (∀ w ∈ atomics d a b o c, sent w.1 o.toNat 8 { x0 with op := w.2, a := t.s b, b := t.s b, d := some d.toNat }) ∧
    sent (.cas d a b o c) o.toNat 8 { x0 with op := 16, a := t.s d, b := t.s b, d := some d.toNat } ∧
    (∀ w ∈ reductions z a b p c, sent w.1 (2 * p.toNat) w.2.2 { x0 with op := w.2.1, b := t.s b })

/-- 09 R206-R208, 15 R362, R363: an atomic or reduction that is a release on an RC page, with nothing of the team under way, goes to its home slice in the same
way. -/
def Sys2Proof.Claims.ReleasingAtomicsFollowTheTeamsWrites : Prop :=
  ∀ (s : State) (n : Nat) (t : Team) (d a b : BitVec 6) (o c : BitVec 2) (z p : BitVec 1),
    let ea := (t.s a).toNat
    let sent (i : Instr) (size : Nat) (acq : Bool) (x : PAtom) : Prop := SqReady s n t i →
      ea % size = 0 → ∀ e pa, Reaches s n t .rw ea size e pa → e.order = 1 → Quiet s n t →
        exec i s = .next (atomizing s n t { x with
          va := ea, pa := pa, size := size, tagged := e.sreg.isSome, acq := acq, scope := c.toNat })
    let x0 : PAtom := { slot := n, tid := 0, pc := 0, seq := 0, asid := 0, va := 0, pa := 0, op := 0, size := 0, a := 0, b := 0, d := none,
                        tagged := false }
    (2 ≤ o.toNat → ∀ w ∈ atomics d a b o c, sent w.1 8 (decide (o = 3)) { x0 with op := w.2, a := t.s b, b := t.s b, d := some d.toNat }) ∧
    (2 ≤ o.toNat → sent (.cas d a b o c) 8 (decide (o = 3)) { x0 with op := 16, a := t.s d, b := t.s b, d := some d.toNat }) ∧
    (p = 1 → ∀ w ∈ reductions z a b p c, sent w.1 w.2.2 false { x0 with op := w.2.1, b := t.s b })

/-- 09 R206-R208, 15 R370: the atomics and reductions, of every order. -/
def Obligations.AtomicsAndReductionsGoToTheirHomeSlice : Prop :=
  Claims.AtomicsGoToTheirHomeSlice ∧ Claims.ReleasingAtomicsFollowTheTeamsWrites

/-- 09 R205, 15 R365, R367: a fence of a team that has nothing under way completes; at cluster scope or wider an acquiring one invalidates the team's clean lines of RC
pages, and a full one of UO pages too.  A releasing fence waits while a store of the SQ is on its way, an acquiring one while a load is. -/
def Sys2Proof.Claims.FencesWaitThenComplete : Prop :=
  ∀ (s : State) (n : Nat) (t : Team) (c : BitVec 2), ∀ w ∈ fences c, SqReady s n t w.1 →
    (Quiet s n t → exec w.1 s = .next (
      (if w.2.1 ∧ 1 ≤ w.2.2.2 then s.invalidateKinds n (if w.2.2.1 then [0, 1] else [1]) else s).updTeam n fun u =>
        ({ u with waitDrain := none } : Team).step .sq)) ∧
    (w.2.2.2 = 0 → (w.2.1 = true ∧ t.sq.landing ≠ []) ∨
        (w.2.2.1 = true ∧ t.waitDrain = none ∧ ∃ x ∈ s.fabric, x.slot = some n ∧ x.eng = 0 ∧ x.num ≤ t.wIssued) →
      exec w.1 s = .next (s.setTeam n { t with waitDrain := some (t.waitDrain.getD t.wIssued) }))

/-- 09 R204, R205, 15 R363-R367: LDA, STL and the fences. -/
def Obligations.OrderedAccessesAndFences : Prop :=
  Claims.OrderedAccessesAcquireAndRelease ∧ Claims.FencesWaitThenComplete

/-- 09 R209, R210: LDBLK declares block f with the physical lines its addresses translate to and clears its flag; BLKWAIT goes on when the flag is set or no block stands, and
waits otherwise; BLKFREE frees the block.  A number of 32 or more raises ILLOP, a misaligned address ALIGN. -/
def Sys2Proof.Claims.LoadBlocksAreDeclaredAwaitedAndFreed : Prop :=
  ∀ (s : State) (n : Nat) (t : Team) (f a k : BitVec 6),
    let ea := (t.s a).toNat
    (SqReady s n t (.ldblk f a k) →
      (32 ≤ f.toNat → exec (.ldblk f a k) s = .next (s.illop n t .sq)) ∧
      (f.toNat < 32 → ea % 128 ≠ 0 → exec (.ldblk f a k) s = .next (s.trap n t .sq .align 0 ea 0)) ∧
      (f.toNat < 32 → ea % 128 = 0 → ∀ ls, lineLookups (s.kslot n t) .r (k.toNat + 1) ea = .ok ls →
        (∀ l ∈ ls, cacheable l.2.2.2.order l.2.2.2.l1c (coreOfSlot n) = true) →
        let blk : Block := { lines := ls.map fun l => (l.1, l.2.1), decl := s.time.toNat, flag := false }
        exec (.ldblk f a k) s = .next (s.setTeam n (({ t with blocks := SMap.insert t.blocks f.toNat blk } : Team).step .sq)))) ∧
    (s.cur? = some (n, t) → f.toNat < 32 →
      ((∀ b, SMap.get? t.blocks f.toNat = some b → b.flag = true) → exec (.blkwait f) s = .next (s.setTeam n (t.step .sq))) ∧
      ((∃ b, SMap.get? t.blocks f.toNat = some b ∧ b.flag = false) → exec (.blkwait f) s = .next s) ∧
      exec (.blkfree f) s = .next (s.setTeam n (({ t with blocks := SMap.erase t.blocks f.toNat } : Team).step .sq)))

/-- 09 R225: CWB, CINV and CWBI act on one line of the range a step: CWB writes its dirty bytes back, CINV drops it, CWBI does both; a line of a page
the L1 does not hold is untouched; after the last line the word completes. -/
def Sys2Proof.Claims.CacheMaintenanceActsLineByLine : Prop :=
  ∀ (s : State) (n : Nat) (t : Team) (a : BitVec 6) (k : BitVec 10),
    let ea := (t.s a).toNat
    let done := t.scan.getD 0
    let c := coreOfSlot n
    ∀ w ∈ [(Instr.cwb a k, Acc.r, fun (s : State) ln => s.l1WriteBack c ln), (.cinv a k, .w, fun s ln => s.l1Drop c ln),
           (.cwbi a k, .w, fun s ln => (s.l1WriteBack c ln).l1Drop c ln)],
      SqReady s n t w.1 →
      (ea % 128 ≠ 0 → exec w.1 s = .next (s.trap n t .sq .align 0 ea 0)) ∧
      (ea % 128 = 0 → ∀ l r, lineLookups (s.kslot n t) w.2.1 (k.toNat + 1 - done) ((ea + 128 * done) % 2 ^ 64) = .ok (l :: r) →
        exec w.1 s = .next (
          (if cacheable l.2.2.2.order l.2.2.2.l1c c then w.2.2 s l.1 else s).updTeam n fun u =>
            if r = [] then ({ u with scan := none } : Team).step .sq else { u with scan := some (done + 1) }))

/-- 09 R209, R210, R225: load blocks and the cache maintenance words. -/
def Obligations.LoadBlocksAndCacheMaintenance : Prop :=
  Claims.LoadBlocksAreDeclaredAwaitedAndFreed ∧ Claims.CacheMaintenanceActsLineByLine

/-! The sequencer: channels, barriers, engines, special registers, traps and team control (06, 09 R212-R217, R226, 17). -/

/-- 06 R131-R133, Table 6-6, 09 R212: CHWF and CHAC go on when the next slots to consume were full at the end of the previous cycle, CHWE and
CHAP when the next slots to produce were empty; CHAP then fills its slots and moves P, CHAC empties its slots and moves C; otherwise the word waits.
An undeclared channel and a count above the slot count raise CHBAD. -/
def Sys2Proof.Claims.ChannelWordsFollowTable66 : Prop :=
  ∀ (s : State) (n : Nat) (t : Team) (k : BitVec 6) (c : BitVec 4), s.cur? = some (n, t) →
    let ch := t.chan c.toNat
    let cnt := k.toNat + 1
    (t.chanDecl c.toNat = none → ∀ i ∈ [Instr.chwf k c, .chwe k c, .chap k c, .chac k c],
      exec i s = .next (s.trap n t .sq .chbad 0 0 0)) ∧
    (∀ d, t.chanDecl c.toNat = some d →
      (d.slots < cnt → ∀ i ∈ [Instr.chwf k c, .chwe k c, .chap k c, .chac k c], exec i s = .next (s.trap n t .sq .chbad 0 0 0)) ∧
      (cnt ≤ d.slots →
        (AllIn ch.shown d.slots ch.c cnt → exec (.chwf k c) s = .next (s.setTeam n ((t.setChan c.toNat ch).step .sq)) ∧
          ∃ u : Chan, exec (.chac k c) s = .next (s.setTeam n ((t.setChan c.toNat u).step .sq)) ∧
            u = { ch with full := u.full, c := (ch.c + cnt) % d.slots } ∧
            ∀ j, j ∈ u.full ↔ j ∈ ch.full ∧ ∀ i < cnt, j ≠ (ch.c + i) % d.slots) ∧
        (¬AllIn ch.shown d.slots ch.c cnt → exec (.chwf k c) s = .next s ∧ exec (.chac k c) s = .next s) ∧
        (NoneIn ch.shown d.slots ch.p cnt → exec (.chwe k c) s = .next (s.setTeam n ((t.setChan c.toNat ch).step .sq)) ∧
          ∃ u : Chan, exec (.chap k c) s = .next (s.setTeam n ((t.setChan c.toNat u).step .sq)) ∧
            u = { ch with full := u.full, p := (ch.p + cnt) % d.slots } ∧
            ∀ j, j ∈ u.full ↔ j ∈ ch.full ∨ ∃ i < cnt, j = (ch.p + i) % d.slots) ∧
        (¬NoneIn ch.shown d.slots ch.p cnt → exec (.chwe k c) s = .next s ∧ exec (.chap k c) s = .next s)))

/-- 09 R212, Table 9-4: CHST writes d with the count of full slots and the indices C and P as they stood at the end of the previous cycle. -/
def Sys2Proof.Claims.ChannelStateIsThatOfThePreviousCycle : Prop :=
  ∀ (s : State) (n : Nat) (t : Team) (d : BitVec 6) (c : BitVec 4), s.cur? = some (n, t) →
    (t.chanDecl c.toNat = none → exec (.chst d c) s = .next (s.trap n t .sq .chbad 0 0 0)) ∧
    ((t.chanDecl c.toNat).isSome → exec (.chst d c) s = .next (s.setTeam n ((t.setS d (BitVec.ofNat 64
      ((t.chan c.toNat).shown.length * 2 ^ 16 + (t.chan c.toNat).shownC * 2 ^ 8 + (t.chan c.toNat).shownP))).step .sq)))

/-- 06 R131-R133, 09 R212: the channel words. -/
def Obligations.ChannelWordsMoveAndReadTheirChannel : Prop :=
  Claims.ChannelWordsFollowTable66 ∧ Claims.ChannelStateIsThatOfThePreviousCycle

/-- 09 R213, 06 R134-R136: BINIT, BARR and BEXP ask their step of the object in the cycle under way; BWAIT, VWAITB, MWAITB and XWAITB go on
when the object's PHASE differs from the phase they name, and wait otherwise; an undeclared object raises ILLOP. -/
def Sys2Proof.Claims.BarrierWordsActInTheirCycle : Prop :=
  ∀ (s : State) (n : Nat) (t : Team) (a : BitVec 6) (b : BitVec 5) (k : BitVec 4) (p : BitVec 1), s.cur? = some (n, t) →
    (t.barDecl b.toNat = none →
      exec (.binit b) s = .next (s.illop n t .sq) ∧ exec (.barr b) s = .next (s.illop n t .sq)) ∧
    (∀ d, t.barDecl b.toNat = some d →
      let ask (x : BarStep) : Team := { t with barSteps := t.barSteps ++ [(d, x)] }
      exec (.binit b) s = .next (s.setTeam n ((ask .init).step .sq)) ∧
      exec (.barr b) s = .next (s.setTeam n ((ask .arrive).step .sq)) ∧
      (¬Marked t a → exec (.bexp a b) s = .next (s.setTeam n ((ask (.expect ((t.s a).setWidth 32).toInt)).step .sq))) ∧
      (¬Marked t a → exec (.bwait a b) s = .next (if (t.bar d).phase = (t.s a).getLsbD 0 then s else s.setTeam n (t.step .sq))) ∧
      (k.toNat ∉ t.ve.kMarks →
        exec (.vwaitb k b) s = .next (if (t.bar d).phase = (t.kreg k).getLsbD 0 then s else s.setTeam n (t.step .ve))) ∧
      exec (.mwaitb b p 0) s = .next (if (t.bar d).phase = decide (p = 1) then s else s.setTeam n (t.step .me)) ∧
      exec (.xwaitb b p 0) s = .next (if (t.bar d).phase = decide (p = 1) then s else s.setTeam n (t.step s.stream)))

/-- 07 R152, 06 R136: with TOG a barrier wait of the ME or a transfer stream names the phase that alternates with the iteration of the innermost open
loop, and outside a loop it raises ILLOP. -/
def Sys2Proof.Claims.TogglingWaitsFollowTheLoop : Prop :=
  ∀ (s : State) (n : Nat) (t : Team) (b : BitVec 5) (p : BitVec 1) (d : BarDecl),
    s.cur? = some (n, t) → t.barDecl b.toNat = some d →
    ∀ w ∈ [(Instr.mwaitb b p 1, Engine.me), (.xwaitb b p 1, s.stream)],
      ((t.ctl w.2).loops = [] → exec w.1 s = .next (s.illop n t w.2)) ∧
      (∀ l r, (t.ctl w.2).loops = l :: r → exec w.1 s = .next (
        if (t.bar d).phase = decide ((p.toNat + l.iter) % 2 = 1) then s else s.setTeam n (t.step w.2)))

/-- 06 R135: in one cycle an object adds what it is told to expect, takes away what lands, which overruns, setting BYTEOVER, when it goes below 0 with PEND = 0, and takes
its arrivals, one beyond PEND being discarded and setting ARROVER; it then completes its phase when PEND and PBYTES are 0: PHASE turns, PEND is EXP again and COUNT is one more.  A BINIT
of the cycle comes last and leaves the object in phase 0 with EXP arrivals pending.  The flag says whether something overran. -/
def Sys2Proof.Claims.ACycleOfABarrierObjectFollowsR135 : Prop :=
  ∀ (b : Bar) (l : List BarStep), b.pbytes < 2 ^ 32 →
    let told : Int := (l.map fun x => match x with | .expect n => n | _ => 0).sum
    let lands : List Nat := l.filterMap fun x => match x with | .land n => some n | _ => none
    let arrivals : Nat := (l.filter (· = .arrive)).length
    let at_ (k : Nat) : Int := ((b.pbytes : Int) + told - (lands.take k).sum) % 2 ^ 32
    let below : Bool := decide (b.pend = 0 ∧ ∃ k < lands.length, 2 ^ 31 ≤ at_ (k + 1))
    let beyond : Bool := decide (b.pend < arrivals)
    let pend := b.pend - arrivals
    let left := (at_ lands.length).toNat
    (b.cycle l).2 = (below || beyond) ∧
    (.init ∈ l → (b.cycle l).1 = Bar.mk b.exp false false false b.exp 0 0) ∧
    (.init ∉ l → (b.cycle l).1 =
      { exp := b.exp, arrover := b.arrover || beyond, byteover := b.byteover || below,
        phase := if pend = 0 ∧ left = 0 then !b.phase else b.phase,
        pend := if pend = 0 ∧ left = 0 then b.exp else pend, pbytes := left,
        count := if pend = 0 ∧ left = 0 then (b.count + 1) % 2 ^ 32 else b.count })

/-- 06 R134-R136, 09 R213: the barrier words and what a cycle does to an object. -/
def Obligations.BarrierWordsActAndWait : Prop :=
  Claims.BarrierWordsActInTheirCycle ∧ Claims.TogglingWaitsFollowTheLoop ∧ Claims.ACycleOfABarrierObjectFollowsR135

/-- 09 R214: ESTOP stops every running engine it names, ESTART lets a stopped one go on where it stopped and an ended one start at word 0 with no loop open, and EWAIT goes on
when every engine it names is stopped or ended with no nest or job outstanding; a mask that names no engine, or one the team does not have, raises ILLOP.  17 R402: in the
handler ESTART and EWAIT raise ILLOP, and every engine that ESTOP names is stopped with its nests and jobs discarded. -/
def Sys2Proof.Claims.EngineControlFollowsR214 : Prop :=
  ∀ (s : State) (n : Nat) (t : Team) (m : BitVec 5), s.cur? = some (n, t) →
    ((∀ es, ¬Names t m es) → ∀ i ∈ [Instr.estart m, .estop m, .ewait m], exec i s = .next (s.illop n t .sq)) ∧
    (∀ es, Names t m es → t.inHandler = false →
      (∃ u : Team, u = es.foldl (fun u e => u.updCtl e EngCtl.start) t ∧ exec (.estart m) s = .next (s.setTeam n (u.step .sq)) ∧
        ∀ e, u.ctl e = (if e ∈ es then
          (match (t.ctl e).st with
           | .running => t.ctl e
           | .stopped => { t.ctl e with st := .running }
           | .ended => { t.ctl e with st := .running, pc := 0, loops := [], swpt := none })
          else t.ctl e)) ∧
      (∃ u : Team, u = es.foldl (fun u e => u.updCtl e EngCtl.stop) t ∧
        exec (.estop m) s = .next ((s.setTeam n (u.step .sq)).swptArm n) ∧
        ∀ e, u.ctl e = (if e ∈ es ∧ (t.ctl e).st = .running then { t.ctl e with st := .stopped, swpt := none } else t.ctl e)) ∧
      ((∀ e ∈ es, (t.ctl e).st ≠ .running ∧ t.outstanding e = false) → exec (.ewait m) s = .next (s.setTeam n (t.step .sq))) ∧
      ((∃ e ∈ es, (t.ctl e).st = .running ∨ t.outstanding e = true) → exec (.ewait m) s = .next s)) ∧
    (∀ es, Names t m es → t.inHandler = true →
      exec (.estart m) s = .next (s.illop n t .sq) ∧ exec (.ewait m) s = .next (s.illop n t .sq) ∧
      ∃ u : Team, exec (.estop m) s = .next (s.setTeam n (u.step .sq)) ∧
        ∀ e, (e ∈ es → u.ctl e = { t.ctl e with st := .stopped, swpt := none } ∧ u.outstanding e = false) ∧
          (e ∉ es → u.ctl e = t.ctl e ∧ u.outstanding e = t.outstanding e))

/-- 10, 11, 13, 09 R214: VEND, MEND and XEND end their engine's stream; the other engines of the team go on, and a switch point at which they all stand is
taken up. -/
def Sys2Proof.Claims.EndWordsEndTheirStream : Prop :=
  ∀ (s : State) (n : Nat) (t : Team), s.cur? = some (n, t) →
    ∀ w ∈ [(Instr.vend, Engine.ve), (.mend, .me), (.xend, s.stream)],
      exec w.1 s = .next ((s.setTeam n (t.setCtl w.2 { t.ctl w.2 with st := .ended })).swptArm n)

/-- 07 Table 7-13, 09 R216: MFS writes d, and KMFS k[r], with the value of the special register it names. -/
def Sys2Proof.Claims.SpecialRegistersReadAsTable713 : Prop :=
  ∀ (s : State) (n : Nat) (t : Team) (d : BitVec 6) (k : BitVec 4), s.cur? = some (n, t) →
    ∀ r ∈ specials s n t,
      exec (.mfs d r.1) s = .next (s.setTeam n ((t.setS d r.2).step .sq)) ∧
      exec (.kmfs k r.1) s = .next (s.setTeam n ((t.setK k r.2).step .ve))

/-- 07 R155, 09 R216, 18 R417: MTS to STATUS clears each flag whose bit in s[a] is 1; to BOOSTREQ it keeps bits 3 to 0; to EPC it takes effect in the handler; to EPC
outside the handler, and to any other special register, it raises PRIV and writes nothing; a number that names no register raises ILLOP. -/
def Sys2Proof.Claims.SpecialRegistersAreWrittenWhereTheyMayBe : Prop :=
  ∀ (s : State) (n : Nat) (t : Team) (a : BitVec 6) (r : BitVec 10), SqReady s n t (.mts a r) →
    (r = 0x008 → exec (.mts a r) s = .next (s.setTeam n (({ t with status := t.status &&& ~~~(t.s a) } : Team).step .sq))) ∧
    (r = 0x021 → exec (.mts a r) s = .next (s.setTeam n (({ t with boost := (t.s a).setWidth 4 } : Team).step .sq))) ∧
    (r = 0x031 → t.inHandler = true → exec (.mts a r) s = .next (s.setTeam n (({ t with epc := t.s a } : Team).step .sq))) ∧
    (r ∈ (specials s n t).map (·.1) → r ≠ 0x008 → r ≠ 0x021 → (r = 0x031 → t.inHandler = false) →
      exec (.mts a r) s = .next (s.trap n t .sq .priv 0 0 0)) ∧
    (r ∉ (specials s n t).map (·.1) → exec (.mts a r) s = .next (s.illop n t .sq))

/-- 07 R155, Table 7-13, 09 R216: every special register, read and written. -/
def Obligations.SpecialRegistersReadAndAreWritten : Prop :=
  Claims.SpecialRegistersReadAsTable713 ∧ Claims.SpecialRegistersAreWrittenWhereTheyMayBe

/-- 09 R226, 17 R397-R401: TRAP and BRK of a team with a handler, outside it, record the fault with their code and enter the handler: FAULT0 holds the code and cause, FAULT1 the SQ's word twice, EPC is the word after, the loop
stack is set aside, and the SQ goes on at the handler's word. -/
def Sys2Proof.Claims.TrapAndBrkEnterTheHandler : Prop :=
  ∀ (s : State) (n : Nat) (t : Team) (code : BitVec 10), Issues s n t → t.k.hnd = true → t.inHandler = false →
    t.pend = none → t.stands = false → t.sq.ctl.pc + 1 < 2 ^ 32 →
    ∀ w ∈ [(Instr.trap code, Cause.trap), (.brk code, .brk)],
      ∃ s' t', exec w.1 s = .next s' ∧ OnlyTeam s s' n ∧ s'.team? n = some t' ∧
        t'.inHandler = true ∧ t'.sq.ctl.pc = t.k.handler ∧ t'.sq.ctl.loops = [] ∧ t'.sq.setAside = t.sq.ctl.loops ∧
        t'.epc = BitVec.ofNat 64 (t.sq.ctl.pc + 1) ∧ t'.pend = none ∧ t'.halting = none ∧
        (t'.faults.getD 0 0).toNat = code.toNat * 2 ^ 32 + 0xFF * 2 ^ 24 + 2 ^ 11 + w.2.code ∧
        (t'.faults.getD 1 0).toNat = t.sq.ctl.pc * 2 ^ 32 + t.sq.ctl.pc ∧
        t'.faults.getD 6 0 = s.time ∧ (t'.faults.getD 7 0).toNat = t.tag.toNat * 2 ^ 32 ∧
        (t.sq.landing = [] → ∀ r, t'.s r = t.s r)

/-- 17 R397-R401: a fault of an engine's word is recorded as pending, with the engine, its word, the operand and the address, and the SQ's is taken at once.  A pending fault of the issuing team
that has a handler, outside it, is taken: EPC is the SQ's word, FAULT0 holds its cause, engine, operand and flags, FAULT1 both word indices, FAULT2 the address, FAULT3 its information and sequence number,
and the SQ goes on at the handler's word with an empty loop stack; nothing else of the device changes.  When in the cycle the others' are taken is the model's choice (log 20). -/
def Sys2Proof.Claims.FaultsEnterTheHandler : Prop :=
  (∀ (s : State) (n : Nat) (t : Team) (e : Engine) (c : Cause) (operand addr info : Nat), s.team? n = some t → t.pend = none →
    let f : PendFault := { cause := c, eng := e.num, pc := (t.ctl e).pc, operand := operand, addr := BitVec.ofNat 64 addr,
                           info := info, cyc := t.cycle }
    let u := s.setTeam n { t with pend := some f }
    s.trap n t e c operand addr info = if e = .sq then u.takeFault n else u) ∧
  (∀ (s : State) (n : Nat) (t : Team) (f : PendFault), (s.core (coreOfSlot n)).issuing = some n → s.team? n = some t →
    t.pend = some f → t.k.hnd = true → t.inHandler = false → t.stands = false →
    f.cause ≠ .watchdog → f.cause ≠ .trap → f.cause ≠ .brk → f.cause ≠ .shadowfull →
    f.operand < 256 → f.field < 256 → f.code < 65536 → f.eng < 8 → f.pc < 2 ^ 32 → t.sq.ctl.pc < 2 ^ 32 → f.seq < 2 ^ 32 → f.info < 2 ^ 32 →
    ∃ t', s.takeFault n = s.setTeam n t' ∧
      t'.inHandler = true ∧ t'.pend = none ∧ t'.halting = none ∧
      t'.sq.ctl.pc = t.k.handler ∧ t'.sq.ctl.loops = [] ∧ t'.sq.setAside = t.sq.ctl.loops ∧
      t'.epc = BitVec.ofNat 64 t.sq.ctl.pc ∧
      (t'.faults.getD 0 0).toNat = f.code * 2 ^ 32 + f.field * 2 ^ 24 + f.operand * 2 ^ 16 + (if f.multi then 2 ^ 13 else 0) +
        (if f.async then 2 ^ 12 else 0) + 2 ^ 11 + f.eng * 2 ^ 8 + f.cause.code ∧
      (t'.faults.getD 1 0).toNat = t.sq.ctl.pc * 2 ^ 32 + f.pc ∧ t'.faults.getD 2 0 = f.addr ∧
      (t'.faults.getD 3 0).toNat = f.info * 2 ^ 32 + f.seq)

/-- 09 R226, 17 R402: ERET in the handler resumes the SQ at EPC with the loop stack that the entry set aside, and a word that stands there and was interrupted goes on from where it stopped; outside the handler it raises PRIV. -/
def Sys2Proof.Claims.EretResumesAtEpc : Prop :=
  ∀ (s : State) (n : Nat) (t : Team), s.cur? = some (n, t) →
    (t.inHandler = true →
      let back := t.aside.filter fun a => a.pc = t.epc.toNat
      exec .eret s = .next (s.setTeam n { t with
        inHandler := false, aside := none, scan := back.bind (·.scan), woke := back.bind (·.woke), sq := { t.sq with setAside := [], ctl := { t.sq.ctl with pc := t.epc.toNat, loops := t.sq.setAside } } })) ∧
    (t.inHandler = false → exec .eret s = .next (s.trap n t .sq .priv 0 0 0))

/-- 09 R226, 17 R397-R402: taking a trap or a precise fault, and the return from the handler. -/
def Obligations.TrapsEnterAndEretReturns : Prop :=
  Claims.TrapAndBrkEnterTheHandler ∧ Claims.FaultsEnterTheHandler ∧ Claims.EretResumesAtEpc

/-- 04 R87, R89, R96, R97, Table 4-2: YIELD moves to the next word and, when another team of the core is ready, the core switches once the team's reads in flight have landed, the team standing still until
then; PSTART marks the team as started; PWAIT goes on, as an acquire at device scope and once the SQ's loads have landed, when it has waited before or every HINTED predecessor has left the window, and parks the team otherwise, which
leaves its core in the same way. -/
def Sys2Proof.Claims.TeamControlWords : Prop :=
  ∀ (s : State) (n : Nat) (t : Team), s.cur? = some (n, t) →
    let moved := s.setTeam n (t.step .sq)
    let other : Prop := ∃ m, moved.nextReady (coreOfSlot n) (n % 16) = some m ∧ m ≠ n
    let left : Prop := t.pwaited = true ∨ ∀ k, s.task? t.tid = some k → ∀ e ∈ k.edges, e.2 = true → s.task? e.1 = none
    let parked := s.setTeam n { t with park := some .pwait, leaving := true }
    (¬other → exec .yield s = .next moved) ∧
    (other → s.landed n t = true →
      exec .yield s = .next ((s.setTeam n { t.step .sq with leaving := true }).switchOut (coreOfSlot n) n)) ∧
    (other → s.landed n t = false → exec .yield s = .next (s.setTeam n { t.step .sq with leaving := true })) ∧
    exec .pstart s = .next (s.setTeam n (({ t with pstarted := true } : Team).step .sq)) ∧
    (left → t.sq.landing = [] →
      exec .pwait s = .next ((s.invalidateKinds n [0, 1]).updTeam n fun u => ({ u with pwaited := true } : Team).step .sq)) ∧
    (left → t.sq.landing ≠ [] → exec .pwait s = .next s) ∧
    (¬left → s.landed n t = true → exec .pwait s = .next (parked.switchOut (coreOfSlot n) n)) ∧
    (¬left → s.landed n t = false → exec .pwait s = .next parked)

/-- 06 R137, 02 R40: a switch-point word waits at its point; another live engine that stands at another point makes it ILLOP; when every live engine stands at the point the granted level is read and
the engines wait four cycles. -/
def Sys2Proof.Claims.SwitchPointWordsWaitForTheTeam : Prop :=
  ∀ (s : State) (n : Nat) (t : Team) (p : BitVec 8), s.cur? = some (n, t) → ∀ w ∈ switchWords s p,
    ((∃ e ∈ t.live, e ≠ w.2 ∧ ∃ q, (t.ctl e).swpt = some q ∧ q ≠ p.toNat) → exec w.1 s = .next (s.illop n t w.2)) ∧
    ((∀ e ∈ t.live, e ≠ w.2 → (t.ctl e).swpt = none) → (∃ e ∈ t.live, e ≠ w.2) →
      exec w.1 s = .next (s.setTeam n (t.setCtl w.2 { t.ctl w.2 with swpt := some p.toNat }))) ∧
    (t.live = [w.2] → exec w.1 s = .next (s.setTeam n { t.setCtl w.2 { t.ctl w.2 with swpt := some p.toNat, busy := t.cycle + 4 } with
      swptVar := some (min (s.granted t) (t.k.nvar - 1)) }))

/-- 09 R214, 06 R137: engine control, the end of a stream and switch points. -/
def Obligations.EnginesStartStopEndAndSwitch : Prop :=
  Claims.EngineControlFollowsR214 ∧ Claims.EndWordsEndTheirStream ∧ Claims.SwitchPointWordsWaitForTheTeam

/-- 09 R215, 03 R59, 04 R85, 17 R403: EXIT stops the other engines; while a nest or job of the team is outstanding it waits; otherwise the team's dirty lines are written back, its task records the exit, and
the slot is released.  EXIT with error records the error; after a fault it is a kill with the recorded cause, which waits for nothing. -/
def Sys2Proof.Claims.ExitReleasesTheSlot : Prop :=
  ∀ (s : State) (n : Nat) (t : Team), s.cur? = some (n, t) →
    let gone (err : Bool) : State :=
      (((s.setTeam n (leaving t err)).writeBackTeam n [0, 1]).updTask t.tid fun k =>
        { k with exited := setInsert t.teamix k.exited, slots := k.slots.filter (· ≠ n), exitErr := k.exitErr || err }).releaseSlot n
    ((∀ e, e ≠ .sq → t.hasEngine e = true → t.outstanding e = false) →
      exec .exit s = .next (gone false) ∧ (gone false).team? n = none ∧
      (t.errored = false → exec .exitErr s = .next (gone true))) ∧
    ((∃ e, e ≠ .sq ∧ t.hasEngine e = true ∧ t.outstanding e = true) →
      exec .exit s = .next (s.setTeam n (leaving t false)) ∧
      (t.errored = false → exec .exitErr s = .next (s.setTeam n (leaving t true)))) ∧
    (t.errored = true → exec .exitErr s = .next (((s.setTeam n (leaving t true)).logKill n (leaving t true) none).killTeam n
      (BitVec.ofNat 32 (0x04000000 + (t.faults.getD 0 0).toNat % 256))))

/-- 04 R87, R96, R97, 09 R215: YIELD, PSTART, PWAIT and EXIT. -/
def Obligations.TeamControlAndExit : Prop :=
  Claims.TeamControlWords ∧ Claims.ExitReleasesTheSlot

/-! The sequencer: futures, tickets, rings, snapshots and the tile directory (03 R69-R77, 09 R218-R224, 16 R386-R393). -/

/-- 03 R69, 09 R218: FALLOC takes a FREE entry for the team's ASID, sets it EMPTY with value 0 and replies its handle, and replies 0 when no entry is FREE.  A null or
stale handle raises FUTSTALE. -/
def Sys2Proof.Claims.FallocTakesAFreeEntry : Prop :=
  ∀ (s : State) (n : Nat) (t : Team) (d a b : BitVec 6),
    (s.cur? = some (n, t) →
      ((∀ i, 1 ≤ i → i ≤ 65535 → (s.future i).st ≠ .free) → exec (.falloc d) s = .next (s.replyStep n d 0)) ∧
      ((∃ i, 1 ≤ i ∧ i ≤ 65535 ∧ (s.future i).st = .free) → ∃ i, 1 ≤ i ∧ i ≤ 65535 ∧ (s.future i).st = .free ∧
        exec (.falloc d) s = .next ((s.setFuture i { s.future i with asid := some t.asid, st := .empty, value := 0 }).replyStep n d
          (BitVec.ofNat 64 ((s.future i).gen.toNat * 2 ^ 16 + i))))) ∧
    (∀ w ∈ [Instr.fresResolve d a b, .fresFail d a b, .fresCancel d a, .fresFree d a, .fresReset d a, .fwait d a, .fpoll d a],
      SqReady s n t w → t.woke = none → (∀ i, ¬HandleNames s t.asid ((t.s a).setWidth 32) i) → exec w s = .next (s.trap n t .sq .futstale 0 0 0))

/-- 03 R70, R71, Table 3-6, 09 R218, R219: an FRES word of a team with nothing under way performs its operation on the entry and replies 0, or changes nothing and replies 1.  Every operation but
RESET wakes the entry's waiters: each parked team becomes ready with the state and value of this moment, and each task that waits takes note of them. -/
def Sys2Proof.Claims.FresFollowsTable36 : Prop :=
  ∀ (s : State) (n : Nat) (t : Team) (d a b : BitVec 6) (i : Nat),
    (∀ (f : Future) (op : Nat), op ≠ 5 →
      let s' := futureDone s i op f
      s'.future i = f ∧ (∀ j, j ≠ i → s'.future j = s.future j) ∧
      (∀ m u, s.team? m = some u → u.park = some (.future i) →
        ∃ v, s'.team? m = some v ∧ v.park = none ∧ v.woke = some (f.st, f.value)) ∧
      s'.tasks = s.tasks.map fun k => if some k.asid = (s.future i).asid then
        k.told (BitVec.ofNat 32 ((s.future i).gen.toNat * 65536 + i)) i f.st else k) ∧
    ∀ w ∈ [(Instr.fresResolve d a b, 1), (.fresFail d a b, 2), (.fresCancel d a, 3), (.fresFree d a, 4), (.fresReset d a, 5)],
      SqReady s n t w.1 → HandleNames s t.asid ((t.s a).setWidth 32) i → Quiet s n t → t.waitDrain = none →
      (∀ f, futureAfter (s.future i) w.2 (t.s b) = some f →
        ∃ s0, s0 = s.setTeam n t ∧
          exec w.1 s = .next ((futureDone (if w.2 < 4 then s0 else s) i w.2 f).replyStep n d 0)) ∧
      (futureAfter (s.future i) w.2 (t.s b) = none →
        exec w.1 s = .next ((if w.2 < 4 then s.setTeam n t else s).replyStep n d 1))

/-- 03 R71, 09 R218, R219: FWAIT on a final entry writes its value at once, as an acquire at device scope; on another it parks the team, which leaves its core when its reads in flight have landed.  A woken FWAIT takes the
value it was woken with, whatever the entry holds now, and one that FREE woke raises FUTSTALE.  FPOLL replies the entry's state code, as an acquire when it is final. -/
def Sys2Proof.Claims.FwaitAndFpollReadTheEntry : Prop :=
  ∀ (s : State) (n : Nat) (t : Team) (d a : BitVec 6),
    let takes (v : DWord) : State := (s.invalidateKinds n [1]).updTeam n fun u => ({ u.setS d v with woke := none } : Team).step .sq
    (SqReady s n t (.fwait d a) →
      (∀ st v, t.woke = some (st, v) → st ≠ .free → exec (.fwait d a) s = .next (takes v)) ∧
      (∀ v, t.woke = some (.free, v) → exec (.fwait d a) s = .next ((s.setTeam n { t with woke := none }).trap n t .sq .futstale 0 0 0))) ∧
    ∀ i, HandleNames s t.asid ((t.s a).setWidth 32) i →
    let f := s.future i
    let final : Prop := f.st = .ready ∨ f.st = .error ∨ f.st = .cancelled
    let parked := s.setTeam n { t with park := some (.future i), leaving := true }
    let code : DWord := match f.st with
      | .free => 0 | .empty => 1 | .pending => 2 | .ready => 3 | .error => 4 | .cancelled => 5
    (SqReady s n t (.fwait d a) → t.woke = none →
      (final → exec (.fwait d a) s = .next (takes f.value)) ∧
      (¬final → s.landed n t = true → exec (.fwait d a) s = .next (parked.switchOut (coreOfSlot n) n)) ∧
      (¬final → s.landed n t = false → exec (.fwait d a) s = .next parked)) ∧
    (SqReady s n t (.fpoll d a) →
      (final → exec (.fpoll d a) s = .next ((s.invalidateKinds n [1]).replyStep n d code)) ∧
      (¬final → exec (.fpoll d a) s = .next (s.replyStep n d code)))

/-- 03 R74, R75, 09 R220: TKTAKE replies NEXT and adds one to it; TKWAIT goes on, as an acquire, when its ticket is served and otherwise parks the team, which leaves its core when its reads in flight have landed; TKSERVE adds one to SERVE and wakes every team
parked on the dispenser; a dispenser that is disabled, foreign or beyond 4,095 raises PRIV. -/
def Sys2Proof.Claims.TicketWordsFollowR75 : Prop :=
  ∀ (s : State) (n : Nat) (t : Team) (d a b : BitVec 6),
    let k := (t.s a).toNat
    let c := s.ticket k
    let usable : Prop := k < 4096 ∧ c.en = true ∧ c.asid.toNat = t.asid
    (¬usable → ∀ w ∈ [Instr.tktake d a, .tkwait a b, .tkserve a], SqReady s n t w → exec w s = .next (s.trap n t .sq .priv 0 0 0)) ∧
    (usable →
      (SqReady s n t (.tktake d a) →
        exec (.tktake d a) s = .next ((s.setTicket k { c with next := c.next + 1 }).replyStep n d (c.next.setWidth 64))) ∧
      (SqReady s n t (.tkwait a b) →
        let tk : BitVec 32 := (t.s b).setWidth 32
        ((c.serve - tk).toNat < 2 ^ 31 → exec (.tkwait a b) s = .next ((s.invalidateKinds n [1]).updTeam n fun u => u.step .sq)) ∧
        (2 ^ 31 ≤ (c.serve - tk).toNat →
          let parked := s.setTeam n { t with park := some (.ticket k tk), leaving := true }
          (s.landed n t = true → exec (.tkwait a b) s = .next (parked.switchOut (coreOfSlot n) n)) ∧
          (s.landed n t = false → exec (.tkwait a b) s = .next parked))) ∧
      (SqReady s n t (.tkserve a) → Quiet s n t → t.waitDrain = none →
        exec (.tkserve a) s = .next ((((s.setTeam n t).setTicket k { c with serve := c.serve + 1 }).wakeTeams fun p => match p with
          | .ticket m _ => m = k
          | _ => false).updTeam n fun u => u.step .sq)))

/-- 03 R69-R75, 09 R218-R220: the words on futures and tickets. -/
def Obligations.FuturesAndTickets : Prop :=
  Claims.FallocTakesAFreeEntry ∧ Claims.FresFollowsTable36 ∧ Claims.FwaitAndFpollReadTheEntry ∧ Claims.TicketWordsFollowR75

/-- 03 R77, 09 R221: QENQ on a ring with room writes the record, VALID set, into the slot at TAIL and then TAIL + 1, and replies 0; a full ring replies 1. -/
def Sys2Proof.Claims.QenqAppendsARecord : Prop :=
  ∀ (s s1 : State) (n : Nat) (t : Team) (d a b : BitVec 6) (e : KttEntry) (blk : RingBlk), SqReady s n t (.qenq d a b) →
    RingReady s s1 n t (t.s a).toNat (t.s b).toNat e blk →
    (blk.size ≤ blk.count → exec (.qenq d a b) s = .next (s1.replyStep n d 1)) ∧
    (blk.count < blk.size → ∀ e1 pa, SlotAt s1 n t (blk.slot blk.tail) e1 pa →
      let rec0 := t.spRead (t.s b).toNat 64
      exec (.qenq d a b) s = .next
        ((((s1.unitLine n pa).unitWrite n t e1 (blk.slot blk.tail) ((rec0.headD 0 ||| 1) :: rec0.tail) (t.spMarked (t.s b).toNat 64)).unitWrite
          n t e (t.s a).toNat (toBytes 8 (blk.tail + 1)) false).replyStep n d 0))

/-- 03 R77, 09 R221: QDEQ on a block bound to a queue in ACTIVE or TEARDOWN replies 4; on an empty ring, or one whose record at HEAD has VALID 0, it replies 2; otherwise it clears the record's CTRL, advances HEAD, copies the record to the scratchpad and replies 0. -/
def Sys2Proof.Claims.QdeqTakesTheRecordAtHead : Prop :=
  ∀ (s s1 : State) (n : Nat) (t : Team) (d a b : BitVec 6) (e : KttEntry) (blk : RingBlk), SqReady s n t (.qdeq d a b) →
    RingReady s s1 n t (t.s a).toNat (t.s b).toNat e blk →
    let la := (t.s b).toNat
    let bound (q : Nat) : Prop := BoundTo s1 q (e.pa + ((t.s a).toNat - e.va))
    ((∃ q, bound q ∧ ((s1.queue q).st = .active ∨ (s1.queue q).st = .teardown)) → exec (.qdeq d a b) s = .next (s1.replyStep n d 4)) ∧
    ((∀ q, bound q → (s1.queue q).st ≠ .active ∧ (s1.queue q).st ≠ .teardown) →
      (blk.count = 0 → exec (.qdeq d a b) s = .next (s1.replyStep n d 2)) ∧
      (blk.count ≠ 0 → ∀ e1 pa, SlotAt s1 n t (blk.slot blk.head) e1 pa →
        let s2 := s1.unitLine n pa
        let r := readBytes s2.mem pa 64
        let mark := markedRange 64 s2.marks pa 64
        ((readByte s2.mem pa).getLsbD 0 = false → exec (.qdeq d a b) s = .next (s2.replyStep n d 2)) ∧
        ((readByte s2.mem pa).getLsbD 0 = true → exec (.qdeq d a b) s = .next
          (((s2.unitWrite n t e1 (blk.slot blk.head) [0] false).unitWrite n t e ((t.s a).toNat + 8) (toBytes 8 (blk.head + 1)) false).updTeam n
            fun u => (((u.spPut la r mark).dirPartial (la / 4096) (List.range' la 64) mark false).reply d 0).step .sq))))

/-- 03 R56, 09 R221: TSUB writes back the team's dirty lines; on a block not bound to an ACTIVE queue it replies 3; otherwise it appends the record with TFLAGS bit 5 set, STAMP the low 32 bits of the team's write-drain count and
STEAM its slot, remembers the stamp, and replies 0, or 1 when the ring is full. -/
def Sys2Proof.Claims.TsubStampsItsRecord : Prop :=
  ∀ (s s1 : State) (n : Nat) (t : Team) (d a b : BitVec 6) (e : KttEntry) (blk : RingBlk), SqReady s n t (.tsub d a b) →
    RingReady s s1 n t (t.s a).toNat (t.s b).toNat e blk →
    let bound (q : Nat) : Prop := BoundTo s1 q (e.pa + ((t.s a).toNat - e.va))
    let s2 := s1.writeBackTeam n [0, 1]
    ((∀ q, bound q → (s1.queue q).st ≠ .active) → exec (.tsub d a b) s = .next (s2.replyStep n d 3)) ∧
    ((∃ q, bound q ∧ (s1.queue q).st = .active) →
      (blk.size ≤ blk.count → exec (.tsub d a b) s = .next (s2.replyStep n d 1)) ∧
      (blk.count < blk.size → ∀ e1 pa, SlotAt s2 n t (blk.slot blk.tail) e1 pa →
        let rec0 := t.spRead (t.s b).toNat 64
        let rec1 := rec0.take 2 ++ [rec0.getD 2 0 ||| 0x20] ++ (rec0.drop 3).take 0x35 ++ toBytes 4 t.wIssued ++ toBytes 2 n ++ rec0.drop 0x3E
        let s3 := (s2.unitLine n pa).unitWrite n t e1 (blk.slot blk.tail) ((rec1.headD 0 ||| 1) :: rec1.tail) (t.spMarked (t.s b).toNat 64)
        exec (.tsub d a b) s = .next ((({ s3 with stamped := s3.stamped ++ [{ at_ := pa, slot := n, tid := t.tid, tix := t.teamix, cnt := t.wIssued % 2 ^ 32 }] }
          : State).unitWrite n t e (t.s a).toNat (toBytes 8 (blk.tail + 1)) false).replyStep n d 0)))

/-- 09 R221: the checks of the ring words in order: a misaligned block or record raises ALIGN, a record outside the banks SPOOB, a block not granted R and W the lookup's cause; a block outside HBM or unsound replies 3 and changes nothing
of it; a block on a page that is not UO waits while an atomic of the SQ that acquires is on its way (15 R363). -/
def Sys2Proof.Claims.RingWordsCheckInOrder : Prop :=
  ∀ (s : State) (n : Nat) (t : Team) (d a b : BitVec 6),
    let ea := (t.s a).toNat
    let la := (t.s b).toNat
    ∀ w ∈ [Instr.qenq d a b, .qdeq d a b, .tsub d a b], SqReady s n t w →
      (ea % 64 ≠ 0 → exec w s = .next (s.trap n t .sq .align 0 ea 0)) ∧
      (ea % 64 = 0 → la % 64 ≠ 0 → exec w s = .next (s.trap n t .sq .align 0 (la % 2 ^ 23) 0)) ∧
      (ea % 64 = 0 → la % 64 = 0 → t.bankCount * 0x20000 < la + 64 → exec w s = .next (s.trap n t .sq .spoob 0 (la % 2 ^ 23) 0)) ∧
      (ea % 64 = 0 → la % 64 = 0 → la + 64 ≤ t.bankCount * 0x20000 →
        (∀ f, kttLookup (s.kslot n t) ea .rw = .error f → exec w s = .next (s.kttTrap n t .sq 8 f)) ∧
        (∀ e, kttLookup (s.kslot n t) ea .rw = .ok e →
          let pa := e.pa + (ea - e.va)
          let s1 := s.unitLine n pa
          (0x6000000000 ≤ pa → exec w s = .next (s.replyStep n d 3)) ∧
          (pa < 0x6000000000 → e.order ≠ 0 → (∃ x ∈ s.atomq, x.slot = n ∧ x.acq = true) → exec w s = .next s) ∧
          (pa < 0x6000000000 → (e.order = 0 ∨ Calm s n) → ((ringBlk (readBytes s1.mem pa 64)).bad ≠ none ∨ markedRange 64 s1.marks pa 64 = true) →
            exec w s = .next (s1.replyStep n d 3))))

/-- 03 R56, R77, 09 R221: QENQ, QDEQ and TSUB. -/
def Obligations.RingWords : Prop :=
  Claims.QenqAppendsARecord ∧ Claims.QdeqTakesTheRecordAtHead ∧ Claims.TsubStampsItsRecord ∧ Claims.RingWordsCheckInOrder

/-- 16 R387-R391, R393: SNAP opens one more level of its region with the next generation and replies its handle; SRESV reserves slots of an open level while the pool has them; a stale handle, or a region that fails its tests, raises SNAPBAD. -/
def Sys2Proof.Claims.SnapshotsOpenAndReserve : Prop :=
  ∀ (s : State) (n : Nat) (t : Team) (d a b : BitVec 6),
    (SqReady s n t (.snap d a b) →
      (s.snapTarget n t (t.s a).toNat (t.s b).toNat = none → exec (.snap d a b) s = .next (s.trap n t .sq .snapbad 12 0 0)) ∧
      (∀ r, s.snapTarget n t (t.s a).toNat (t.s b).toNat = some r → Quiet s n t → t.waitDrain = none →
        let g := s.snap t.asid r
        let gen := if g.gen + 1 = 0 then 1 else g.gen + 1
        exec (.snap d a b) s = .next (((s.setTeam n t).setSnap t.asid r
            ({ gen := gen, levels := g.levels ++ [{ gen := gen, queue := t.queue, tid := t.tid }] } : SnapRegion)).replyStep n d
          (BitVec.ofNat 64 (gen.toNat * 2 ^ 16 + g.levels.length * 2 ^ 8 + r))))) ∧
    (SqReady s n t (.sresv d a b) →
      (s.openHandle t.asid (t.s a) = none → exec (.sresv d a b) s = .next (s.trap n t .sq .snapbad 12 0 ((t.s a).toNat % 2 ^ 32))) ∧
      (∀ r k, s.openHandle t.asid (t.s a) = some (r, k) →
        ((t.s b).toNat < 2 ^ 32 → (t.s b).toNat ≤ s.poolFree t.asid → exec (.sresv d a b) s = .next ((s.setSnap t.asid r { s.snap t.asid r with
            levels := (s.snap t.asid r).levels.mapIdx fun i l => if i = k then { l with resv := l.resv + (t.s b).toNat } else l }
          ).replyStep n d 0)) ∧
        (s.poolFree t.asid < (t.s b).toNat → exec (.sresv d a b) s = .next (s.replyStep n d 1))))

/-- 16 R389, R390, R392: SACC of the innermost level accepts it and SREJ of any open level rejects it with every level inside, once the team's writes have drained, the core's L1 losing the lines on the region's pages; SACC of an outer level and a stale handle raise SNAPBAD; SQRY replies
the free slots of the pool for handle 0, and the counts of a level for its handle. -/
def Sys2Proof.Claims.SnapshotsAcceptRejectAndReport : Prop :=
  ∀ (s : State) (n : Nat) (t : Team) (d a : BitVec 6),
    let h := t.s a
    (∀ w ∈ [Instr.sacc a, .srej a], SqReady s n t w → s.openHandle t.asid h = none →
      exec w s = .next (s.trap n t .sq .snapbad 12 0 (h.toNat % 2 ^ 32))) ∧
    (∀ r k, s.openHandle t.asid h = some (r, k) →
      (SqReady s n t (.sacc a) →
        (k + 1 < (s.snap t.asid r).levels.length → exec (.sacc a) s = .next (s.trap n t .sq .snapbad 12 0 (h.toNat % 2 ^ 32))) ∧
        ((s.snap t.asid r).levels.length ≤ k + 1 → Quiet s n t → t.waitDrain = none →
          exec (.sacc a) s = .next (((s.setTeam n t).acceptPoint t.asid r k).updTeam n fun u => u.step .sq))) ∧
      (SqReady s n t (.srej a) → Quiet s n t → t.waitDrain = none →
        let s2 := (s.setTeam n t).rejectPoint t.asid r k
        exec (.srej a) s = .next ((s2.invalidateBut (coreOfSlot n) (s2.teamBlockLines n) fun ln l =>
          l.order ≠ 2 && s2.lineInRegion n t r ln l).updTeam n fun u => u.step .sq))) ∧
    (SqReady s n t (.sqry d a) →
      (h = 0 → exec (.sqry d a) s = .next (s.replyStep n d (BitVec.ofNat 64 (s.poolFree t.asid % 2 ^ 40)))) ∧
      (∀ r k l, h ≠ 0 → s.openHandle t.asid h = some (r, k) → (s.snap t.asid r).levels[k]? = some l →
        exec (.sqry d a) s = .next (s.replyStep n d (BitVec.ofNat 64 (min l.saved (2 ^ 24 - 1) * 2 ^ 40 + min l.resv (2 ^ 24 - 1) * 2 ^ 16 +
          (if l.lost then 2 ^ 7 else 0) + (s.snap t.asid r).levels.length * 2 ^ 4 + 1)))))

/-- 16 R386-R393: SNAP, SRESV, SACC, SREJ and SQRY. -/
def Obligations.SnapshotWords : Prop :=
  Claims.SnapshotsOpenAndReserve ∧ Claims.SnapshotsAcceptRejectAndReport

/-- 16 R385, R393: LDV is an untimed load of 8 bytes through the view of its handle's level: the level's version of the line where it has one, the live contents otherwise; misalignment raises ALIGN, a stale handle or an address outside the handle's region SNAPBAD. -/
def Sys2Proof.Claims.LdvReadsThroughTheView : Prop :=
  ∀ (s : State) (n : Nat) (t : Team) (d a b : BitVec 6), SqReady s n t (.ldv d a b) →
    let ea := (t.s a).toNat
    let takes (bs : List Byte) (mark : Bool) : State := s.setTeam n (addLoad
      { d := d.toNat, pc := t.sq.ctl.pc, named := none, parts := [{ bytes := bs, mark := mark, va := ea }] } t)
    (ea % 8 ≠ 0 → exec (.ldv d a b) s = .next (s.trap n t .sq .align 0 ea 0)) ∧
    (ea % 8 = 0 → t.sq.landing.length < 16 → ∀ e, kttLookup (s.kslot n t) ea .r = .ok e →
      (s.openHandle t.asid (t.s b) = none →
        exec (.ldv d a b) s = .next (s.trap n t .sq .snapbad 12 ea ((t.s b).toNat % 2 ^ 32))) ∧
      (∀ r k rb len l, s.openHandle t.asid (t.s b) = some (r, k) → s.region? t.asid r = some (rb, len) →
        (s.snap t.asid r).levels[k]? = some l →
        ((ea < rb ∨ rb + len < ea + 8) → exec (.ldv d a b) s = .next (s.trap n t .sq .snapbad 12 ea ((t.s b).toNat % 2 ^ 32))) ∧
        (rb ≤ ea → ea + 8 ≤ rb + len → (e.order = 0 ∨ Calm s n) →
          let pa := e.pa + (ea - e.va)
          (SMap.get? l.vers (pa / 128) = none → pa % 128 + 8 ≤ 128 →
            exec (.ldv d a b) s = .next (takes (readBytes s.mem pa 8) (markedRange 64 s.marks pa 8))) ∧
          (∀ id v, SMap.get? l.vers (pa / 128) = some id → SMap.get? s.slots id = some v →
            exec (.ldv d a b) s = .next (takes (((toBytes 128 v.data.toNat).drop (pa % 128)).take 8)
              ((unitsOf 64 (pa % 128) 8).any fun g => if g = 0 then v.marks.getLsbD 0 else v.marks.getLsbD 1))))))

/-- 09 R223, R224, 14 R346: TDCLS writes d with the class, flags and value of the entry of its dtile; TDSCAN reads one dtile of its range in 64 cycles, after 4 more at its start, and then sets its entry as a whole-dtile write of its contents would,
or to GEN when a write landed in it meanwhile; after the last it completes; a local address outside the banks raises SPOOB, a misaligned scan ALIGN. -/
def Sys2Proof.Claims.TileDirectoryWordsReadAndScan : Prop :=
  ∀ (s : State) (n : Nat) (t : Team) (d a : BitVec 6) (k : BitVec 10),
    let la := (t.s a).toNat
    let lim := t.bankCount * 0x20000
    let done := t.scan.getD 0
    (SqReady s n t (.tdcls d a) →
      (lim ≤ la → exec (.tdcls d a) s = .next (s.trap n t .sq .spoob 0 (la % 2 ^ 23) 0)) ∧
      (la < lim →
        let e := t.dir (la / 4096)
        let cls := match e.cls with
          | .gen => 0 | .zero => 1 | .const => 2 | .ident => 3
        exec (.tdcls d a) s = .next (s.setTeam n ((t.setS d (BitVec.ofNat 64
          (e.value.toNat * 2 ^ 32 + (if e.poison then 8 else 0) + (if e.special then 4 else 0) + cls))).step .sq)))) ∧
    (SqReady s n t (.tdscan a k) →
      (la % 4096 ≠ 0 → exec (.tdscan a k) s = .next (s.trap n t .sq .align 0 (la % 2 ^ 23) 0)) ∧
      (la % 4096 = 0 → lim < la + 4096 * (k.toNat + 1) → exec (.tdscan a k) s = .next (s.trap n t .sq .spoob 0 (la % 2 ^ 23) 0)) ∧
      (la % 4096 = 0 → la + 4096 * (k.toNat + 1) ≤ lim →
        let reads (u : Team) (i cost : Nat) : Team :=
          ({ u with scanDt := some (la / 4096 + i, false) } : Team).setCtl .sq { t.sq.ctl with busy := t.cycle + cost }
        (t.scanDt = none → done ≤ k.toNat →
          exec (.tdscan a k) s = .next (s.setTeam n (reads t done (if done = 0 then 68 else 64)))) ∧
        (∀ dt hit, t.scanDt = some (dt, hit) →
          let u := ({ t with scanDt := none } : Team).dirWhole dt false (markedRange 64 t.spMarks (4096 * dt) 4096)
          let v := if hit then u.setDir dt { u.dir dt with cls := .gen, value := 0 } else u
          exec (.tdscan a k) s = .next (s.setTeam n (if k.toNat < done + 1 then ({ v with scan := none } : Team).step .sq
            else reads { v with scan := some (done + 1) } (done + 1) 64)))))

/-- 16 R385, 09 R223, R224: LDV, TDCLS and TDSCAN. -/
def Obligations.ViewLoadsAndTileDirectoryWords : Prop :=
  Claims.LdvReadsThroughTheView ∧ Claims.TileDirectoryWordsReadAndScan

/-! The vector engine (10 R228-R254). -/

/-- 10 R236-R238, Table 10-2: under an integer shape each element word gives every active element the value its table row gives on exact integers, wrapped to the element width; the words that
take floating shapes only raise SHAPEBAD. -/
def Obligations.IntegerElementWordsFollowTable102 : Prop :=
  ∀ (s : State) (n : Nat) (t : Team) (d a b : BitVec 8) (k : BitVec 5) (vs : List VReg), t.vtype ≤ 7 →
    (∀ p ∈ intWords t.vtype d a b k, VeReady s n t p.srcs vs d → (p.reads = true → ReadsDest t d) →
      GivesElements s n t p.i p.srcs d fun e =>
        p.f (elem t.vw (vs.getD 0 0) e) (elem t.vw (vs.getD 1 0) e) (oldElem t d t.vw e)) ∧
    (∀ p ∈ floatOnly d a, VeReady s n t p.2 vs d → exec p.1 s = .next (s.trap n t .ve .shapebad 0 0 0))

/-- 10 R236-R240, Table 10-2: under a floating shape each element word rounds the exact result of its table row once (the special functions by RNE); the words that take integer shapes only
raise SHAPEBAD. -/
def Obligations.FloatElementWordsRoundOnce : Prop :=
  ∀ (s : State) (n : Nat) (t : Team) (d a b : BitVec 8) (k : BitVec 5) (vs : List VReg) (f : FFmt),
    (t.vtype = 8 ∧ f = BF16) ∨ (t.vtype = 9 ∧ f = F16) ∨ (t.vtype = 10 ∧ f = F32) →
    (∀ p ∈ floatWords f t.vround d a b, VeReady s n t p.srcs vs d → (p.reads = true → ReadsDest t d) →
      GivesElements s n t p.i p.srcs d fun e =>
        p.f (elem t.vw (vs.getD 0 0) e) (elem t.vw (vs.getD 1 0) e) (oldElem t d t.vw e)) ∧
    (∀ p ∈ intOnly d a b k, VeReady s n t p.2 vs d → exec p.1 s = .next (s.trap n t .ve .shapebad 0 0 0))

/-- 08 R169, R189: rounding the value of a finite encoding gives the encoding back, in every rounding mode. -/
def Obligations.RoundingKeepsAFormatsOwnValues : Prop :=
  ∀ (f : FFmt) (md : RMode) (x : Nat), f ∈ [BF16, F16, F32, F64] → x < 2 ^ f.w → f.isSpecial x = false →
    f.round md (f.decode x) = x

/-- 10 R241, R242, Table 7-8, 08 R174: VCMP sets the bits of the active elements to their condition, keeps those of the inactive and clears those above; VSEL chooses by the active mask;
the mask words act on all 1,024 bits; MPOPC counts, and MFIRST finds the first of, the bits below n. -/
def Sys2Proof.Claims.MaskWordsFollowR241AndR242 : Prop :=
  ∀ (s : State) (n : Nat) (t : Team) (c : BitVec 4) (m p q : BitVec 3) (k : BitVec 4) (d a b : BitVec 8) (x y : VReg),
    (VeReady s n t [a, b] [x, y] 0x80 → m.toNat ∉ t.ve.mMarks →
      (∀ hold : Nat → Bool, (t.vtype ≤ 7 → c.toNat < 6 ∧ ∀ e, hold e = condHolds c.toNat
            (intValue t.vtype (elem t.vw x e) < intValue t.vtype (elem t.vw y e))
            (intValue t.vtype (elem t.vw y e) < intValue t.vtype (elem t.vw x e)) false) →
          (8 ≤ t.vtype → c.toNat < 8 ∧ ∃ f, ((t.vtype = 8 ∧ f = BF16) ∨ (t.vtype = 9 ∧ f = F16) ∨ (t.vtype = 10 ∧ f = F32)) ∧
            ∀ e, let X := f.decode (elem t.vw x e)
                 let Y := f.decode (elem t.vw y e)
                 hold e = condHolds c.toNat (X.lt Y) (Y.lt X) (X.isNaN || Y.isNaN)) →
        ∃ r : BitVec 1024, exec (.vcmp c m a b) s = .next (s.setTeam n
            (((t.advanceChunks [⟨a, 1⟩, ⟨b, 1⟩]).setM m r).step .ve)) ∧
          ∀ e < 1024, r.getLsbD e = (decide (e < t.vn) && if t.active e then hold e else (t.m m).getLsbD e)) ∧
      (t.vtype ≤ 7 → 6 ≤ c.toNat → exec (.vcmp c m a b) s = .next (s.trap n t .ve .shapebad 0 0 0))) ∧
    (VeReady s n t [a, b] [x, y] d → GivesAll s n t (.vsel d a b) [a, b] d fun e =>
      if t.active e then elem t.vw x e else elem t.vw y e) ∧
    (s.cur? = some (n, t) → p.toNat ∉ t.ve.mMarks →
      exec (.mnot m p) s = .next (s.setTeam n ((t.setM m (~~~(t.m p))).step .ve)) ∧
      exec (.mpopc k p) s = .next (s.setTeam n ((t.setK k (BitVec.ofNat 64
        ((List.range t.vn).filter fun e => (t.m p).getLsbD e).length)).step .ve)) ∧
      exec (.mfirst k p) s = .next (s.setTeam n ((t.setK k (BitVec.ofNat 64
        (((List.range t.vn).find? fun e => (t.m p).getLsbD e).getD t.vn))).step .ve)) ∧
      (q.toNat ∉ t.ve.mMarks →
        exec (.mand m p q) s = .next (s.setTeam n ((t.setM m (t.m p &&& t.m q)).step .ve)) ∧
        exec (.mor m p q) s = .next (s.setTeam n ((t.setM m (t.m p ||| t.m q)).step .ve)) ∧
        exec (.mxor m p q) s = .next (s.setTeam n ((t.setM m (t.m p ^^^ t.m q)).step .ve))))

/-- 10 R243-R245, 08 R177, R178: the conversion words convert element by element in blocked order, set CONVSAT and CONVINF for active elements, and raise CONVTRAP when an active element does; VQUANT and VDEQ convert the exact
product. -/
def Obligations.ConversionWordsFollowR243ToR245 : Prop :=
  ∀ (s : State) (n : Nat) (t : Team) (d a b : BitVec 8) (ty : BitVec 4), s.cur? = some (n, t) → ty.toNat ≤ 10 → t.vtype ≤ 10 →
    t.vmaskReg.toNat ∉ t.ve.mMarks →
    let wd := typeW ty.toNat
    let w := t.vw
    (∀ p ∈ [(Instr.vcvt d a ty, 1, 1, decide (wd = w)), (.vwiden d a ty, 1, 2, decide (wd = 2 * w)), (.vwiden d a ty, 1, 4, decide (wd = 4 * w)),
            (.vnarrow d a ty, 2, 1, decide (2 * wd = w)), (.vnarrow d a ty, 4, 1, decide (4 * wd = w))],
      p.2.2.2 = true → ∀ vs, Group t a p.2.1 vs → Dest t d p.2.2.1 →
      Converts s n t p.1 [⟨a, p.2.1⟩] ⟨d, p.2.2.1⟩ wd (p.2.1 * t.vn) fun e =>
        toType ty.toNat t.vround t.vpol (typeVal t.vtype (elem w (vs.getD (e / t.vn) 0) (e % t.vn)))) ∧
    (∀ x, wd ≠ w → VeReady s n t [a] [x] d → exec (.vcvt d a ty) s = .next (s.trap n t .ve .shapebad 0 0 0)) ∧
    (∀ x, wd ≠ 2 * w → wd ≠ 4 * w → VeReady s n t [a] [x] 0x80 → exec (.vwiden 0x80 a ty) s = .next (s.trap n t .ve .shapebad 0 0 0)) ∧
    (∀ vs, 2 * wd ≠ w → 4 * wd ≠ w → Group t a 4 vs → exec (.vnarrow 0x80 a ty) s = .next (s.trap n t .ve .shapebad 0 0 0)) ∧
    (∀ x y, VeReady s n t [a, b] [x, y] d →
      (8 ≤ t.vtype → Converts s n t (.vquant d a b) [⟨a, 1⟩, ⟨b, 1⟩] ⟨d, 1⟩ w t.vn fun e =>
        toType (if w = 16 then 4 else 6) t.vround t.vpol (Fl.mul (typeVal t.vtype (elem w x e)) (typeVal t.vtype (elem w y e)))) ∧
      (4 ≤ t.vtype → t.vtype ≤ 7 → Converts s n t (.vdeq d a b) [⟨a, 1⟩, ⟨b, 1⟩] ⟨d, 1⟩ w t.vn fun e =>
        let ft := if w = 16 then 8 else 10
        toType ft t.vround t.vpol (Fl.mul (Fl.ofInt (intValue t.vtype (elem w x e))) (typeVal ft (elem w y e)))) ∧
      (t.vtype ≤ 7 → exec (.vquant d a b) s = .next (s.trap n t .ve .shapebad 0 0 0)) ∧
      (t.vtype ≤ 3 ∨ 8 ≤ t.vtype → exec (.vdeq d a b) s = .next (s.trap n t .ve .shapebad 0 0 0)))

/-- 10 R246, 08 R186, R187: VRSUM, VRMAX and VRMIN give their result in element 0 and zero elsewhere, from the active elements alone; VSCAN gives the left-to-right chain. -/
def Obligations.ReductionsAndScansFollowR246 : Prop :=
  ∀ (s : State) (n : Nat) (t : Team) (d a : BitVec 8) (x : VReg), VeReady s n t [a] [x] d →
    let w := t.vw
    let first (i : Instr) (v : Nat) : Prop := GivesAll s n t i [a] d fun e => if e = 0 then v else 0
    (t.vtype ≤ 7 →
      let vs := (actives t x).map (intValue t.vtype)
      first (.vrsum d a) (pat w vs.sum) ∧
      first (.vrmax d a) (pat w (vs.foldl max (intLow t.vtype))) ∧
      first (.vrmin d a) (pat w (vs.foldl min (intHigh t.vtype))) ∧
      Gives s n t (.vscan d a) [a] d false (fun r => elem w r 0 = withIdentity t 0 x 0 ∧
        ∀ e, e + 1 < t.vn → elem w r (e + 1) = (elem w r e + withIdentity t 0 x (e + 1)) % 2 ^ w)) ∧
    (∀ f, (t.vtype = 8 ∧ f = BF16) ∨ (t.vtype = 9 ∧ f = F16) ∨ (t.vtype = 10 ∧ f = F32) →
      let md := t.vround
      let idn := withIdentity t (if md = .rdn then 0 else 2 ^ (w - 1)) x
      first (.vrsum d a) (treeSum f md 12 ((List.range t.vn).map idn)) ∧
      first (.vrmax d a) (f.round .rne (((actives t x).map f.decode).foldl Fl.max (.inf true))) ∧
      first (.vrmin d a) (f.round .rne (((actives t x).map f.decode).foldl Fl.min (.inf false))) ∧
      Gives s n t (.vscan d a) [a] d false (fun r => elem w r 0 = f.round md (f.decode (idn 0)) % 2 ^ w ∧
        ∀ e, e + 1 < t.vn → elem w r (e + 1) =
          f.round md (Fl.add md (f.decode (elem w r e)) (f.decode (idn (e + 1)))) % 2 ^ w))

/-- 10 R247, Table 10-4, R248: VPERM and VSLIDE move elements into the active places, VBCAST copies one to all, VCOMP packs the active elements and VEXPD spreads them; an index at or above n selects 0.  KGET reads an element and VINS
replaces one. -/
def Sys2Proof.Claims.PermutesFollowTable104 : Prop :=
  ∀ (s : State) (n : Nat) (t : Team) (d a b sh : BitVec 8) (k l : BitVec 4) (x : VReg) (ys : List VReg),
    let w := t.vw
    let el (e : Nat) : Nat := if e < t.vn then elem w x e else 0
    let wi := max w 16
    let cnt := wi / w
    (VeReady s n t [a] [x] d →
      (cnt ≠ 1 → Group t b cnt ys → GivesElements s n t (.vperm d a b) [a] d fun e =>
        el (elem wi (ys.getD (e / (4096 / wi)) 0) (e % (4096 / wi)))) ∧
      (GivesElements s n t (.vslide d a sh) [a] d fun e => if (e : Int) < sh.toInt then 0 else el ((e : Int) - sh.toInt).toNat) ∧
      (k.toNat ∉ t.ve.kMarks → GivesAll s n t (.vbcast d a k) [a] d fun _ => el (t.kreg k).toNat) ∧
      (GivesAll s n t (.vcomp d a) [a] d fun e => (actives t x).getD e 0) ∧
      (GivesAll s n t (.vexpd d a) [a] d fun e => if t.active e then el ((List.range e).filter t.active).length else 0) ∧
      (k.toNat ∉ t.ve.kMarks → exec (.kget l a k) s = .next (s.setTeam n (((t.advanceChunks [⟨a, 1⟩]).setK l (
        let i := (t.kreg k).toNat
        if t.vtype ≤ 7 then BitVec.ofInt 64 (intValue t.vtype (el i)) else BitVec.ofNat 64 (el i))).step .ve)))) ∧
    (∀ y, cnt = 1 → VeReady s n t [a, b] [x, y] d → GivesElements s n t (.vperm d a b) [a, b] d fun e => el (elem w y e)) ∧
    (s.cur? = some (n, t) → Dest t d 1 → ReadsDest t d → k.toNat ∉ t.ve.kMarks → l.toNat ∉ t.ve.kMarks →
      GivesAll s n t (.vins d k l) [] d fun e => if e = (t.kreg l).toNat then (t.kreg k).toNat else oldElem t d w e)

/-- 10 R241, R242, R247, R248: masks, selection and permutation. -/
def Obligations.MaskAndPermuteWords : Prop :=
  Claims.MaskWordsFollowR241AndR242 ∧ Claims.PermutesFollowTable104

/-- 10 R248, Table 10-5: the k and x words write one k or x register with the value the table gives; a marked source raises POISON; KFADD of an integer shape raises SHAPEBAD. -/
def Sys2Proof.Claims.KxWordsFollowTable105 : Prop :=
  ∀ (s : State) (n : Nat) (t : Team) (d a b : BitVec 4) (i : BitVec 20), s.cur? = some (n, t) →
    exec (.kli d i) s = .next (s.setTeam n ((t.setK d (BitVec.ofInt 64 i.toInt)).step .ve)) ∧
    (a.toNat ∉ t.ve.kMarks →
      exec (.xsetXreg d a) s = .next (s.setTeam n ((t.setX d ((t.kreg a).setWidth 23)).step .ve)) ∧
      (b.toNat ∉ t.ve.kMarks →
        exec (.kadd d a b) s = .next (s.setTeam n ((t.setK d (t.kreg a + t.kreg b)).step .ve)) ∧
        exec (.kmul d a b) s = .next (s.setTeam n ((t.setK d (t.kreg a * t.kreg b)).step .ve)) ∧
        (∀ f, (t.vtype = 8 ∧ f = BF16) ∨ (t.vtype = 9 ∧ f = F16) ∨ (t.vtype = 10 ∧ f = F32) →
          exec (.kfadd d a b) s = .next (s.setTeam n ((t.setK d (BitVec.ofNat 64 (f.round t.vround
            (Fl.add t.vround (f.decode ((t.kreg a).toNat % 2 ^ f.w)) (f.decode ((t.kreg b).toNat % 2 ^ f.w)))))).step .ve))))) ∧
    (t.vtype ≤ 7 → exec (.kfadd d a b) s = .next (s.trap n t .ve .shapebad 0 0 0)) ∧
    (a.toNat ∈ t.ve.kMarks → ∀ w ∈ [Instr.kadd d a b, .kmul d a b, .xsetXreg d a], exec w s = .next (s.trap n t .ve .poison 0 0 0)) ∧
    (d.toNat ∉ t.ve.xMarks → exec (.xaddi d i) s = .next (s.setTeam n ((t.setX d
      (BitVec.ofInt 23 ((t.x d).toNat + i.toInt))).step .ve))) ∧
    (d.toNat ∈ t.ve.xMarks → exec (.xaddi d i) s = .next (s.trap n t .ve .poison 0 0 0))

/-- 10 R233, R253, 07 R148, 06 Table 6-6: VSETSH writes VSHAPE (a TYPE above 10 raises SHAPEBAD), VCHMAP maps a chunk register to a declared channel at its first chunk, VSETPAT writes the pattern table, and VADVC and VADVP pass one slot on, or wait, and
return the channel's chunk pointers to 0. -/
def Sys2Proof.Claims.VectorControlWordsWriteTheirState : Prop :=
  ∀ (s : State) (n : Nat) (t : Team) (p r : BitVec 2) (m : BitVec 3) (ty : BitVec 4) (g : BitVec 1) (j : BitVec 3) (c : BitVec 4)
    (w : BitVec 5) (o : BitVec 7), s.cur? = some (n, t) →
    let writes (v : VeState) : Host.Outcome State Fault Refusal := .next (s.setTeam n (({ t with ve := v } : Team).step .ve))
    (ty.toNat ≤ 10 → exec (.vsetsh p r m ty) s =
      writes { t.ve with vshape := BitVec.ofNat 20 (p.toNat * 2 ^ 9 + r.toNat * 2 ^ 7 + m.toNat * 2 ^ 4 + ty.toNat) }) ∧
    (11 ≤ ty.toNat → exec (.vsetsh p r m ty) s = .next (s.trap n t .ve .shapebad 0 0 0)) ∧
    (let zero : PatField := { off := 0, wm1 := 0, sgn := false }
     let f : PatField := { off := o.toNat, wm1 := w.toNat, sgn := decide (g = 1) }
     exec (.vsetpat c g w o) s = writes { t.ve with pats := SMap.put zero t.ve.pats c.toNat f }) ∧
    exec (.vsetpatHdr c o) s = writes { t.ve with patP := o.toNat, patF := c.toNat } ∧
    (t.chanDecl c.toNat = none → ∀ i ∈ [Instr.vchmap g j c, .vadvc c, .vadvp c], exec i s = .next (s.trap n t .ve .chbad 0 0 0)) ∧
    (∀ k, t.chanDecl c.toNat = some k →
      let ch := t.chan c.toNat
      let back (u : Team) (prod : Bool) : Team := { u with ve := { u.ve with chunks := u.ve.chunks.map fun x =>
        if x.2.chan = c.toNat ∧ x.2.producer = prod then (x.1, { x.2 with ptr := 0 }) else x } }
      let map : ChunkMap := { producer := decide (g = 1), chan := c.toNat, ptr := 0 }
      exec (.vchmap g j c) s = writes { t.ve with chunks := SMap.insert t.ve.chunks j.toNat map } ∧
      (ch.c ∉ ch.shown → exec (.vadvc c) s = .next s) ∧ (ch.p ∈ ch.shown → exec (.vadvp c) s = .next s) ∧
      (ch.c ∈ ch.shown → exec (.vadvc c) s = .next (s.setTeam n ((back (t.setChan c.toNat (ch.consume k.slots 1)) false).step .ve))) ∧
      (ch.p ∉ ch.shown → exec (.vadvp c) s = .next (s.setTeam n ((back (t.setChan c.toNat (ch.produce k.slots 1)) true).step .ve))))

/-- 10 R233, R248, R253: the k and x registers and the VE's own state. -/
def Obligations.KxAndVectorControlWords : Prop :=
  Claims.KxWordsFollowTable105 ∧ Claims.VectorControlWordsWriteTheirState

/-- 10 R249-R251, R254: VLD, VLDS and VLDB give the active elements the bytes at their addresses, VLDX each active element those at its own, and VLDP the converted fields of a bit stream; a misaligned address raises ALIGN, one outside the banks SPOOB,
in this order. -/
def Sys2Proof.Claims.VectorLoadsReadTheScratchpad : Prop :=
  ∀ (s : State) (n : Nat) (t : Team) (d : BitVec 8) (x k : BitVec 4) (o : BitVec 12) (p : BitVec 8),
    VeReady s n t [] [] d → x.toNat ∉ t.ve.xMarks →
    let lim := t.bankCount * 0x20000
    let lm := (((t.x x).toNat + o.toInt * 64) % 2 ^ 23).toNat
    let ls := ((t.x x).toNat + p.toNat * 64) % 2 ^ 23
    let stride := (t.kreg k).toInt
    ∀ w ∈ [(Instr.vld d x o, lm, 512, 1, (0 : Int), true), (.vldb d x o, lm, 64, 1, 0, true),
           (.vlds d x k p, ls, 64, 8, stride, decide (k.toNat ∉ t.ve.kMarks))],
      let la := w.2.1
      let size := w.2.2.1
      let num := w.2.2.2.1
      let step := w.2.2.2.2.1
      let at_ (q : Nat) : Nat := pieceAt la step (q / size % num) + q % size
      (la % 64 ≠ 0 ∨ step % 64 ≠ 0 → exec w.1 s = .next (s.trap n t .ve .align 0 la 0)) ∧
      (la % 64 = 0 → step % 64 = 0 →
        ((∃ j < num, lim < pieceAt la step j + size) → ∃ a, exec w.1 s = .next (s.trap n t .ve .spoob 0 a 0)) ∧
        ((∀ j < num, pieceAt la step j + size ≤ lim ∧ t.spMarked (pieceAt la step j) size = false) → w.2.2.2.2.2 = true →
          Gives s n t w.1 [] d true fun r => ∀ b < 4096, r.getLsbD b =
            if t.active (b / t.vw) then (t.spByte (at_ (b / 8))).getLsbD (b % 8) else decide (d.toNat < 128) && (t.v d.toNat).getLsbD b))

/-- 10 R251, R254: VLDX gives each active element the bytes at the address that its index selects, and VLDP the field of the bit stream that its pattern names, converted to the shape; both finish with the stalls of their beats. -/
def Sys2Proof.Claims.IndexedAndPatternLoads : Prop :=
  ∀ (s : State) (n : Nat) (t : Team) (d a : BitVec 8) (x : BitVec 4) (o : BitVec 12) (idx : VReg),
    x.toNat ∉ t.ve.xMarks →
    let lim := t.bankCount * 0x20000
    let size := t.vw / 8
    let addr (e : Nat) : Nat := ((t.x x).toNat + elem t.vw idx e * size) % 2 ^ 23
    (VeReady s n t [a] [idx] d →
      (t.vw < 16 → exec (.vldx d x a) s = .next (s.trap n t .ve .shapebad 0 0 0)) ∧
      (16 ≤ t.vw → (t.x x).toNat % 64 = 0 →
        (∀ e < t.vn, t.active e = true → addr e + size ≤ lim ∧ t.spMarked (addr e) size = false) →
        ∃ z u r, exec (.vldx d x a) s = .next (s.setTeam n u) ∧ Puts (t.advanceChunks [⟨a, 1⟩]) z ⟨d, 1⟩ [r] t.vw t.vn true ∧
          (∀ e < t.vn, elem t.vw r e = if t.active e then ofBytes (t.spRead (addr e) size) else oldElem t d t.vw e) ∧
          ∃ busy, u.ve.ctl.busy = busy ∧ u = (let v := z.step .ve
            v.setCtl .ve { v.ve.ctl with busy := busy }))) ∧
    (VeReady s n t [] [] d →
      let la := (((t.x x).toNat + o.toInt * 64) % 2 ^ 23).toNat
      let num := t.ve.patF + 1
      let period := t.ve.patP + 1
      let fld (f : Nat) : PatField := SMap.get { off := 0, wm1 := 0, sgn := false } t.ve.pats f
      let bytes := ((t.vn + t.ve.patF) / num * period + 7) / 8
      let stream := ofBytes (t.spRead la bytes)
      let value (e : Nat) : Int :=
        let q := fld (e % num)
        let v := stream / 2 ^ (e / num * period + q.off) % 2 ^ (q.wm1 + 1)
        if q.sgn = true ∧ 2 ^ q.wm1 ≤ v then (v : Int) - 2 ^ (q.wm1 + 1) else v
      let conv (e : Nat) : Conv := toType t.vtype t.vround t.vpol (Fl.ofInt (value e))
      (∀ f < num, (fld f).off + (fld f).wm1 + 1 ≤ period) → t.vtype ≤ 10 → la % 64 = 0 → la + bytes ≤ lim → t.spMarked la bytes = false →
      ((∀ e < t.vn, t.active e = true → conv e ≠ .trap) →
        ∃ z u r, exec (.vldp d x o) s = .next (s.setTeam n u) ∧ Puts t z ⟨d, 1⟩ [r] t.vw t.vn true ∧
          (∀ e < t.vn, elem t.vw r e = if t.active e then (conv e).parts.1 % 2 ^ t.vw else oldElem t d t.vw e) ∧
          ∃ sat inf busy, u = (let v := (z.flagConv sat inf).step .ve
            v.setCtl .ve { v.ve.ctl with busy := busy })) ∧
      ((∃ e < t.vn, t.active e = true ∧ conv e = .trap) → exec (.vldp d x o) s = .next (s.trap n t .ve .convtrap 0 0 0)))

/-- 10 R249-R251: VST, VSTS and VSTX write the active elements at their addresses, the later of two at one address standing, and no other bit of scratchpad; of the team nothing but scratchpad and its directory, the chunk pointers and the VE's place changes. -/
def Sys2Proof.Claims.VectorStoresWriteTheirElementsOnly : Prop :=
  ∀ (s : State) (n : Nat) (t : Team) (d a : BitVec 8) (x k : BitVec 4) (o : BitVec 12) (p : BitVec 8) (v idx : VReg),
    x.toNat ∉ t.ve.xMarks →
    let lim := t.bankCount * 0x20000
    let lm := (((t.x x).toNat + o.toInt * 64) % 2 ^ 23).toNat
    let ls := ((t.x x).toNat + p.toNat * 64) % 2 ^ 23
    let stride := (t.kreg k).toInt
    (VeReady s n t [d] [v] 0x80 →
      ∀ w ∈ [(Instr.vst d x o, lm, 512, 1, (0 : Int), true), (.vsts d x k p, ls, 64, 8, stride, decide (k.toNat ∉ t.ve.kMarks))],
        let la := w.2.1
        let size := w.2.2.1
        let step := w.2.2.2.2.1
        let at_ (q : Nat) : Nat := pieceAt la step (q / size) + q % size
        (la % 64 ≠ 0 ∨ step % 64 ≠ 0 → exec w.1 s = .next (s.trap n t .ve .align 0 la 0)) ∧
        (la % 64 = 0 → step % 64 = 0 →
          ((∃ j < w.2.2.2.1, lim < pieceAt la step j + size) → ∃ b, exec w.1 s = .next (s.trap n t .ve .spoob 0 b 0)) ∧
          ((∀ j < w.2.2.2.1, pieceAt la step j + size ≤ lim) → w.2.2.2.2.2 = true →
            ∃ u, exec w.1 s = .next (s.setTeam n (u.step .ve)) ∧ OnlyScratchpad (t.advanceChunks [⟨d, 1⟩]) u ∧
              ∀ c b, b < 8 → StoredBit t t.vw v at_ c b ((u.spByte c).getLsbD b)))) ∧
    (VeReady s n t [d, a] [v, idx] 0x80 → 16 ≤ t.vw → (t.x x).toNat % 64 = 0 →
      let size := t.vw / 8
      let at_ (q : Nat) : Nat := ((t.x x).toNat + elem t.vw idx (q / size) * size) % 2 ^ 23 + q % size
      (∀ e < t.vn, t.active e = true → at_ (size * e) + size ≤ lim) →
      ∃ u busy, exec (.vstx d x a) s = .next (s.setTeam n (let z := u.step .ve
          z.setCtl .ve { z.ve.ctl with busy := busy })) ∧
        OnlyScratchpad (t.advanceChunks [⟨d, 1⟩, ⟨a, 1⟩]) u ∧ ∀ c b, b < 8 → StoredBit t t.vw v at_ c b ((u.spByte c).getLsbD b))

/-- 10 R249-R254: the loads and stores of the VE. -/
def Obligations.VectorAccessesReadAndWriteTheScratchpad : Prop :=
  Claims.VectorLoadsReadTheScratchpad ∧ Claims.IndexedAndPatternLoads ∧ Claims.VectorStoresWriteTheirElementsOnly

/-- 10 R229, R231-R233: a result goes into the operand ring and to its destination: its registers, whose marks it clears; nowhere for ZERO; the scratchpad bytes of its chunk, whose pointer advances.  Nothing else of the team changes but what a TDSCAN and jobs have covered of the dtiles written, and reading a chunk
advances its pointer alone. -/
def Sys2Proof.Claims.VectorResultsGoToTheirDestination : Prop :=
  ∀ (t : Team) (d : BitVec 8) (cnt : Nat) (vals : List VReg), Dest t d cnt → vals.length = cnt → 0 < cnt →
    let u := t.putVec ⟨d, cnt⟩ vals
    u.ve.ring = (vals.reverse ++ t.ve.ring).take 8 ∧
    (d.toNat < 128 → u = { t with ve := { t.ve with ring := u.ve.ring, v := u.ve.v, vMarks := u.ve.vMarks } } ∧
      (∀ r, u.v r = if d.toNat ≤ r ∧ r < d.toNat + cnt then vals.getD (r - d.toNat) 0 else t.v r) ∧
      ∀ r, r ∈ u.ve.vMarks ↔ r ∈ t.ve.vMarks ∧ ¬(d.toNat ≤ r ∧ r < d.toNat + cnt)) ∧
    (d = 0x80 → u = { t with ve := { t.ve with ring := u.ve.ring } }) ∧
    (∀ j c k, d.toNat = 0x90 + j → j < 8 → SMap.get? t.ve.chunks j = some c → t.chanDecl c.chan = some k →
      let la := k.base + (t.chan c.chan).p * k.slotBytes + 512 * c.ptr
      u = { t with sp := u.sp, spMarks := u.spMarks, dirs := u.dirs, scanDt := u.scanDt, covers := u.covers, ve := { t.ve with ring := u.ve.ring, chunks := u.ve.chunks } } ∧
      (∀ a, u.spByte a = if la ≤ a ∧ a < la + 512 * cnt then (toBytes 512 (vals.getD ((a - la) / 512) 0).toNat).getD ((a - la) % 512) 0
        else t.spByte a) ∧
      ∀ i, SMap.get? u.ve.chunks i = if i = j then some { c with ptr := c.ptr + cnt } else SMap.get? t.ve.chunks i)

/-- 10 R234, 17 R405: the checks of an element word in order: a selector that no source may name raises ILLOP; an unmapped chunk register CHBAD; a chunk whose slot is not full makes the word wait; a marked register raises POISON. -/
def Sys2Proof.Claims.VectorOperandsAreCheckedInOrder : Prop :=
  ∀ (s : State) (n : Nat) (t : Team) (d a b : BitVec 8) (k : BitVec 5), s.cur? = some (n, t) → t.vtype ≤ 7 →
    ∀ p ∈ intWords t.vtype d a b k,
      (∀ x ∈ p.srcs, BadSource t x → exec p.i s = .next (s.trap n t .ve .illop 0 0 0)) ∧
      ((∀ x ∈ p.srcs, ¬BadSource t x) → Dest t d 1 → (p.reads = true → ReadsDest t d) →
        ((∃ x ∈ p.srcs, ∃ j, j < 8 ∧ x.toNat = 0x90 + j ∧ SMap.get? t.ve.chunks j = none) → exec p.i s = .next (s.trap n t .ve .chbad 0 0 0)) ∧
        (∀ y, 0x90 ≤ y.toNat → y.toNat < 0x98 → p.srcs.head? = some y → (∀ x ∈ p.srcs.tail, x.toNat < 0x90 ∨ 0x98 ≤ x.toNat) →
          ∀ c q, SMap.get? t.ve.chunks (y.toNat - 0x90) = some c → c.producer = false → t.chanDecl c.chan = some q →
            512 * (c.ptr + 1) ≤ q.slotBytes → (t.chan c.chan).c ∉ (t.chan c.chan).shown → exec p.i s = .next s) ∧
        ((∀ x ∈ p.srcs, x.toNat < 0x90 ∨ 0x98 ≤ x.toNat) → (∃ x ∈ p.srcs, x.toNat < 128 ∧ x.toNat ∈ t.ve.vMarks) →
          exec p.i s = .next (s.trap n t .ve .poison 0 0 0)))

/-- 10 R229-R234: where a vector result goes, and how the operands are checked. -/
def Obligations.VectorOperandsAndResults : Prop :=
  Claims.VectorResultsGoToTheirDestination ∧ Claims.VectorOperandsAreCheckedInOrder

/-! The matrix engine, the transfer units and the gather queue (11, 12, 13). -/

/-- 13 R330, R343, 11 R262, R270, R271, 07 R151, R153: NSET, NSETH and XSET write their bits of the field they name and no other bit of the shadow, the first part clearing the field's bits above it; a field number that names none and a
value too wide raise ILLOP; NLD and XLD load the whole shadow from the scratchpad, at a cost of two cycles, and raise SPOOB outside the banks. -/
def Obligations.DescriptorWordsWriteTheShadow : Prop :=
  ∀ (s : State) (n : Nat) (t : Team) (f : BitVec 8) (v : BitVec 20) (g : BitVec 6) (p : BitVec 2) (u : BitVec 19) (a : BitVec 16) (b : BitVec 17),
    s.cur? = some (n, t) →
    let lim := t.bankCount * 0x20000
    let sx := t.tu s.stream
    let me (d : BitVec 1024) : Team := { t with me := { t.me with shadow := d } }
    let tu (d : BitVec 512) : Team := t.updTu s.stream fun q => { q with shadow := d }
    (∀ w ∈ [(Instr.nset f v, 0), (.nseth f v, 20)],
      (Machine.nestField f.toNat = none → exec w.1 s = .next (s.illop n t .me)) ∧
      (∀ k, Machine.nestField f.toNat = some k →
        (2 ^ k.width ≤ v.toNat * 2 ^ w.2 → exec w.1 s = .next (s.illop n t .me)) ∧
        (v.toNat * 2 ^ w.2 < 2 ^ k.width → ∃ d, exec w.1 s = .next (s.setTeam n ((me d).step .me)) ∧
          WritesField t.me.shadow.toNat d.toNat 1024 (8 * k.off) (8 * k.size) w.2 20 v.toNat))) ∧
    (Machine.xferField g.toNat = none → exec (.xset g p u) s = .next (s.illop n t s.stream)) ∧
    (∀ k, Machine.xferField g.toNat = some k →
      (2 ^ k.width ≤ u.toNat * 2 ^ (19 * p.toNat) → exec (.xset g p u) s = .next (s.illop n t s.stream)) ∧
      (u.toNat * 2 ^ (19 * p.toNat) < 2 ^ k.width → ∃ d, exec (.xset g p u) s = .next (s.setTeam n ((tu d).step s.stream)) ∧
        WritesField sx.shadow.toNat d.toNat 512 (8 * k.off) (8 * k.size) (19 * p.toNat) 19 u.toNat)) ∧
    (let costs (w : Team) (e : Engine) : Team := (w.step e).setCtl e { (w.step e).ctl e with busy := t.cycle + 2 }
     (128 * a.toNat + 128 ≤ lim →
       exec (.nld a) s = .next (s.setTeam n (costs (me (BitVec.ofNat 1024 (ofBytes (t.spRead (128 * a.toNat) 128)))) .me))) ∧
     (lim < 128 * a.toNat + 128 → exec (.nld a) s = .next (s.trap n t .me .spoob 10 (128 * a.toNat) 0)) ∧
     (64 * b.toNat + 64 ≤ lim →
       exec (.xld b) s = .next (s.setTeam n (costs (tu (BitVec.ofNat 512 (ofBytes (t.spRead (64 * b.toNat) 64)))) s.stream))) ∧
     (lim < 64 * b.toNat + 64 → exec (.xld b) s = .next (s.trap n t s.stream .spoob 10 (64 * b.toNat) 0)))

/-- 13 R335, R343, 06 R125, 07 R154: MGO checks its completion object, waits while four nests are outstanding, raises what the first failing check of Table 13-6 gives, and otherwise queues the nest of the shadow, numbered one above the last, with its named
cycle; MWAIT goes on when at most its count of nests are outstanding; MCLR queues a clear among the nests, MDRAIN one when no nest is outstanding. -/
def Obligations.MatrixWordsQueueNestsAndClears : Prop :=
  ∀ (s : State) (n : Nat) (t : Team) (o : BitVec 8) (c : BitVec 1) (d : BitVec 16) (k : BitVec 3), s.cur? = some (n, t) →
    let num := t.me.nests
    let queue (x : MeItem) : Team := { t with me := { t.me with queue := t.me.queue ++ [x] } }
    (∀ x, t.coFault o.toNat = some x → exec (.mgo o c d) s = .next (s.trap n t .me x 0 0 0)) ∧
    (t.coFault o.toNat = none →
      (4 ≤ num → exec (.mgo o c d) s = .next s) ∧
      (num < 4 →
        let seq := (t.me.seq + 1) % 2 ^ 32
        let nest : Nest := { desc := t.me.shadow, co := o.toNat, chain := decide (c = 1), pc := t.me.ctl.pc, seq := seq,
                             named := if d = 0 then none else some (t.cycle + 16 * d.toNat), issued := t.cycle }
        (∀ f, t.nestCheck nest = some f →
          let pf : PendFault := { cause := f.cause, eng := 2, operand := f.operand, field := f.field, pc := t.me.ctl.pc,
                                  addr := BitVec.ofNat 64 f.addr, seq := seq }
          exec (.mgo o c d) s = .next (s.raise n pf)) ∧
        (t.nestCheck nest = none →
          exec (.mgo o c d) s = .next (s.setTeam n (({ queue (.nest nest) with me := { (queue (.nest nest)).me with seq := seq } } : Team).step .me))))) ∧
    exec (.mwait k) s = .next (if k.toNat < num then s else s.setTeam n (t.step .me)) ∧
    (∀ w ∈ [(Instr.mclr0, 1), (.mclr1, 2), (.mclrBoth, 3)], exec w.1 s = .next (s.setTeam n ((queue (.clear w.2 0)).step .me))) ∧
    (num = 0 → exec .mdrain s = .next (s.setTeam n ((queue (.drop 0)).step .me))) ∧
    (0 < num → exec .mdrain s = .next s)

/-- 11 R264, R266, R272, R281, 12 R310-R317: a go-word checks its completion object, waits while eight jobs of its stream are outstanding, raises what its first failing check gives, and otherwise adds the job of the shadow, numbered one above the last, with its named
cycle; XWAIT goes on when at most its count of jobs are outstanding. -/
def Sys2Proof.Claims.GoWordsAddTheirJob : Prop :=
  ∀ (s : State) (n : Nat) (t : Team) (o : BitVec 8) (d : BitVec 16) (k : BitVec 3), s.cur? = some (n, t) →
    exec (.xwait k) s = .next (if k.toNat < (t.tu s.stream).outstanding then s else s.setTeam n (t.step s.stream)) ∧
    (∀ w ∈ [(Instr.xgo o d, JobKind.xgo), (.xmc o d, .xmc), (.xconv o d, .xconv), (.xdec o d, .xdec), (.xgath o d, .xgath),
            (.xscat o d, .xscat), (.xpushr o d, .xpushr)],
      let j := s.withFmts n t (t.newJob s.stream w.2 o d)
      j.kind = w.2 ∧ j.desc = (t.tu s.stream).shadow ∧ j.co = o.toNat ∧ j.pc = (t.ctl s.stream).pc ∧ j.done = false ∧
      j.named = (if d = 0 then none else some (t.cycle + 16 * d.toNat)) ∧ j.seq = ((t.tu s.stream).count + 1) % 2 ^ 32 ∧
      GoWord s n t s.stream w.1 j (s.xferCheck n t j) t)

/-- 12 R310-R319: LPOP and LPEEK wait while an earlier one is to write their entry register, and LPOP in a loop is noted for the loop's end; GFETCH, GSHIFT and GPOOL take their entry register as it stands, and complete at once on a class they do not act on; GDONE addresses every other member of
its gang, and outside a gang raises XFERBAD.  Otherwise they are go-words of the GQ. -/
def Sys2Proof.Claims.GatherWordsAddTheirJob : Prop :=
  ∀ (s : State) (n : Nat) (t : Team) (o : BitVec 8) (e : BitVec 3) (d : BitVec 16), s.cur? = some (n, t) →
    let busy : Prop := ∃ j ∈ t.gq.jobs, (j.kind = .lpop ∨ j.kind = .lpeek) ∧ j.ent = e.toNat
    let depth := t.gq.ctl.loops.length
    (busy → ∀ i ∈ [Instr.lpop o e d, .lpeek o e d, .gfetch o e d, .gshift o e d, .gpool o e d], exec i s = .next s) ∧
    (¬busy →
      (let j : TuJob := { t.newJob .gq .lpop o d with ent := e.toNat }
       GoWord s n t .gq (.lpop o e d) j j.plainCheck
         (if depth = 0 then t else { t with gq := { t.gq with iterPops := t.gq.iterPops ++ [(depth, j.seq)] } })) ∧
      (let j : TuJob := { t.newJob .gq .lpeek o d with ent := e.toNat }
       GoWord s n t .gq (.lpeek o e d) j j.plainCheck t) ∧
      ∀ w ∈ [(Instr.gfetch o e d, JobKind.gfetch, [1, 2]), (.gshift o e d, .gshift, [3]), (.gpool o e d, .gpool, [1, 2])],
        let v := SMap.get 0 t.gq.ent e.toNat
        let j : TuJob := { t.newJob .gq w.2.1 o d with
          ent := e.toNat, res := v, done := decide (v.toNat / 2 ^ 40 % 256 ∉ w.2.2) }
        t.coFault o.toNat = none → t.gq.outstanding < 8 → State.gatherCheck n t j = none →
          exec w.1 s = .next ((addJob s n .gq j t).fireStream n .gq)) ∧
    (let j := t.newJob .gq .gdone o 0
     t.coFault o.toNat = none → t.gq.outstanding < 8 →
       (t.gang = [] → j.plainCheck = none → exec (.gdone o) s = .next (s.raise n { cause := .xferbad, eng := 5, field := 2, pc := t.gq.ctl.pc, seq := j.seq })) ∧
       (t.gang ≠ [] → j.plainCheck = none →
         (∀ ix < t.gang.length, t.gang.getD ix 0 ≠ n → ∃ c, t.pushDecl n ix (Xfer.aux j.d / 16 % 16) = some c ∧ Xfer.dst j.d + 64 ≤ c.slotBytes) →
         exec (.gdone o) s = .next (addJob s n .gq j t)))

/-- 11 R264, R281, 12 R310-R319: the go-words of the transfer streams and the GQ. -/
def Obligations.TransferAndGatherGoWords : Prop :=
  Claims.GoWordsAddTheirJob ∧ Claims.GatherWordsAddTheirJob

/-! Operations and events of the device's units. -/

/-- 18 Table 18-4 (T4), 19 R437: while module power is absent no operation and no event of a unit happens and no word issues; the host's power cycle alone brings the device back. -/
def Obligations.NothingHappensWithoutPower : Prop :=
  ∀ (s : State), s.start.powered = false →
    (∀ i : Instr, i.streams = [] → i ≠ .powerOnStart → exec i s = .fault .noPower) ∧
    (s.agenda = [] → step s = .fault .noPower) ∧ exec .powerOnStart s = .next s.atPowerGood

/-- 03 R50, R51, R74, 04 R90, 05 R111, 12 R289, 16 R378, 19 R427: what a host write to the registers of BAR0 sets, bit by bit; a register locked by its rule keeps its value. -/
def Obligations.HostWritesSetTheRegistersOfBar0 : Prop :=
  ∀ (s : State) (v : DWord), HostReaches s →
    (∀ k < 4096, exec (.registerWrite (0x190000 + 8 * k) v) s = .next (s.setTicket k { s.ticket k with en := v.getLsbD 63, asid := v.setWidth 12 })) ∧
    ((∀ p ∈ s.queues, p.2.st = .disabled) →
      exec (.registerWrite 0x1A0000 v) s = .next { s with host := { s.host with swpbase := v &&& 0x000FFFFFFFFFF000 } } ∧
      exec (.registerWrite 0x1A0008 v) s = .next { s with host := { s.host with swpsize := v &&& 0x000000FFFFFFF000 } }) ∧
    ((∃ p ∈ s.queues, p.2.st ≠ .disabled) → exec (.registerWrite 0x1A0000 v) s = .next s ∧ exec (.registerWrite 0x1A0008 v) s = .next s) ∧
    (∀ a < 4096, exec (.registerWrite (0x1B0000 + 8 * a) v) s = .next (s.updAsid a fun r => { r with ptroot := v &&& 0x000FFFFFFFFFF001 })) ∧
    exec (.registerWrite 0x1B8000 v) s = .next { s with host := { s.host with invaddr := v &&& 0x01FFFFFFFFFFF000 } } ∧
    exec (.registerWrite 0x1B8008 v) s = exec (.invalidateGo v) s ∧
    exec (.registerWrite 0x1B8010 v) s = .next { s with host := { s.host with inverr := s.host.inverr && !v.getLsbD 1 } } ∧
    (∀ c < 256, exec (.registerWrite (0x1C0000 + 8 * c) v) s = .next (s.updCodec c fun x => { x with en := v.getLsbD 63, asid := v.setWidth 12 })) ∧
    (∀ q < 272, exec (.registerWrite (0x1E0000 + 8 * q) v) s = exec (.pwrqWrite q v) s) ∧
    exec (.registerWrite 0x1E2000 v) s = exec (.bstbudWrite v) s ∧
    exec (.registerWrite 0x1F0008 v) s = .next { s with host := { s.host with winbase := v &&& 0x0000007FC0000000 } } ∧
    exec (.registerWrite 0x1F0010 v) s = .next { s with host := { s.host with pwinbase := v &&& 0x0000007FC0000000 } } ∧
    (∀ q < 272,
      ((s.queue q).st = .disabled →
        exec (.registerWrite (0x200000 + 32 * q) v) s = .next (s.updQueue q fun k => { k with qcba := v &&& 0x01FFFFFFFFFFFFC0 })) ∧
      ((s.queue q).st ≠ .disabled → exec (.registerWrite (0x200000 + 32 * q) v) s = .next s) ∧
      exec (.registerWrite (0x200008 + 32 * q) v) s = .next (s.updQueue q fun k =>
        { k with quant := v.extractLsb' 32 16, weight := v.extractLsb' 24 8, cls := v.extractLsb' 20 2,
                 asid := if k.st = .disabled then v.setWidth 12 else k.asid }) ∧
      exec (.registerWrite (0x200010 + 32 * q) v) s = .next (s.updQueue q fun k =>
        { k with tf := v.extractLsb' 40 20, tk := v.extractLsb' 20 20, tp := v.setWidth 20 }) ∧
      (v.toNat % 8 = 4 → exec (.registerWrite (0x200018 + 32 * q) v) s = exec (.queueReset q) s) ∧
      (v.toNat % 8 = 2 → exec (.registerWrite (0x200018 + 32 * q) v) s = exec (.queueTeardown q) s) ∧
      (v.toNat % 8 = 1 → exec (.registerWrite (0x200018 + 32 * q) v) s = exec (.queueEnable q) s) ∧
      (v.toNat % 8 = 0 → exec (.registerWrite (0x200018 + 32 * q) v) s = exec (.queueDisable q) s)) ∧
    (∀ a < 4096,
      ((∀ p ∈ s.snaps, p.1 / 256 = a → p.2.levels = []) →
        exec (.registerWrite (0x280000 + 32 * a) v) s = .next (s.updAsid a fun r => { r with snrtab := v &&& 0x000FFFFFFFFFF001 }) ∧
        exec (.registerWrite (0x280008 + 32 * a) v) s = .next (s.updAsid a fun r => { r with snpbase := v &&& 0x000FFFFFFFFFF000 }) ∧
        exec (.registerWrite (0x280010 + 32 * a) v) s = .next (s.updAsid a fun r => { r with snpsize := v &&& 0x000000FFFFFFF000 })) ∧
      ((∃ p ∈ s.snaps, p.1 / 256 = a ∧ p.2.levels ≠ []) → ∀ r < 3, exec (.registerWrite (0x280000 + 32 * a + 8 * r) v) s = .next s)) ∧
    (∀ off ∈ [0x1E2008, 0x1F0000], exec (.registerWrite off v) s = .next s)

/-- 03 R49-R51, R78, Table 3-5: EN = 1 makes a DISABLED queue with a sound block ACTIVE, and one with a bad block BROKEN, with a record of type 0x41 that names the field and the reason; EN = 0 makes an ACTIVE or BROKEN queue DISABLED; TEARDOWN and
RESET put a queue in TEARDOWN, give each of its tasks that has not ended the class 0x07, and ask every resident team of its started tasks to halt and be killed: one that does not issue has gone at once, an issuing one is asked.  The field that a
poisoned block names is the model's choice (log 24). -/
def Sys2Proof.Claims.QueueStatesFollowTable35 : Prop :=
  ∀ (s : State) (q : Nat), HostReaches s → q < 272 →
    ((s.queue q).st = .disabled →
      (∀ b, BlockSound s q b → Answers (.queueEnable q) s fun s' => OnlyQueue s s' q ∧
        s'.queue q = { s.queue q with st := .active, en := true, irq := b.qflags.testBit 0, clsNow := (s.queue q).cls, watch := none, wake := false }) ∧
      (∀ off reason, BadBlock s q off reason → ∃ s1, OnlyQueue s s1 q ∧
        s1.queue q = { s.queue q with st := .broken, en := true, clsNow := (s.queue q).cls, watch := none, wake := false } ∧
        exec (.queueEnable q) s = .next (s1.logRec 0x41 [q, off, reason]))) ∧
    ((s.queue q).st ≠ .disabled → exec (.queueEnable q) s = .next s) ∧
    ((s.queue q).st = .active ∨ (s.queue q).st = .broken → Answers (.queueDisable q) s fun s' => OnlyQueue s s' q ∧
      s'.queue q = { s.queue q with st := .disabled, en := false, watch := none, wake := false }) ∧
    ((s.queue q).st = .disabled ∨ (s.queue q).st = .teardown → exec (.queueDisable q) s = .next s) ∧
    ((s.queue q).st = .teardown → exec (.queueTeardown q) s = .next s ∧ exec (.queueReset q) s = .next s) ∧
    (∀ reset, (s.queue q).st ≠ .teardown → Answers (if reset then .queueReset q else .queueTeardown q) s fun s' =>
      (s'.queue q).st = .teardown ∧ (s'.queue q).resetting = reset ∧ (s'.queue q).watch = none ∧
      (∀ i k, s.task? i = some k → k.queue = q → ∃ k', s'.task? i = some k' ∧
        k'.stop = if s.finished k then k.stop else some (0x07000000 + q)) ∧
      (∀ n t k, s.team? n = some t → s.task? t.tid = some k → k.queue = q → k.started = true → s.finished k = false →
        ((s.core (coreOfSlot n)).issuing = some n → ∃ u, s'.team? n = some u ∧ u.preempt = true ∧ u.kill ≠ none) ∧
        ((s.core (coreOfSlot n)).issuing ≠ some n → s'.team? n = none)) ∧
      ((∀ p ∈ s.teams, s.team? p.1 = some p.2) → ∀ n t, s.team? n = some t → (∀ k ∈ s.tasks, k.id = t.tid → k.queue ≠ q) →
        ∃ u, s'.team? n = some u ∧ u.tid = t.tid ∧ u.preempt = t.preempt ∧ u.kill = t.kill))

/-- 03 R78, Table 3-8: once the teams of a queue in TEARDOWN have halted and their writes have drained, its tasks leave the window and the queue is DISABLED, or, for a RESET, validated again; until then it waits. -/
def Sys2Proof.Claims.TeardownEndsTheQueuesTasks : Prop :=
  ∀ (s : State) (q : Nat), s.start.powered = true → (s.queue q).st = .teardown →
    (s.tornDown q = true → Answers (.teardownFinish q) s fun s' =>
      (∀ k ∈ s'.tasks, k.queue ≠ q) ∧
      ((s.queue q).resetting = false → (s'.queue q).st = .disabled ∧ (s'.queue q).en = false) ∧
      ((s.queue q).resetting = true → (s'.queue q).st = .active ∨ (s'.queue q).st = .broken)) ∧
    (s.tornDown q = false → exec (.teardownFinish q) s = .next s)

/-- 03 R53, R54, R60, R70: a visit of the queue manager to a queue with a record ready, in its turn, consumes the record: CTRL is cleared and HEAD advanced; a valid record becomes the youngest task of the window, with its
future PENDING; a rejected one resolves its future to ERROR with the value of Table 2-1; without a bindable future the record is discarded.  An empty ring makes the queue manager sleep on the line of the block, a record that is not VALID on the line of
its slot; a write there wakes it. -/
def Sys2Proof.Claims.TheQueueManagerConsumesRecords : Prop :=
  ∀ (s : State) (q : Nat), s.start.powered = true →
    (∀ b r va pa, RecordAt s q b r va pa →
      let k := s.queue q
      let a := k.asid.toNat
      let fl := fieldAt r 2 2
      let h : BitVec 32 := BitVec.ofNat 32 (fieldAt r 0x18 4)
      let st := if fl.testBit 5 then s.stamped.find? (·.at_ = pa) else none
      let s0 := s.described a r st.isSome
      let done (s1 : State) : State := consumed s1 q b va a k.qcba.toNat k.clsNow.toNat
      let enter (s1 : State) (t : Task) : State :=
        ({ s1 with tasks := s1.tasks ++ [t], nextTask := s1.nextTask + 1 } : State).updQueue q fun x => { x with prev := some t.id }
      (fl.testBit 2 = true → (∀ i, HandleNames s0 a h i → (s0.future i).st ≠ .empty) → exec (.recordAdmit q) s = .next (done (s0.discardRecord q h))) ∧
      (∀ d, s.describe a r st.isSome = .ok d →
        (fl.testBit 2 = false → exec (.recordAdmit q) s = .next (done (enter s0 (s0.newTask q r d st)))) ∧
        (fl.testBit 2 = true → ∀ i, HandleNames s0 a h i → (s0.future i).st = .empty →
          exec (.recordAdmit q) s = .next (done (enter (s0.setFuture i { s0.future i with st := .pending }) (s0.newTask q r d st))))) ∧
      (∀ e, s.describe a r st.isSome = .error e →
        (fl.testBit 2 = false → exec (.recordAdmit q) s = .next (done s0)) ∧
        (fl.testBit 2 = true → ∀ i, HandleNames s0 a h i → (s0.future i).st = .empty → exec (.recordAdmit q) s = .next (done
          ((s0.futureWake i { s0.future i with st := .error, value := BitVec.ofNat 64 (0x01000000 + e.1 * 2 ^ 20 + e.2 % 2 ^ 16) }).queueIrq q))))) ∧
    (∀ b e, (s.queue q).st = .active → (s.queue q).watch = none → s.windowAdmits q = true → BlockIs s q b →
      (b.head = b.tail → s.walk (s.queue q).asid.toNat (s.queue q).qcba.toNat = .ok e →
        exec (.recordAdmit q) s = .next (s.updQueue q fun k =>
          { k with watch := some ((e.pa + ((s.queue q).qcba.toNat - e.va)) / 128), wake := false })) ∧
      (∀ r, b.head ≠ b.tail → ReadsAs s (s.queue q).asid.toNat (b.slot b.head) 64 r → fieldAt r 0 1 % 2 = 0 →
        s.walk (s.queue q).asid.toNat (b.slot b.head) = .ok e →
        exec (.recordAdmit q) s = .next (s.updQueue q fun k =>
          { k with watch := some ((e.pa + (b.slot b.head - e.va)) / 128), wake := false }))) ∧
    ((s.queue q).wake = true → (s.queue q).st = .active →
      ((s.queue q).watch ≠ s.lineOf (s.queue q).asid.toNat (s.queue q).qcba.toNat →
        exec (.queueWake q) s = .next (s.updQueue q fun k => { k with watch := none, wake := false })) ∧
      ((s.queue q).watch = s.lineOf (s.queue q).asid.toNat (s.queue q).qcba.toNat →
        exec (.queueWake q) s = .next ((s.updQueue q fun k => { k with watch := none, wake := false }).validateQueue q)))

/-- 03 R49-R54, R60, R70, R78: the states of a queue and the consumption of its records. -/
def Obligations.QueuesAndTheirManager : Prop :=
  Claims.QueueStatesFollowTable35 ∧ Claims.TeardownEndsTheQueuesTasks ∧ Claims.TheQueueManagerConsumesRecords

/-- 03 R69, R73, R76: a read of the allocation register gives the host the handle of a FREE entry, which becomes EMPTY, or 0; a future or ticket operation task that may start performs its operation and leaves the window READY, or
ERROR with class 0x0A when the operation is refused.  Which FREE entry is taken is the model's choice (log 16). -/
def Sys2Proof.Claims.OperationTasksPerformTheirOperation : Prop :=
  ∀ (s : State) (tid : Nat),
    (∀ asid < 4096, HostReaches s →
      (∀ i, 1 ≤ i → i < 65536 → (s.future i).st = .free → (∀ j, 1 ≤ j → j < i → (s.future j).st ≠ .free) →
        let f := s.future i
        exec (.futureAllocRead asid) s = .next (sends (s.setFuture i { f with asid := some asid, st := .empty, value := 0 })
          (.reg (BitVec.ofNat 64 (f.gen.toNat * 65536 + i))))) ∧
      ((∀ i, 1 ≤ i → i < 65536 → (s.future i).st ≠ .free) → exec (.futureAllocRead asid) s = .next (sends s (.reg 0)))) ∧
    (∀ k, s.start.powered = true → s.task? tid = some k → Startable s k →
      let op := k.arg0.toNat % 256
      let h : BitVec 32 := BitVec.ofNat 32 (k.arg0.toNat / 2 ^ 32)
      let n := k.arg0.toNat / 2 ^ 32 % 4096
      let refused : DWord := BitVec.ofNat 64 (0x0A000000 + op)
      (k.typ = 7 → ∀ i, FutureTask i tid op →
        (∀ e, HandleNames s k.asid h e →
          (∀ f, futureAfter (s.future e) op k.arg1 = some f → exec i s = .next ((futureDone s e op f).leaveTask k .ready 0)) ∧
          (futureAfter (s.future e) op k.arg1 = none → exec i s = .next (s.leaveTask k .error refused))) ∧
        ((∀ e, ¬HandleNames s k.asid h e) → exec i s = .next (s.leaveTask k .error refused))) ∧
      (k.typ = 8 →
        let usable : Prop := (s.ticket n).en = true ∧ (s.ticket n).asid.toNat = k.asid
        (op = 1 → usable → exec (.taskTicketServe tid) s = .next (((s.setTicket n { s.ticket n with
            serve := (s.ticket n).serve + BitVec.ofNat 32 (k.arg1.toNat % 2 ^ 32) }).wakeTeams fun p => match p with
          | .ticket m _ => m = n
          | _ => false).leaveTask k .ready 0)) ∧
        (op = 2 → usable → exec (.taskTicketInit tid) s = .next ((s.setTicket n { s.ticket n with
            next := BitVec.ofNat 32 (k.arg1.toNat % 2 ^ 32), serve := BitVec.ofNat 32 (k.arg1.toNat % 2 ^ 32) }).leaveTask k .ready 0)) ∧
        (op = 1 → ¬usable → exec (.taskTicketServe tid) s = .next (s.leaveTask k .error refused)) ∧
        (op = 2 → ¬usable → exec (.taskTicketInit tid) s = .next (s.leaveTask k .error refused))))

/-- 03 R59, R61, R72, 12 R286: a kernel task whose teams have all exited and whose writes have drained leaves the window READY with value 0, or ERROR with the value of its first failure; an engine job leaves with its result, or with class 0x09,
its cause and its detail, a fenced one with cause 0x0E; a task that has not started leaves ERROR with the value that the failure of a waited future gave it and CANCELLED when its submitter was killed.  The task leaves the window and its future takes the state and value. -/
def Sys2Proof.Claims.TasksLeaveTheWindowWithTheirResult : Prop :=
  ∀ (s : State) (tid : Nat) (k : Task), s.start.powered = true → s.task? tid = some k → k.stop = none →
    (k.started = true → k.wdStage = 0 →
      (k.typ = 1 → k.jobEnd ≠ some .fenced → s.hintedLeft tid = true → (∀ p ∈ s.teams, p.2.tid ≠ tid) → (∀ t ∈ s.swapped, t.tid ≠ tid) → s.taskUndrained tid = false →
        (∀ x, k.k = some x → k.exited.length = x.teams) →
        (k.fail = none → k.exitErr = false → exec (.taskRetire tid) s = .next (s.leaveTask k .ready 0)) ∧
        (k.fail = none → k.exitErr = true → exec (.taskRetire tid) s = .next (s.leaveTask k .error 0x04000000)) ∧
        (∀ f, k.fail = some f → exec (.taskRetire tid) s = .next (s.leaveTask k .error (f.setWidth 64)))) ∧
      (k.typ ≠ 1 →
        (∀ v, k.jobEnd = some (.ok v) → exec (.taskRetire tid) s = .next (s.leaveTask k .ready v)) ∧
        (∀ c d, k.jobEnd = some (.err c d) →
          exec (.taskRetire tid) s = .next (s.leaveTask k .error (BitVec.ofNat 64 (0x09000000 + c % 256 * 65536 + d % 65536)))) ∧
        (k.jobEnd = some .fenced → exec (.taskRetire tid) s = .next (s.leaveTask k .error 0x090E0000)) ∧
        (k.jobEnd = none → exec (.taskRetire tid) s = .next s))) ∧
    (k.started = false → (k.typ = 1 → s.hintedLeft tid = true) →
      (∀ v, k.cancelled = some v → s.submitterTorn k = false → exec (.taskRetire tid) s = .next (s.leaveTask k .cancelled (v.setWidth 64))) ∧
      (k.cancelled = none → ∀ v, k.waitFail = some v → exec (.taskRetire tid) s = .next (s.leaveTask k .error v))) ∧
    (∀ st v, (∀ j ∈ (s.leaveTask k st v).tasks, j.id ≠ k.id) ∧
      ∀ h i, k.resfut = some h → i = h.toNat % 65536 → (s.future i).st = .pending → (s.future i).gen.toNat = h.toNat / 65536 →
        (s.leaveTask k st v).future i = { s.future i with st := st, value := v })

/-- 03 R59, R61, R69-R76: operation tasks, and how a task leaves the window. -/
def Obligations.OperationTasksAndResults : Prop :=
  Claims.OperationTasksPerformTheirOperation ∧ Claims.TasksLeaveTheWindowWithTheirResult

/-- 03 R51, R66, 04 R82-R86, R92, 02 R41-R44: when its queue's turn has come the dispatcher places a team of a kernel that waits for a place, or its gang, on legal places: each member is resident, its banks not yet cleared, with its TEAMIX, GANGIX and WID,
zero registers and every engine RUNNING at word 0; the task records it, and the queue's CLASS, QUANT and LVLCAP come into effect; no other slot changes.  With teams to evict from a core that suits the team
but has no room it only begins to swap those out. -/
def Sys2Proof.Claims.PlacementCreatesTheTeamsOfAGang : Prop :=
  ∀ (s : State) (tid ix : Nat) (t : Task) (k : Kernel), s.start.powered = true → MayPlace s tid ix t k →
    let cls := (s.queue t.queue).cls.toNat
    let starving := decide (s.starvedNow.head? = some cls)
    (s.chooseQueue starving cls t.queue).2 = some t.queue →
    (∀ places, places.map (·.1) = k.together ix → (∀ p ∈ places, p.1 ∉ t.placed ∧ ∀ u ∈ s.swapped, ¬(u.tid = tid ∧ u.teamix = p.1)) →
      s.placesOk t k ix places = true →
      Answers (.teamPlace tid ix places []) s fun s' =>
        (∀ p ∈ places, ∃ u, s'.team? p.2 = some u ∧ u.tid = tid ∧ u.teamix = p.1 ∧ u.gangix = k.gangix p.1 ∧ u.wid = BitVec.ofNat 64 (k.wid p.1) ∧
          u.asid = t.asid ∧ u.queue = t.queue ∧ u.tag = t.tag ∧ u.res = .resident ∧ u.banksReady = false ∧ u.cycle = 0 ∧ u.status = 0 ∧
          (∀ r, u.s r = 0) ∧ ∀ e, (u.ctl e).pc = 0 ∧ (u.ctl e).st = .running ∧ (u.ctl e).loops = []) ∧
        (∃ t', s'.task? tid = some t' ∧ t'.started = true ∧ ∀ p ∈ places, p.1 ∈ t'.placed ∧ p.2 ∈ t'.slots) ∧
        (let q := s'.queue t.queue
         q.clsNow = (s.queue t.queue).cls ∧ q.quantNow = (s.queue t.queue).quant ∧ q.lvlNow = (s.queue t.queue).lvlcap) ∧
        ∀ m, (∀ p ∈ places, p.2 ≠ m) → s'.team? m = s.team? m) ∧
    (∀ p r evict, evict ≠ [] → p.1 ∈ k.together ix → t.suits k p = true → s.roomOn (coreOfSlot p.2) k tid [] = false →
      evict = s.victim (coreOfSlot p.2) cls starving → s.findsRoom t k ix (s.allEvictable cls starving) = true →
      ∃ os, s.roomFor evict = some os ∧ exec (.teamPlace tid ix (p :: r) evict) s =
        .next ((evict.zip os).foldl (fun s p => s.updTeam p.1 fun u => { u with res := .swappingOut, image := p.2 }) s))

/-- 04 R85, R91, 09 R211, 14 R345, 15 R369: a kernel slot that has loaded holds the sections and the task's translation table; cleared banks make a team ready; a team that has drained moves out to the pool, leaving its slot free and
writing nothing but its image there; a team swapped in is resident again, from now on and with no time issued. -/
def Sys2Proof.Claims.SlotsLoadAndTeamsSwap : Prop :=
  ∀ (s : State) (n : Nat) (t : Team), s.start.powered = true →
    (∀ c ks a k x s1 ss bad, (if ks = 0 then (s.core c).ks0 else (s.core c).ks1) = some a → a.loaded = false → s.task? a.tid = some k → k.k = some x →
      s.loadSections x { tid := a.tid, ktt := k.ktt } (if c < 64 then [0, 1, 2, 3, 4] else [0, 3, 4, 5]) = (s1, some (ss, bad)) →
      Answers (.kernelSlotLoaded c ks) s fun s' =>
        (if ks = 0 then (s'.core c).ks0 else (s'.core c).ks1) = some { tid := a.tid, loaded := true, sects := ss, ktt := k.ktt, bad := bad }) ∧
    (s.team? n = some t →
      (t.banksReady = false → Answers (.bankClearDone n) s fun s' => ∃ u, s'.team? n = some u ∧ u.banksReady = true ∧ u.res = t.res ∧ u.tid = t.tid) ∧
      (t.res = .swappingOut → Quiet s n t → t.blocks = [] → (s.core (coreOfSlot n)).issuing ≠ some n →
        Answers (.swapOutDone n) s fun s' => s'.team? n = none ∧ s'.swapped = s.swapped ++ [{ t with res := .swapped }] ∧
          (∀ m, m ≠ n → s'.team? m = s.team? m) ∧ (∀ k, s'.task? t.tid = some k → n ∉ k.slots) ∧
          ∀ a, (a < s.poolBase + t.image ∨ s.poolBase + t.image + t.imageSize ≤ a) → readByte s'.mem a = readByte s.mem a) ∧
      (t.res = .swappingIn → Answers (.swapInDone n) s fun s' => ∃ u, s'.team? n = some u ∧ u.res = .resident ∧ u.since = s.time.toNat ∧ u.issueTime = 0 ∧
        u.sq.s = t.sq.s ∧ u.ve.v = t.ve.v))

/-- 04 R82-R91: placing teams, loading their slots and swapping them. -/
def Obligations.PlacementLoadAndSwap : Prop :=
  Claims.PlacementCreatesTheTeamsOfAGang ∧ Claims.SlotsLoadAndTeamsSwap

/-- 03 R65, R67, 04 R87-R89: a class that has held a dispatchable team for 1 ms since its last placement is starved, and no other class is; every 10 us the issuing teams are charged; a quantum that has run out switches the core to its next ready team once the
reads in flight have landed, and starts anew when no other team is ready; in a handler it does nothing; a switch ends with the incoming team issuing 256 cycles later, its nests held until the ME's part of the switch has ended too. -/
def Sys2Proof.Claims.CoresSwitchAtTheEndOfAQuantum : Prop :=
  ∀ (s : State) (c n : Nat) (t : Team), s.start.powered = true →
    (∀ cls : Nat,
      (∀ h, s.classHas true cls = true → cls ∉ s.sched.starved → s.sched.heldAt.getD cls none = some h →
        (max h (s.sched.placedAt.getD cls 0) + 1000000 ≤ s.time.toNat →
          exec (.classStarved cls) s = .next { s with sched := { s.sched with starved := s.starvedNow ++ [cls] } }) ∧
        (s.time.toNat < max h (s.sched.placedAt.getD cls 0) + 1000000 → exec (.classStarved cls) s = .next s)) ∧
      (s.classHas true cls = false ∨ cls ∈ s.sched.starved ∨ s.sched.heldAt.getD cls none = none → exec (.classStarved cls) s = .next s)) ∧
    (Answers .occupancyTick s fun s' =>
      s'.time = BitVec.ofNat 64 (max s.time.toNat s.sched.chargeAt) ∧ s'.sched.chargeAt = s.sched.chargeAt + 10000 ∧
      ∀ m u, s.team? m = some u → s'.team? m = some
        (if ∃ p ∈ s.cores, p.2.issuing = some m then
          { u with lastCharge := s'.time.toNat, issueTime := u.issueTime + (s'.time.toNat - u.lastCharge) } else u)) ∧
    ((s.core c).issuing = some n → s.team? n = some t → coreOfSlot n = c →
      let ends := t.issuedAt + 1000 * (if (s.queue t.queue).quantNow = 0 then 200 else (s.queue t.queue).quantNow.toNat)
      (t.inHandler = true ∨ s.time.toNat < ends → exec (.quantumExpiry c) s = .next s) ∧
      (t.inHandler = false → ends ≤ s.time.toNat →
        (∀ m, s.nextReady c (n % 16) = some m → m ≠ n →
          (s.landed n t = true → exec (.quantumExpiry c) s = .next ((s.setTeam n { t with leaving := true }).switchOut c n)) ∧
          (s.landed n t = false → exec (.quantumExpiry c) s = .next (s.setTeam n { t with leaving := true }))) ∧
        (s.nextReady c (n % 16) = none ∨ s.nextReady c (n % 16) = some n →
          exec (.quantumExpiry c) s = .next (s.setTeam n { t with issuedAt := s.time.toNat })))) ∧
    ((s.core c).issuing = none → (s.core c).incoming = some n → s.team? n = some t → s.ready n = true → coreOfSlot n = c →
      Answers (.switchComplete c) s fun s' => (s'.core c).issuing = some n ∧ (s'.core c).incoming = none ∧
        (s'.core c).at_ = max (s.core c).at_ s.time.toNat + 40 * 256 / (16 + (s.clk (domainOf c)).step) ∧
        ∃ u, s'.team? n = some u ∧ u.me.hold = (if t.hasEngine .me then some 1792 else none) ∧ u.issuedAt = s.time.toNat ∧ u.sq = t.sq) ∧
    ((s.core c).issuing = some n → Advances s n t →
      (t.me.hold = some 0 → Answers (.meSwitchDone c) s fun s' => OnlyTeam s s' n ∧ ∃ u, s'.team? n = some u ∧ u = { t with me := u.me } ∧
        u.me.hold = none ∧ u.me.queue = t.me.queue ∧ u.me.acc0 = t.me.acc0 ∧ u.me.acc1 = t.me.acc1) ∧
      (∀ k, t.me.hold = some (k + 1) → exec (.meSwitchDone c) s = .next s))

/-- 04 R94, R95, 17 R404, 18 Table 18-4, 06 R137: a team, with its gang, is asked to halt.  One that does not issue halts at once: it is killed when a kill was asked for, stays halted while T3 is asserted, and is ready again otherwise; an issuing one halts once its reads have
landed, and its core switches.  Once the four cycles of a switch point have passed every live engine goes on at the selected variant's word. -/
def Sys2Proof.Claims.TeamsHaltAreKilledAndSwitchVariants : Prop :=
  ∀ (s : State) (n : Nat) (t : Team), s.start.powered = true → s.team? n = some t →
    (Answers (.preemptRequest n) s fun s' => ∀ m u, s.team? m = some u →
      ((m = n ∧ n ∉ t.gang) ∨ (n ∈ t.gang ∧ m ∈ t.gang ∧ u.tid = t.tid)) →
      ((s.core (coreOfSlot m)).issuing = some m → u.halted = false → ∃ v, s'.team? m = some v ∧ v.preempt = true ∧ v.tid = u.tid ∧ v.kill = u.kill) ∧
      ((s.core (coreOfSlot m)).issuing ≠ some m →
        (u.kill ≠ none → s'.team? m = none) ∧
        (u.kill = none → ∃ v, s'.team? m = some v ∧ v.tid = u.tid ∧ v.halted = s.power.t3 ∧ v.preempt = s.power.t3))) ∧
    (t.preempt = true → t.halted = false → s.landed n t = true →
      let c := coreOfSlot n
      let s1 := s.setTeam n { t with halted := true }
      let s2 := if (s.core c).issuing = some n then s1.switchOut c n else s1
      (t.kill = none → s.power.t3 = false →
        exec (.teamHalted n) s = .next ((s2.updTeam n fun u => { u with halted := false, preempt := false }).wakeCore c)) ∧
      (t.kill = none → s.power.t3 = true → exec (.teamHalted n) s = .next (s2.swapHalted n)) ∧
      (t.kill ≠ none → Answers (.teamHalted n) s fun s' => s'.team? n = none)) ∧
    (t.preempt = false ∨ t.halted = true ∨ s.landed n t = false → exec (.teamHalted n) s = .next s) ∧
    (∀ p v, Advances s n t → t.allAt = some p → t.swptVar = some v → (∀ e ∈ t.live, (t.ctl e).busy ≤ t.cycle) →
      Answers (.switchPointJump n) s fun s' => OnlyTeam s s' n ∧ ∃ u, s'.team? n = some u ∧ u.swptVar = none ∧
        (p < t.k.nswpt → u.variant = v ∧ ∀ e ∈ t.live, (u.ctl e).pc = (t.k.vars.getD (p * t.k.nvar + v) []).getD e.num 0 ∧ (u.ctl e).swpt = none) ∧
        (t.k.nswpt ≤ p → u.variant = t.variant ∧ ∀ e ∈ t.live, (u.ctl e).swpt = none))

/-- 03 R80, 17 R410: the watchdog's three steps.  16 us times TP after its start the teams of a task that has not ended are asked to halt and be killed, the swapped-out ones killed at once; TK after that those that are left are killed, and the units that have not reported noted;
TF after that such a unit is fenced: a core isolated, its L1 lost, every resident team killed; a device engine's TLB lost and its job ended, with cause 0x0E when the fence cuts an access; a fenced unit returns when its reset has ended. -/
def Sys2Proof.Claims.TheWatchdogStopsATask : Prop :=
  ∀ (s : State) (tid : Nat) (k : Task), s.start.powered = true → s.task? tid = some k → k.started = true →
    (k.wdStage = 0 → k.stop = none → (s.queue k.queue).tp ≠ 0 → s.finished k = false →
      (k.startTime + 16000 * (s.queue k.queue).tp.toNat ≤ s.time.toNat → Answers (.watchdogPreempt tid) s fun s' =>
        (∃ k', s'.task? tid = some k' ∧ k'.wdStage = 1 ∧ k'.haltAt = s.time.toNat) ∧ (∀ u ∈ s'.swapped, u.tid ≠ tid) ∧
        ∀ n t, s.team? n = some t → t.tid = tid →
          ((s.core (coreOfSlot n)).issuing = some n → ∃ u, s'.team? n = some u ∧ u.preempt = true ∧ u.kill ≠ none) ∧
          ((s.core (coreOfSlot n)).issuing ≠ some n → s'.team? n = none)) ∧
      (s.time.toNat < k.startTime + 16000 * (s.queue k.queue).tp.toNat → exec (.watchdogPreempt tid) s = .next s)) ∧
    ((s.queue k.queue).tp = 0 ∨ s.finished k = true → exec (.watchdogPreempt tid) s = .next s) ∧
    (k.wdStage = 1 →
      (k.haltAt + 1000 * max (s.queue k.queue).tk.toNat 10 ≤ s.time.toNat → Answers (.watchdogForceKill tid) s fun s' =>
        (∃ k', s'.task? tid = some k' ∧ k'.wdStage = 2 ∧ k'.forcedAt = s.time.toNat ∧
          (∀ n t, s.team? n = some t → t.tid = tid → coreOfSlot n ∈ k'.forced) ∧ ∀ r, k.ring = some r → 128 + r ∈ k'.forced) ∧
        ∀ n t, s.team? n = some t → t.tid = tid → s'.team? n = none) ∧
      (s.time.toNat < k.haltAt + 1000 * max (s.queue k.queue).tk.toNat 10 → exec (.watchdogForceKill tid) s = .next s)) ∧
    (∀ unit ∈ k.forced, ∀ cut, k.wdStage = 2 →
      (k.forcedAt + 1000 * max (s.queue k.queue).tf.toNat 10 ≤ s.time.toNat → Answers (.watchdogFence tid ⟨unit, cut⟩) s fun s' =>
        (unit < 80 → (s'.core unit).fenced = true ∧ (s'.core unit).l1 = [] ∧ (s'.core unit).ks0 = none ∧ (s'.core unit).ks1 = none ∧
          (s'.core unit).issuing = none ∧ ∀ n, coreOfSlot n = unit → s'.team? n = none) ∧
        (128 ≤ unit → s'.tlb (unit - 128) = []) ∧ ∃ k', s'.task? tid = some k' ∧ unit ∈ k'.wdUnits ∧ unit ∉ k'.forced ∧
          (128 ≤ unit → k.jobEnd = none → k'.jobEnd = some (if cut then .fenced else .stopped))) ∧
      (s.time.toNat < k.forcedAt + 1000 * max (s.queue k.queue).tf.toNat 10 → exec (.watchdogFence tid ⟨unit, cut⟩) s = .next s)) ∧
    (∀ unit, ((s.core unit).fenced = true → exec (.fenceReturn unit) s = .next (s.updCore unit fun c => { c with fenced := false })) ∧
      ((s.core unit).fenced = false → exec (.fenceReturn unit) s = .next s))

/-- 03 R80, 04 R87-R95: the time slices of a core, pre-emption and the watchdog. -/
def Obligations.SwitchingHaltingAndTheWatchdog : Prop :=
  Claims.CoresSwitchAtTheEndOfAQuantum ∧ Claims.TeamsHaltAreKilledAndSwitchVariants ∧ Claims.TheWatchdogStopsATask

/-- 03 R64, R78, 12 R286, R289, 18 R423, 19 R432, R433: a job whose turn has come starts on its engine and checks what it is asked to do; it goes on element by element and ends with the work's result, or with the cause and detail of its
failure, what it had written before staying written; one asked to stop does so between two elements, and while T3 is asserted none moves. -/
def Sys2Proof.Claims.EngineJobsRunTheirWork : Prop :=
  ∀ (s : State) (i : Instr) (tid typ ix n stop : Nat) (sp : JobSpec) (k : Task), s.start.powered = true → EngineJob i tid typ ix n sp →
    s.task? tid = some k →
    let c := k.ctx stop
    let fails (k : Task) (x : State) (e : Nat × Nat) : State :=
      ((x.runJobM (sp.failed c k)).2).updTask k.id fun (u : Task) => { u with jobEnd := some (.err e.1 e.2) }
    (JobStarts s k typ ix stop →
      (∀ e s1, (jobStarted s k stop).runJobM (sp.setup c k) = (.error e, s1) → exec i s = .next (fails k s1 e)) ∧
      ∀ held total s1, (jobStarted s k stop).runJobM (sp.setup c k) = (.ok (held, total), s1) →
        exec i s = .next ((s1.updTask tid fun (u : Task) => { u with held := held, total := total }).jobGoes tid stop n sp)) ∧
    (JobRuns s k typ ix stop →
      let m := min n (k.total - k.moved)
      (∀ e s1, s.runJobM (sp.work c k k.moved m) = (.error e, s1) → exec i s = .next (fails k s1 e)) ∧
      ∀ add s1, s.runJobM (sp.work c k k.moved m) = (.ok add, s1) →
        let k1 : Task := { k with moved := k.moved + m, sum := k.sum + add }
        let s2 := s1.updTask tid fun _ => k1
        (k1.moved < k1.total → exec i s = .next s2) ∧
        (k1.total ≤ k1.moved →
          (∀ v s3, s2.runJobM (sp.finish c k1) = (.ok (some v), s3) →
            exec i s = .next (s3.updTask tid fun (u : Task) => { u with jobEnd := some (.ok v) })) ∧
          (∀ e s3, s2.runJobM (sp.finish c k1) = (.error e, s3) → exec i s = .next (fails k1 s3 e)) ∧
          (∀ s3, s2.runJobM (sp.finish c k1) = (.ok none, s3) →
            exec i s = .next (s3.updTask tid fun (u : Task) => { u with stage := u.stage + 1, total := 0, moved := 0 })))) ∧
    (k.typ = typ → StopOf typ ix stop → k.started = true → k.ring = some stop → k.jobEnd = none →
      ((k.stop ≠ none ∨ k.wdStage ≠ 0) → exec i s = .next (s.jobStopped k)) ∧
      (k.stop = none → k.wdStage = 0 → s.power.t3 = true → exec i s = .next s)) ∧
    (k.started = false → s.power.t3 = true → exec i s = .next s)

/-- 12 R286, 15 R375, R376: an access of a job outside its task's footprint fails with cause 0x0E, touching nothing; one that its tables do not translate or permit fails with the cause of Table 5-4; a read that lies in one granted page of HBM gives
the bytes there and their poison, and an untagged write of one line stores its bytes there. -/
def Sys2Proof.Claims.JobAccessesStayInTheirFootprint : Prop :=
  ∀ (s : State) (c : EngCtx) (va n : Nat) (bs : List Byte) (mark : Bool),
    ((∀ g ∈ c.regions, g.r = true → ¬(g.base ≤ va ∧ va + n ≤ g.base + g.len)) → s.engRead c va n = (s, .error (0x0E, 0))) ∧
    ((∀ g ∈ c.regions, g.w = true → ¬(g.base ≤ va ∧ va + bs.length ≤ g.base + g.len)) → s.engWrite c va bs mark = (s, .error (0x0E, 0))) ∧
    (0 < n → va % 4096 + n ≤ 4096 → (∃ g ∈ c.regions, g.r = true ∧ g.base ≤ va ∧ va + n ≤ g.base + g.len) →
      (∀ f, (s.translate c.stop c.asid va).2 = .error f → s.engRead c va n = ((s.translate c.stop c.asid va).1, .error (f.code, 0))) ∧
      (∀ e, (s.translate c.stop c.asid va).2 = .ok e →
        (e.r = false → s.engRead c va n = ((s.translate c.stop c.asid va).1, .error (0xE3, 0))) ∧
        (e.r = true → e.pa + (va - e.va) < 0x6000000000 → s.engRead c va n = ((s.translate c.stop c.asid va).1,
          .ok (readBytes s.mem (e.pa + (va - e.va)) n, markedRange 64 s.marks (e.pa + (va - e.va)) n))))) ∧
    (bs ≠ [] → va % 128 + bs.length ≤ 128 → (∃ g ∈ c.regions, g.w = true ∧ g.base ≤ va ∧ va + bs.length ≤ g.base + g.len) →
      (∀ f, (s.translate c.stop c.asid va).2 = .error f → s.engWrite c va bs mark = ((s.translate c.stop c.asid va).1, .error (f.code, 0))) ∧
      (∀ e, (s.translate c.stop c.asid va).2 = .ok e →
        let pa := e.pa + (va - e.va)
        (e.w = false → s.engWrite c va bs mark = ((s.translate c.stop c.asid va).1, .error (0xE3, 0))) ∧
        (e.w = true → e.snapok = false → pa < 0x6000000000 → pa % 128 + bs.length ≤ 128 →
          s.engWrite c va bs mark = ((s.translate c.stop c.asid va).1.performBytes pa bs mark, .ok ()))))

/-- 19 R433, R434: a collective passes a stage once every peer has signalled it in time, an all-gather and a finished all-reduce ending there with value 0; TMO ms after its start one that still waits ends with cause 0x06 and the lowest rank that it misses. -/
def Sys2Proof.Claims.CollectivesWaitForTheirPeers : Prop :=
  ∀ (s : State) (tid : Nat) (k : Task) (c : EngCtx) (x : Coll) (st : Nat), s.start.powered = true → s.collWaits tid = some (k, c, x, st) →
    let late := k.startTime + 1000000 * (collOf k.desc).tmo ≤ s.time.toNat
    (late → exec (.collectiveStagePass tid) s = .next s) ∧ (¬late → exec (.collectiveTimeout tid) s = .next s) ∧
    (∀ e s1, s.runJobM (collMissing c x st) = (.error e, s1) →
      let s' := s1.updTask tid fun (k : Task) => { k with jobEnd := some (.err e.1 e.2) }
      (¬late → exec (.collectiveStagePass tid) s = .next s') ∧ (late → exec (.collectiveTimeout tid) s = .next s')) ∧
    (∀ s1, s.runJobM (collMissing c x st) = (.ok [], s1) → ¬late →
      ((x.op = 0 ∨ st = 2) → exec (.collectiveStagePass tid) s = .next (s1.updTask tid fun (k : Task) => { k with jobEnd := some (.ok 0) })) ∧
      (x.op ≠ 0 → st ≠ 2 → exec (.collectiveStagePass tid) s =
        .next (s1.updTask tid fun (k : Task) => { k with stage := 3, total := x.elems 3, moved := 0 }))) ∧
    (∀ r l s1, s.runJobM (collMissing c x st) = (.ok (r :: l), s1) →
      (¬late → exec (.collectiveStagePass tid) s = .next s1) ∧
      (late → Answers (.collectiveTimeout tid) s fun s' => ∃ k', s'.task? tid = some k' ∧ k'.jobEnd = some (.err 0x06 r)))

/-- 12 R286, 15 R376, 19 R432-R434: the jobs of the device engines. -/
def Obligations.EngineJobsRunInTheirFootprint : Prop :=
  Claims.EngineJobsRunTheirWork ∧ Claims.JobAccessesStayInTheirFootprint ∧ Claims.CollectivesWaitForTheirPeers

/-- 05 R99, R104, R105, R111, R113: a TLB miss is served by the first other stop that holds the translation, else, for the job that needs it, by a walk, which enters the TLB; a failed walk leaves the job to meet the failure at its element. A command starts
when none is under way and its range is valid, and is rejected with ERR otherwise; its acknowledgement waits for the reads through matching translations, and then leaves no matching translation in a TLB, revokes every matching KTT entry, drops the walkers'
entries of its ASID, counts DONE and puts a whole-ASID command's PTROOT into effect. -/
def Obligations.TranslationsAreServedAndInvalidated : Prop :=
  ∀ (s : State) (stop asid va w : Nat) (v : DWord), s.start.powered = true →
    (stop < 24 → (∀ e ∈ s.tlb stop, e.hits asid va = false) →
      (∀ e, s.tlbProbe stop asid va = some e → exec (.tlbMissProbe stop asid va) s = .next (s.tlbInsert stop e)) ∧
      (s.tlbProbe stop asid va = none → exec (.tlbMissProbe stop asid va) s = .next s ∧ (w < 4 →
        (∀ k ∈ s.tasks, k.ring = some stop → k.jobEnd = none → k.asid = asid → (∃ g ∈ k.regions, g.base ≤ va ∧ va + 1 ≤ g.base + g.len) →
          (∀ e, (s.walkCached w asid va).2 = .ok e → exec (.pageWalk stop w asid va) s = .next ((s.walkCached w asid va).1.tlbInsert stop e)) ∧
          (∀ f, (s.walkCached w asid va).2 = .error f → exec (.pageWalk stop w asid va) s = .next (s.walkCached w asid va).1)) ∧
        ((∀ k ∈ s.tasks, k.ring = some stop → k.jobEnd = none → k.asid = asid → ∀ g ∈ k.regions, ¬(g.base ≤ va ∧ va + 1 ≤ g.base + g.len)) →
          exec (.pageWalk stop w asid va) s = .next s)))) ∧
    (∀ e, (s.tlbInsert stop e).tlb stop = (e :: (s.tlb stop).filter fun x => decide (x ≠ e)).take 64) ∧
    (HostReaches s → v.toNat % 2 = 1 →
      let lo := s.host.invaddr.toNat
      let pages := v.toNat / 2 ^ 28 % 2 ^ 36
      let all := v.getLsbD 1
      let s1 : State := { s with host := { s.host with invctl := v &&& 0xFFFFFFFFFFFF8002 } }
      ((s.host.inv ≠ none ∨ (all = false ∧ (pages = 0 ∨ 2 ^ 57 < lo + 4096 * pages))) →
        exec (.invalidateGo v) s = .next { s1 with host := { s1.host with inverr := true } }) ∧
      (s.host.inv = none → (all = true ∨ (pages ≠ 0 ∧ lo + 4096 * pages ≤ 2 ^ 57)) → exec (.invalidateGo v) s = .next { s1 with host := { s1.host with
        inv := some { asid := v.toNat / 2 ^ 16 % 2 ^ 12, all := all, lo := if all then 0 else lo, hi := if all then 2 ^ 57 else lo + 4096 * pages,
                      irq := v.getLsbD 15 } } })) ∧
    (∀ c, s.host.inv = some c → s.readsLanded c = false → exec .invalidateAck s = .next s) ∧
    (∀ c, s.host.inv = some c → s.readsLanded c = true → Answers .invalidateAck s fun s' =>
      s'.host.inv = none ∧ s'.host.invdone = s.host.invdone + 1 ∧
      (∀ n, ∀ e ∈ s'.tlb n, ¬((e.global = true ∨ e.asid = c.asid) ∧ e.va < c.hi ∧ c.lo < e.va + e.size)) ∧
      (∀ n a, ((s'.core n).ks0 = some a ∨ (s'.core n).ks1 = some a) → ∀ e ∈ a.ktt,
        (e.g = true ∨ s'.kslotAsid a = c.asid) → e.va < c.hi → c.lo < e.va + 2 ^ e.log2 → e.rev = true) ∧
      (c.all = true → (s'.asid c.asid).ptroot' = (s.asid c.asid).ptroot) ∧ (c.all = false → ∀ a, s'.asid a = s.asid a) ∧
      (c.irq = true → s'.host.msix.head? = some 2047))

/-- 15 R359-R361, R370, R371, 16 R384, R395, R456, 03 R57: a write reaches its home slice: untagged, or in no region, it stores its bytes; tagged, it first saves the line, and is dropped where no slot is left or its team is dropping; of an untagged write
made of single-copy atomic parts, whole parts may be performed before the rest; a drain performs every write and atomic of the slot up to the waited count; a recall takes the line from every L1; an atomic reads the old value, stores the new one and gives
the old one to its register; the restorer frees the slots of its oldest work. -/
def Sys2Proof.Claims.WritesAndAtomicsReachTheirHomeSlice : Prop :=
  ∀ (s : State) (ix : Nat), s.start.powered = true →
    (∀ w, FirstOnLine s ix w →
      let s0 : State := { s with fabric := s.fabric.eraseIdx ix }
      let f : PendFault := { cause := .shadowfull, eng := w.eng, pc := w.pc, addr := BitVec.ofNat 64 w.va, seq := w.seq }
      let by_ := s.writer w.slot w.tid w.tix
      (∀ a n, ((w.tagged = false ∧ (w.unit = 0 ∨ n = 0)) ∨ (w.tagged = true ∧ s.regionOfLine w.asid (w.va / 128 * 128) = none)) →
        exec (.taggedWrite ⟨ix, a, n⟩) s = .next (s0.performBytes w.pa w.bytes w.mark)) ∧
      (∀ a n rg, w.tagged = true → s.regionOfLine w.asid (w.va / 128 * 128) = some rg →
        (s.isDropping by_ rg = true → exec (.taggedWrite ⟨ix, a, n⟩) s = .next (s0.dropWrite w.asid rg by_ f)) ∧
        (s.isDropping by_ rg = false →
          (∀ s1, s0.saveLine w.asid rg (w.pa / 128) = some s1 → exec (.taggedWrite ⟨ix, a, n⟩) s = .next (s1.performBytes w.pa w.bytes w.mark)) ∧
          (s0.saveLine w.asid rg (w.pa / 128) = none → exec (.taggedWrite ⟨ix, a, n⟩) s = .next (s0.dropWrite w.asid rg by_ f)))) ∧
      (∀ a n, w.tagged = false → 0 < w.unit → 0 < n → w.unit ∣ a → w.unit ∣ n → a + n ≤ w.bytes.length → w.pa % 128 + w.bytes.length ≤ 128 →
        let rest := (if a = 0 then [] else [w.part 0 a]) ++
          (if a + n = w.bytes.length then [] else [w.part (a + n) (w.bytes.length - (a + n))])
        exec (.taggedWrite ⟨ix, a, n⟩) s = .next (({ s with fabric := s.fabric.take ix ++ rest ++ s.fabric.drop (ix + 1) } : State).performBytes
          (w.pa + a) ((w.bytes.drop a).take n) w.mark))) ∧
    (∀ n t, s.team? n = some t → Answers (.writeDrainDone n) s fun s' =>
      s'.fabric = s.fabric.filter (fun w => decide ¬(w.slot = some n ∧ w.num ≤ t.waitDrain.getD t.wIssued)) ∧
      ∀ a ∈ s'.atomq, a.slot = n → ∃ u, s'.team? n = some u ∧ u.waitDrain.getD u.wIssued < a.num) ∧
    (∀ a, s.atomq[ix]? = some a →
      (Answers (.lineRecall ix) s fun s' => (∀ c, SMap.get? (s'.core c).l1 (a.pa / 128) = none) ∧
        ∃ b, s'.atomq[ix]? = some b ∧ b.recalled = true) ∧
      (a.tagged = false → a.acq = false → s.lineWaits (a.pa / 128) = false → a.pa + a.size ≤ 0x6000000000 → InNoL1 s (a.pa / 128) → markedRange 64 s.marks a.pa a.size = false →
        (∀ j x, j < ix → s.atomq[j]? = some x → x.pa / 128 ≠ a.pa / 128) → (a.size = 4 ∨ a.size = 8) →
        let s0 : State := { s with atomq := s.atomq.eraseIdx ix }
        let old := ofBytes (readBytes s.mem a.pa a.size)
        let reg (s1 : State) : State := s1.updTeam a.slot fun t => match a.d with
          | some d => if t.tid = a.tid then t.setS (BitVec.ofNat 6 d) (BitVec.ofNat 64 old) else t
          | none => t
        (∀ new, atomicWrites a.op a.size old a.a a.b = some new → exec (.atomicApply ix) s = .next (reg (s0.performBytes a.pa (toBytes a.size new) false))) ∧
        (a.op = 16 → old ≠ a.a.toNat → exec (.atomicApply ix) s = .next (reg s0)))) ∧
    (∀ w r, s.restWork = w :: r →
      exec .restorerWorkDone s = .next { s with restWork := r, slots := s.slots.filter fun p => !w.slots.contains p.1 })

/-- 06 R124, R126, 09 R199, R209, R211, R227, 15 R363: an untimed load writes its register when its data arrives, sign-extended as its word says, with the poison it met; a timed one only then counts as arrived and writes in its named cycle; one that is late freezes its
domain; replies write their registers in order; a load block whose lines are present sets its flag. -/
def Sys2Proof.Claims.LoadsRepliesAndBlocksLand : Prop :=
  ∀ (s : State) (n ix : Nat) (t : Team), s.start.powered = true → s.team? n = some t →
    (∀ l, t.sq.landing[ix]? = some l → (∀ p ∈ l.parts, p.req = none ∧ s.lineWaits p.ln = false) → (l.parts.flatMap (·.bytes)).length = l.size → 1 ≤ l.size → l.size ≤ 8 →
      let v := loaded l.size l.sgn (ofBytes (l.parts.flatMap (·.bytes)))
      let landed : Team := ({ t with sq := { t.sq with landing := t.sq.landing.eraseIdx ix } } : Team).loadS l.d v (l.parts.any (·.mark)) l.pc
      (l.named = none → exec (.loadDataArrival n ix) s = .next (s.setTeam n landed)) ∧
      (∀ c, l.named = some c →
        exec (.loadDataArrival n ix) s = .next (s.setTeam n { t with sq := { t.sq with landing := t.sq.landing.set ix { l with arrived := true } } }) ∧
        (Advances s n t → l.arrived = true →
          (c ≤ t.cycle → exec (.timedLanding n ix) s = .next (s.setTeam n landed)) ∧
          (t.cycle < c → exec (.timedLanding n ix) s = .next s)) ∧
        (Advances s n t → l.arrived = false → c ≤ t.cycle → s.cycleStart (domainOf (coreOfSlot n)) = true →
          exec (.lateLandingFreeze n) s = .next (s.updClk (domainOf (coreOfSlot n)) fun k => { k with frozen := true })))) ∧
    (∀ r l, t.sq.replies = r :: l →
      exec (.deviceUnitReply n) s = .next (s.setTeam n (({ t with sq := { t.sq with replies := l } } : Team).loadS r.d r.val r.mark t.sq.ctl.pc))) ∧
    (∀ b, SMap.get? t.blocks ix = some b → b.flag = false → s.acqPending n = false → (b.evicted = false ∨ (s.core (coreOfSlot n)).issuing = some n) →
      (∀ l ∈ b.lines, ∃ e ∈ (s.kslot n t).ktt, e.covers l.2 = true ∧ e.rev = false) → (s.core (coreOfSlot n)).l1.length + b.lines.length ≤ 12288 →
      Answers (.loadBlockFilled n ix) s fun s' => (∃ u, s'.team? n = some u ∧ SMap.get? u.blocks ix = some { b with flag := true, evicted := false }) ∧
        ∀ l ∈ b.lines, (SMap.get? (s'.core (coreOfSlot n)).l1 l.1).isSome = true)

/-- 06 R124-R126, 15 R359, R370, 16 R384: what is under way arrives. -/
def Obligations.WritesAtomicsLoadsAndRepliesArrive : Prop :=
  Claims.WritesAndAtomicsReachTheirHomeSlice ∧ Claims.LoadsRepliesAndBlocksLand

/-- 13 R323, R324, R331, R335-R338, R343, 06 R125: after its 8 cycles validation opens a nest; after 2,048 a B tile stands in the shadow cells with its column sums; a completed nest writes its status word, leaves the queue and fires; a queued clear empties the buffers it names, MDRAIN's clear the staging buffer. -/
def Sys2Proof.Claims.NestsLoadCompleteAndClear : Prop :=
  ∀ (s : State) (n : Nat) (t : Team), Advances s n t → t.me.hold = none →
    (∀ x l r, t.me.begun = false → t.me.queue = l ++ .nest x :: r → (∀ y ∈ l, y.checked = false) → x.valid = false → 8 ≤ x.vcyc →
      exec (.nestValidated n) s =
        .next (s.setTeam n { t with me := { t.me with queue := l ++ .nest { x with valid := true, todo := x.plan } :: r } })) ∧
    (∀ b, t.me.begun = false → (∀ y ∈ t.me.queue, y.checked = false) → t.me.load = some b → b.cyc = 2048 → (b.size = 1 ∨ b.size = 2) →
      Answers (.meBLoadDone n) s fun s' => OnlyTeam s s' n ∧ ∃ u, s'.team? n = some u ∧ u = { t with me := u.me } ∧
        u.me.acc0 = t.me.acc0 ∧ u.me.acc1 = t.me.acc1 ∧ u.me.bCur = t.me.bCur ∧ u.me.colCur = t.me.colCur ∧
        u.me.load = none ∧ u.me.next = some (b.seq, b.addr) ∧ u.me.shMark = t.spMarked b.addr (131072 * b.size) ∧
        (∀ k c, k < 256 → c < 512 → SMap.get 0 u.me.bShadow (512 * k + c) =
          if b.size = 1 then (t.spByte (b.addr + (512 * k + c))).signExtend 16
          else BitVec.ofNat 16 (ofBytes (t.spRead (b.addr + 2 * (512 * k + c)) 2))) ∧
        ∀ c i, c < 512 → i < 4 → SMap.get 0 u.me.colShadow (4 * c + i) =
          BitVec.ofInt 24 (((List.range' (64 * i) 64).map fun k => (SMap.get 0 u.me.bShadow (512 * k + c)).toInt).sum)) ∧
    (∀ x, StepEnds t (.nest x) → t.me.queue = [.nest x] → x.todo = [] → x.co = 0 → x.named = none →
      Answers (.nestComplete n) s fun s' => OnlyTeam s s' n ∧ ∃ u, s'.team? n = some u ∧ u.me.queue = [] ∧ u.me.begun = false ∧
        ofBytes (u.spRead x.stb 4) = x.seq % 2 ^ 32 ∧ ofBytes (u.spRead (x.stb + 4) 2) = x.flags % 2 ^ 16 ∧
        ofBytes (u.spRead (x.stb + 6) 2) = min x.elpass 65535 ∧ ofBytes (u.spRead (x.stb + 8) 4) = min x.elplane (2 ^ 32 - 1) ∧
        ofBytes (u.spRead (x.stb + 12) 4) = min (t.cycle - x.issued) (2 ^ 32 - 1) ∧
        ∀ a, (a < x.stb ∨ x.stb + 16 ≤ a) → u.spByte a = t.spByte a) ∧
    (∀ x c i d, t.me.queue = [.nest x] → x.done = true → x.named = some c → max c (x.doneAt + 1) ≤ t.cycle → x.co = i + 1 → i < 16 →
      t.chanDecl i = some d → (t.chan i).p ∉ (t.chan i).shown → Answers (.completionDeadline n 2) s fun s' => OnlyTeam s s' n ∧
        ∃ u, s'.team? n = some u ∧ u.me.queue = [] ∧ (u.chan i).p = ((t.chan i).p + 1) % d.slots ∧ (t.chan i).p % d.slots ∈ (u.chan i).full ∧
        (u.chan i).c = (t.chan i).c ∧ ∀ j, j ≠ i → u.chan j = t.chan j) ∧
    (∀ mask row r, StepEnds t (.clear mask row) → t.me.queue = .clear mask row :: r → Answers (.mclrClear n) s fun s' => OnlyTeam s s' n ∧
      ∃ u, s'.team? n = some u ∧ u = { t with me := u.me } ∧ u.me.queue = r ∧ u.me.begun = false ∧ u.me.srp = none ∧
        u.me.acc0 = (if mask.testBit 0 then [] else t.me.acc0) ∧ u.me.acc1 = (if mask.testBit 1 then [] else t.me.acc1) ∧
        u.me.accMark0 = (t.me.accMark0 && !mask.testBit 0) ∧ u.me.accMark1 = (t.me.accMark1 && !mask.testBit 1) ∧
        u.me.staging = t.me.staging.filter fun g => !mask.testBit g.buf) ∧
    (∀ row r, StepEnds t (.drop row) → t.me.queue = .drop row :: r → Answers (.mdrainClear n) s fun s' => OnlyTeam s s' n ∧
      ∃ u, s'.team? n = some u ∧ u = { t with me := u.me } ∧ u.me.queue = r ∧ u.me.begun = false ∧ u.me.staging = none ∧
        ∀ g, t.me.staging = some g → u.me.acc g.buf = [] ∧ u.me.accMark g.buf = false)

/-- 13 R324-R327: a pass of integer A without scale records adds to every element (m, c) of its buffer, from the row at which it stands, the sum over k of A[m, k] × B[k, c], clamped to 32 bits: the sum over planes is that of the elements, also where planes of zeros or of ones are
not read (14 R352).  The other buffer and scratchpad stay. -/
def Obligations.AnIntegerPassAddsTheMatrixProduct : Prop :=
  ∀ (s : State) (n : Nat) (t : Team) (x : Nest), Advances s n t → WorksOn t x .pass → x.akind = false → x.scen = false → x.chain = false →
    let bit (j m k : Nat) : Bool := (t.spByte (x.aAddr + 4096 * j + 32 * m + k / 8)).getLsbD (k % 8)
    let signed : Bool := decide (t.fmt x.aAddr = 0 ∨ t.fmt x.aAddr = 2 ∨ t.fmt x.aAddr = 4 ∨ t.fmt x.aAddr = 11)
    let weight (k c : Nat) : Int := (SMap.get 0 t.me.bCur (512 * k + c)).toInt
    t.me.el.whole = false → (∀ j ∈ t.me.el.zero, ∀ m k, m < 128 → k < 256 → bit j m k = false) →
    (∀ j ∈ t.me.el.ones, (∀ m k, m < 128 → k < 256 → bit j m k = true) ∧ ∀ c i, c < 512 → i < 4 →
      (SMap.get 0 t.me.colCur (4 * c + i)).toInt = ((List.range' (64 * i) 64).map fun k => weight k c).sum) →
    Answers (.mePassDone n) s fun s' => OnlyTeam s s' n ∧ ∃ u, s'.team? n = some u ∧ u = { t with me := u.me } ∧
      u.me.acc (1 - x.foldBuf) = t.me.acc (1 - x.foldBuf) ∧
      ∀ m c, m < 128 → c < 512 →
        let old := SMap.get 0 (t.me.acc x.foldBuf) (512 * m + c)
        SMap.get 0 (u.me.acc x.foldBuf) (512 * m + c) =
          if x.row ≤ m then BitVec.ofInt 32 (clamp32 (old.toInt +
            ((List.range 256).map fun k => aElement bit x.p signed m k * weight k c).sum))
          else old

/-- 13 R328, R329, R332, R333: a boundary adds, from the row at which it stands, the partial sums, scaled by the weight unit and AS, to the chain's buffer in F32 and clears them; a drain to a row-major C whose elements all convert writes, from its row
on, each element's conversion in its place and no other byte, and clears its buffer and the chain state. -/
def Sys2Proof.Claims.BoundariesAndDrainsFoldTheBuffers : Prop :=
  ∀ (s : State) (n : Nat) (t : Team) (x : Nest), Advances s n t →
    (WorksOn t x .boundary → x.scen = false → Answers (.meBoundaryDone n) s fun s' => OnlyTeam s s' n ∧ ∃ u, s'.team? n = some u ∧ u = { t with me := u.me } ∧
      (∀ i < 512 * x.row, SMap.get 0 (u.me.acc x.accb) i = SMap.get 0 (t.me.acc x.accb) i ∧
        SMap.get 0 (u.me.acc (1 - x.accb)) i = SMap.get 0 (t.me.acc (1 - x.accb)) i) ∧
      ∀ i, 512 * x.row ≤ i → i < 65536 → SMap.get 0 (u.me.acc (1 - x.accb)) i = 0 ∧
        let v := Fl.ofInt (SMap.get 0 (t.me.acc (1 - x.accb)) i).toInt
        let unit : Fl := .fin false 1 (if x.bfmt = 2 then 2 ^ 14 else 1)
        SMap.get 0 (u.me.acc x.accb) i = BitVec.ofNat 32 (F32.round .rne (Fl.add .rne (F32.decode (SMap.get 0 (t.me.acc x.accb) i).toNat)
          (Fl.mul (Fl.mul (Fl.mul v unit) (.fin false 1 1)) (F32.decode (x.get 0x18 4)))))) ∧
    (∀ c, WorksOn t x (.drain c) → x.chout = false → x.row < 128 → t.layout c ≠ 1 → 8 ≤ fmtBits (t.fmt c) → t.me.accMark x.accb = false →
      let w := fmtBits (t.fmt c)
      let v (i : Nat) : Fl :=
        let e := SMap.get 0 (t.me.acc x.accb) i
        x.drainValue (if x.amode then F32.decode e.toNat else Fl.ofInt e.toInt)
      (∀ i, 512 * x.row ≤ i → i < 65536 → (t.drainTo x c).conv x.pol (v i) ≠ .trap) →
      Answers (.meDrainDone n) s fun s' => OnlyTeam s s' n ∧ ∃ u, s'.team? n = some u ∧ u.me.acc x.accb = [] ∧ u.me.accMark x.accb = false ∧ u.me.srp = none ∧
        (∀ i, 512 * x.row ≤ i → i < 65536 → ofBytes (u.spRead (c + i * (w / 8)) (w / 8)) = ((t.drainTo x c).conv x.pol (v i)).parts.1 % 2 ^ w) ∧
        ∀ a, (a < c + 512 * x.row * (w / 8) ∨ c + 65536 * (w / 8) ≤ a) → u.spByte a = t.spByte a)

/-- 13 R323-R338, R343: the steps of a nest and of the clears. -/
def Obligations.NestsRun : Prop :=
  Claims.NestsLoadCompleteAndClear ∧ Claims.BoundariesAndDrainsFoldTheBuffers

/-- 11 R263-R267, R277, R280, 12 R317: a plain XGO of N bytes from one run of memory to one run of scratchpad lands the bytes it is taken on by, and leaves the stream with the last; the oldest push whose target slot P is empty claims it; the oldest beat of a cluster window whose cycle has passed lands in every target that is
still there. -/
def Obligations.TransferJobsMoveClaimAndLand : Prop :=
  ∀ (s : State) (n eng : Nat) (t : Team) (j : TuJob), eng ∈ [3, 4, 5] → Advances s n t →
    (∀ N pa k, (t.tu (streamOf eng)).jobs = [j] → j.done = false → j.begun = true → j.kind = .xgo → j.co = 0 → j.named = none → j.moved = 0 →
      Xfer.skind j.d = 0 → Xfer.dkind j.d = 1 → Xfer.conv j.d = false → Xfer.refmt j.d = false → Xfer.view j.d = false → Xfer.delta j.d = false →
      (∀ i, Xfer.scnt j.d i = (if i = 0 then N else if i < 4 then 1 else Xfer.scnt j.d i)) →
      (∀ i, Xfer.dcnt j.d i = (if i = 0 then N else if i < 4 then 1 else Xfer.dcnt j.d i)) →
      let va := Xfer.src j.d
      let la := Xfer.dst j.d
      va + N ≤ 2 ^ 57 → la + N ≤ 2 ^ 23 → pa + N ≤ 0x6000000000 → markedRange 64 s.marks pa N = false →
      (∀ i < N, ∃ e, kttLookup (s.kslot n t) (va + i) .r = .ok e ∧ e.pa + (va + i - e.va) = pa + i) →
      (∀ b ∈ t.ports, ∀ i < N, (la + i) / 0x20000 ≠ b) → 0 < k →
      Answers (.tuJobComplete n ⟨eng, k⟩) s fun s' => OnlyTeam s s' n ∧ ∃ u, s'.team? n = some u ∧
        (N ≤ k → (u.tu (streamOf eng)).jobs = []) ∧
        (k < N → ∃ j', (u.tu (streamOf eng)).jobs = [j'] ∧ j'.done = false ∧ j'.moved = k) ∧
        (∀ i < min k N, u.spByte (la + i) = readByte s.mem (pa + i)) ∧
        ∀ a, (a < la ∨ la + min k N ≤ a) → u.spByte a = t.spByte a) ∧
    (∀ r m u d, (t.tu (streamOf eng)).jobs = j :: r → j.done = false → j.kind = .xpushr → j.claim = [] →
      let ix := bitsOf (Xfer.aux j.d) 0 4
      let ch := bitsOf (Xfer.aux j.d) 4 4
      s.pushTarget n t ix ch = some (m, u, d) → (u.chan ch).p ∉ (u.chan ch).shown →
      exec (.pushClaim n eng) s = .next ((s.setTeam m (u.setChan ch { u.chan ch with p := ((u.chan ch).p + 1) % d.slots })).updTeam n fun t =>
        t.updJob (streamOf eng) { j with claim := [(ix, (u.chan ch).p)] })) ∧
    (∀ c b r, (s.clk c).windows = b :: r → b.due < (s.clk c).cyc → b.src = n → b.eng = eng →
      (t.tu (streamOf eng)).jobs.find? (fun j => j.seq = b.seq && j.isWindow && !j.done) = some j → j.co < 0x20 →
      Answers (.windowLanding c) s fun s' => (s'.clk c).windows = r ∧
        ∀ m ∈ b.targets, ∀ u, s.team? m = some u → u.tid = t.tid → u.barSteps = [] → ∃ v, s'.team? m = some v ∧ v.spRead b.la b.bytes.length = b.bytes)

/-- 17 R397-R399, R401, R404, R408, Tables 17-2 to 17-4: a fault that is reached halts the issuing team and records FAULT0 to FAULT7, unless a kill request supersedes it; a team with a handler that is not to leave its core enters it at HANDLER with its loop
stack set aside and EPC at the word to resume at; an asynchronous fault is taken at a boundary; a request to a refused or gated cluster leaves its team a GATED fault, or fails its job; a cluster without residents first refuses requests, and is then gated with its
L1 lines written back and lost. -/
def Sys2Proof.Claims.FaultsHaltRecordAndEnterTheHandler : Prop :=
  ∀ (s : State) (n : Nat) (t : Team) (f : PendFault), s.start.powered = true → s.team? n = some t → (s.core (coreOfSlot n)).issuing = some n →
    let entered (t : Team) : Team := { t with
      faults := if f.cause = .shadowfull then t.faults.set 7 (BitVec.ofNat 64 (t.tag.toNat * 2 ^ 32 + t.dropping)) else t.faults,
      aside := some { pc := t.sq.ctl.pc, scan := t.scan, woke := t.woke }, scan := none, woke := none,
      halting := none, dropping := 0, inHandler := true,
      epc := BitVec.ofNat 64 (if f.cause = .trap ∨ f.cause = .brk then f.pc + 1 else t.sq.ctl.pc),
      sq := { t.sq with setAside := t.sq.ctl.loops, ctl := { t.sq.ctl with pc := t.k.handler, loops := [], swpt := none } } }
    (t.kill ≠ none → exec (.faultHalt n) s = .next s ∧ exec (.handlerEntry n) s = .next s ∧ exec (.asyncFault n) s = .next s) ∧
    (t.pend = some f → t.kill = none → t.inHandler = false → t.sq.landing = [] → t.scanDt = none →
      let halted : Team := { t with me := t.me.halt false, pend := none, halting := some f, waitDrain := none, exiting := none, flushSent := false,
                                    errored := true, faults := faultRecord (f.atStop t.sq.ctl.pc) t.sq.ctl.pc s.time t.tag }
      exec (.faultHalt n) s = .next (s.setTeam n halted) ∧
      (f.async = true → (t.preempt = true ∨ t.leaving = true) → exec (.asyncFault n) s = .next (s.setTeam n halted)) ∧
      (f.async = true → t.preempt = false → t.leaving = false → t.k.hnd = true → f.cause ≠ .watchdog →
        Answers (.asyncFault n) s fun s' => OnlyTeam s s' n ∧ s'.team? n = some (entered halted))) ∧
    (t.halting = some f → (t.preempt = true ∨ t.leaving = true) → exec (.handlerEntry n) s = .next s) ∧
    (t.halting = some f → t.stands = false → t.inHandler = false → t.k.hnd = true → f.cause ≠ .watchdog →
      exec (.handlerEntry n) s = .next (s.setTeam n (entered t))) ∧
    (t.halting = some f → t.stands = false → (t.inHandler = true ∨ t.k.hnd = false ∨ f.cause = .watchdog) →
      Answers (.handlerEntry n) s fun s' => s'.team? n = none ∧
        ∀ m u, n ∈ t.gang → m ∈ t.gang → s.team? m = some u → u.tid = t.tid → s'.team? m = none) ∧
    (∀ o c a, (s.clk c).refusing = false → (s.clk c).gated = false → exec (.gatedBounce o c a) s = .next s) ∧
    (∀ c a m u, ((s.clk c).refusing = true ∨ (s.clk c).gated = true) → s.team? m = some u → m < 0x8000 → u.pend = none →
      Answers (.gatedBounce m c a) s fun s' => ∃ v, s'.team? m = some v ∧
        v.pend = some { cause := .gated, eng := 6, addr := BitVec.ofNat 64 a, async := true, cyc := u.cycle }) ∧
    (∀ c a r, ((s.clk c).refusing = true ∨ (s.clk c).gated = true) → Answers (.gatedBounce (0x8000 + r) c a) s fun s' =>
      ∀ k ∈ s'.tasks, k.ring = some r → k.jobEnd ≠ none) ∧
    (∀ c < 16, (∀ m, coreOfSlot m / 4 = c → s.team? m = none) → (∀ i < 4, (s.core (4 * c + i)).ks0 = none ∧ (s.core (4 * c + i)).ks1 = none) →
      ((s.clk c).refusing = false → exec (.clusterGate c) s = .next (s.updClk c fun k => { k with refusing := true })) ∧
      ((s.clk c).refusing = true → Answers (.clusterGate c) s fun s' =>
        (s'.clk c).gated = true ∧ (s'.clk c).windows = [] ∧ ∀ i < 4, (s'.core (4 * c + i)).l1 = []))

/-- 14 R351, 17 R405, R409, Table 17-6: an uncorrectable error in HBM or L2 marks its granule; in scratchpad its beat and dtile; in a register its mark; in a kernel slot its words: memory itself keeps its bytes; a corrected error is counted, with a record at each
power of two from 16 on; the scrubber marks the beats that it finds bad. -/
def Sys2Proof.Claims.ErrorsAreMarkedAndCounted : Prop :=
  ∀ (s : State) (n addr : Nat) (t : Team), s.start.powered = true → s.team? n = some t →
    (∀ st < 2, addr < 0x6000000000 → Answers (.uncorrectableError st n addr) s fun s' => addr / 64 ∈ s'.marks ∧ SameMemory s s' ∧ s'.teams = s.teams) ∧
    (addr < t.bankCount * 0x20000 → Answers (.uncorrectableError 3 n addr) s fun s' => SameMemory s s' ∧ ∃ u, s'.team? n = some u ∧ OnlyScratchpad t u ∧
      addr / 64 ∈ u.spMarks ∧ (u.dir (addr / 4096)).poison = true ∧ u.sp = t.sp) ∧
    (addr < 128 → Answers (.uncorrectableError 4 n addr) s fun s' => ∃ u, s'.team? n = some u ∧ addr ∈ u.ve.vMarks ∧ u.ve.v = t.ve.v) ∧
    (0 < addr → addr < 64 → Answers (.uncorrectableError 6 n addr) s fun s' => ∃ u, s'.team? n = some u ∧ Marked u (BitVec.ofNat 6 addr) ∧ u.sq.s = t.sq.s) ∧
    (addr < 16 → Answers (.uncorrectableError 7 n addr) s fun s' => ∃ u, s'.team? n = some u ∧ addr ∈ u.ve.kMarks ∧ u.ve.k = t.ve.k) ∧
    (∀ a, (s.core (coreOfSlot n)).ks0 = some a → a.tid = t.tid → Answers (.uncorrectableError 12 n addr) s fun s' =>
      ∃ b, (s'.core (coreOfSlot n)).ks0 = some b ∧ (addr / 2 ^ 20, addr % 2 ^ 20) ∈ b.bad ∧ b = { a with bad := b.bad }) ∧
    (Answers (.uncorrectableError 14 n addr) s fun s' => s'.team? n = some { t with tdSlot := true }) ∧
    (∀ unit, let c := SMap.get 0 s.corrected unit + 1
      let s1 : State := { s with corrected := SMap.put 0 s.corrected unit c }
      ((∃ i, 4 ≤ i ∧ c = 2 ^ i) → exec (.correctedError unit) s = .next (s1.logRec 0x31 [unit, c])) ∧
      ((∀ i, 4 ≤ i → c ≠ 2 ^ i) → exec (.correctedError unit) s = .next s1)) ∧
    (∀ d bad, 4096 * d < t.bankCount * 0x20000 → Answers (.patrolScrub n d bad) s fun s' => SameMemory s s' ∧ ∃ u, s'.team? n = some u ∧ OnlyScratchpad t u ∧
      u.sp = t.sp ∧ ∀ b ∈ bad, b < 64 → 64 * d + b ∈ u.spMarks ∧ (u.dir d).poison = true)

/-- 17 R397-R409: faults reached by a team, and errors of the memories. -/
def Obligations.FaultsAndErrors : Prop :=
  Claims.FaultsHaltRecordAndEnterTheHandler ∧ Claims.ErrorsAreMarkedAndCounted

/-- 18 R411, R412, R415-R420, R425: an FLL moves one step at a time towards its command; the budget rises after 100 us above 1,100 W and falls after 1,000 us below 1,000 W; the arbiter's grants never exceed a cluster's request, nor, where they did not, the
budget; an interval above nominal takes a permit, the last one disarming the cluster; four intervals at or below nominal give one back; a cluster where a deterministic team issues ends every interval without a grant. -/
def Sys2Proof.Claims.ClocksBudgetAndBoostFollowTheirRules : Prop :=
  ∀ (s : State) (c : Nat), s.start.powered = true →
    (c < 32 → (s.clk c).step ≠ min (s.clk c).cmd (s.clk c).cap → Answers (.fllStep c) s fun s' =>
      s'.time = BitVec.ofNat 64 (max s.time.toNat (s.clk c).next) ∧ s'.clk c = { s.clk c with
        step := if (s.clk c).step < min (s.clk c).cmd (s.clk c).cap then (s.clk c).step + 1 else (s.clk c).step - 1, next := s'.time.toNat + 100 } ∧
      ∀ d, d ≠ c → s'.clk d = s.clk d) ∧
    (c < 32 → (s.clk c).step = min (s.clk c).cmd (s.clk c).cap → exec (.fllStep c) s = .next s) ∧
    (∀ w, Answers (.powerEstimateTick w) s fun s' =>
      s'.time = BitVec.ofNat 64 (max s.time.toNat s.power.estAt) ∧ s'.power.estAt = s.power.estAt + 10000 ∧
      (∀ d < 32, (s'.clk d).cmd = (s.clk d).cmd ∧ (s'.clk d).cap =
        if s'.power.throttle then min (s.clk d).cmd (s.clk d).cap - 1 else if (s.clk d).cmd ≤ (s.clk d).cap + 1 then 66 else (s.clk d).cap + 1) ∧
      (1100 < w → 90 ≤ s.power.overT → s'.power.budget = min 2 (s.power.budget + 1) ∧ s'.power.overT = 0) ∧
      (1100 < w → s.power.overT < 90 → s'.power.budget = s.power.budget ∧ s'.power.overT = s.power.overT + 10) ∧
      (w < 1000 → 990 ≤ s.power.underT → s'.power.budget = s.power.budget - 1 ∧ s'.power.underT = 0) ∧
      (w < 1000 → s.power.underT < 990 → s'.power.budget = s.power.budget ∧ s'.power.underT = s.power.underT + 10 ∧ s'.power.throttle = false) ∧
      (1000 ≤ w → w ≤ 1100 → s'.power.budget = s.power.budget ∧ s'.power.overT = 0 ∧ s'.power.underT = 0)) ∧
    (Answers .boostArbiterSample s fun s' => s'.time = BitVec.ofNat 64 (max s.time.toNat (s.power.sampledAt + 1)) ∧
      (∀ d < 16, (s'.clk d).req = (if s.power.t2 ∨ s.power.t3 then 0 else s.boostRequest d) ∧ (s'.clk d).grant ≤ (s'.clk d).req) ∧
      (((List.range 16).map fun d => (s.clk d).grant).sum ≤ min s.power.bstbud.toNat 224 →
        ((List.range 16).map fun d => (s'.clk d).grant).sum ≤ min s.power.bstbud.toNat 224)) ∧
    (∀ v, HostReaches s → (s.power.bstq = [] → ((List.range 16).map fun d => (s.clk d).grant).sum ≤ min (v.toNat % 256) 224 →
        exec (.bstbudWrite v) s = .next { s with power := { s.power with bstbud := v.setWidth 8 } }) ∧
      ((∀ d < 16, (s.clk d).grant ≠ 0 → d ∈ s.power.newest) → Answers (.bstbudWrite v) s fun s' => s'.power.bstbud = v.setWidth 8 ∧
        ((List.range 16).map fun d => (s'.clk d).grant).sum ≤ min (v.toNat % 256) 224)) ∧
    (∀ q v, HostReaches s → q < 272 → Answers (.pwrqWrite q v) s fun s' =>
      s'.queue q = { s.queue q with lvlcap := v.setWidth 2, det := v.getLsbD 2 } ∧ (∀ r, r ≠ q → s'.queue r = s.queue r) ∧
      ∀ d < 16, (v.getLsbD 2 = true → (∃ t ∈ s.clusterTeams d, t.queue = q) → (s'.clk d).grant = 0) ∧
        ((∀ t ∈ s.clusterTeams d, t.queue ≠ q) → s'.clk d = s.clk d) ∧
        ((∀ t ∈ s.clusterTeams d, (s'.queue t.queue).det = false) → s'.clk d = s.clk d)) ∧
    (s.power.sensorAt = s.power.permitAt → exec .permitIntervalEnd s = .next s) ∧
    (c < 16 → s.power.sensorAt ≠ s.power.permitAt → s.detIssues c = true → Answers .permitIntervalEnd s fun s' => (s'.clk c).grant = 0) ∧
    (c < 16 → s.power.sensorAt ≠ s.power.permitAt → s.detIssues c = false → (s.clk c).stepDown = false → Answers .permitIntervalEnd s fun s' =>
      s'.time = BitVec.ofNat 64 (max s.time.toNat s.power.permitAt) ∧ s'.power.permitAt = s.power.permitAt + 4000 ∧
      ((s.clk c).above = true → (s.clk c).permits ≤ 1 → (s'.clk c).permits = 0 ∧ (s'.clk c).armed = false ∧ (s'.clk c).grant = 0) ∧
      ((s.clk c).above = true → 1 < (s.clk c).permits → (s'.clk c).permits = (s.clk c).permits - 1 ∧ (s'.clk c).run = 0) ∧
      ((s.clk c).above = false → (s'.clk c).run = (s.clk c).run + 1 ∧
        (s'.clk c).permits = (if ((s.clk c).run + 1) % 4 = 0 then min 64 ((s.clk c).permits + 1) else (s.clk c).permits)))

/-- 18 R423, R424, Tables 18-4, 18-5: a trip asserts when one sensor stands at or above its threshold in two samples running, and deasserts after 10 ms with every sensor at least 3 degrees below; T2 and T3 withdraw every grant; T4 removes module power and is
remembered. -/
def Sys2Proof.Claims.ThermalTripsFollowTheirThresholds : Prop :=
  ∀ (s : State) (rs : List (Nat × Int)), s.start.powered = true →
    ((∃ i < 13, ∀ r ∈ rs, r.1 ≠ i) → exec (.sensorSample rs) s = .next s) ∧
    ((∀ i < 13, ∃ r ∈ rs, r.1 = i) → Answers (.sensorSample rs) s fun s' =>
      s'.time = BitVec.ofNat 64 (max s.time.toNat s.power.sensorAt) ∧ s'.power.sensorAt = s.power.sensorAt + 50000 ∧
      ∀ trip thr cool, (trip, thr, cool) ∈ [((fun p : Power => p.t1), (95 : Int), fun p : Power => p.cool1), ((fun p => p.t2), 102, fun p => p.cool2),
          ((fun p => p.t3), 110, fun p => p.cool3)] →
        (trip s.power = false → (trip s'.power = true ↔ ∃ r ∈ rs, thr ≤ r.2 ∧ thr ≤ SMap.get 0 s.power.prev r.1)) ∧
        (trip s.power = true → (trip s'.power = false ↔ (∀ r ∈ rs, r.2 ≤ thr - 3) ∧ 10000 ≤ cool s.power + 50)) ∧
        (trip s.power = false → trip s'.power = true → thr ≠ 95 → ∀ d < 16, (s'.clk d).grant = 0)) ∧
    Answers .t4PowerRemove s fun s' => s'.start = { s.start with powered := false, t4 := true } ∧ s'.mem = s.mem ∧ s'.log.length = s.log.length ∧ s'.log.tail = s.log.tail ∧ step { s' with agenda := [] } = .fault .noPower

/-- 18 R411-R424: clocks, budget, boost and thermal trips. -/
def Obligations.ClocksBoostAndTrips : Prop :=
  Claims.ClocksBudgetAndBoostFollowTheirRules ∧ Claims.ThermalTripsFollowTheirThresholds

/-- 19 R426-R430, 15 R371, 17 R406, Tables 19-1, 19-12: a request whose ECRC is wrong is reported and dropped; through the window of BAR2 the host reads, writes and performs AtomicOps on HBM; a poisoned granule completes poisoned, a poisoned write marks its granules and stores nothing; a peer's access needs an aperture entry
that admits it and is otherwise turned away and logged.  The checks of an AtomicOp are the model's (log 14). -/
def Sys2Proof.Claims.HostAndPeersReachMemory : Prop :=
  ∀ (s : State) (off len : Nat) (bs : List Byte),
    let pa := barAddress s.host.winbase s.host.bar2 off
    let pp := barAddress s.host.pwinbase s.host.pbar2 off
    (HostReaches s → exec (.hostBar2Read ⟨off, false⟩ len) s = .next (s.report 0 8) ∧ (∀ ep, exec (.hostBar2Write ⟨off, false⟩ bs ep) s = .next (s.report 0 8)) ∧
      ∀ size op a b, exec (.hostAtomicop ⟨off, false⟩ size op a b) s = .next (s.report 0 8)) ∧
    (HostReaches s → off + len ≤ s.host.bar2 → pa + len ≤ 0x6000000000 →
      (markedRange 64 s.marks pa len = false → exec (.hostBar2Read ⟨off, true⟩ len) s = .next (sends s (.data (readBytes s.mem pa len) false))) ∧
      (markedRange 64 s.marks pa len = true → Answers (.hostBar2Read ⟨off, true⟩ len) s fun s' =>
        s'.host.out = .data (List.replicate len 0xFF) true :: s.host.out ∧ s'.host.aer = (0, 5) :: s.host.aer ∧ s'.mem = s.mem)) ∧
    (HostReaches s → off + bs.length ≤ s.host.bar2 → pa + bs.length ≤ 0x6000000000 → bs ≠ [] →
      exec (.hostBar2Write ⟨off, true⟩ bs false) s = .next (s.performBytes pa bs false) ∧
      (Answers (.hostBar2Write ⟨off, true⟩ bs true) s fun s' => s'.mem = s.mem ∧ (∀ g ∈ unitsOf 64 pa bs.length, g ∈ s'.marks) ∧ s'.host.aer = (0, 5) :: s.host.aer) ∧
      (∀ a, readByte (s.performBytes pa bs false).mem a = if pa ≤ a ∧ a < pa + bs.length then bs.getD (a - pa) 0 else readByte s.mem a)) ∧
    (∀ size op a b, HostReaches s → off + size ≤ s.host.bar2 → (size = 4 ∨ size = 8) → op ≤ 2 → pa % size = 0 → pa < 0x6000000000 →
      InNoL1 s (pa / 128) → markedRange 64 s.marks pa size = false →
      let old := ofBytes (readBytes s.mem pa size)
      exec (.hostAtomicop ⟨off, true⟩ size op a b) s =
        .next (sends (s.performBytes pa (toBytes size (atomicOp op size old a b)) false) (.data (toBytes size old) false))) ∧
    (∀ rid a b, s.start.powered = true → s.start.step = 6 → s.host.linkP = true → off + len ≤ s.host.pbar2 →
      exec (.peerRequest rid ⟨off, false⟩ 0 len bs a b) s = .next (s.report 1 8) ∧
      ((∃ i < 16, apertureAllows (SMap.get 0 s.host.aper i) rid pp len false = true) → pp + len ≤ 0x6000000000 → markedRange 64 s.marks pp len = false →
        exec (.peerRequest rid ⟨off, true⟩ 0 len bs a b) s = .next (sends s (.data (readBytes s.mem pp len) false))) ∧
      ((∀ i < 16, apertureAllows (SMap.get 0 s.host.aper i) rid pp len false = false) → Answers (.peerRequest rid ⟨off, true⟩ 0 len bs a b) s fun s' =>
        s'.mem = s.mem ∧ s'.marks = s.marks ∧ s'.host.out = .unsupported :: s.host.out ∧ s'.host.aer = (1, 1) :: s.host.aer))

/-- 19 R426, R429, R441, 15 R368: a request that the device sent completes with its data, or, when it fails, outlives its port's Completion Timeout or loses its link, with all ones and a poison mark and a report; it is then no longer outstanding; one whose ECRC is
wrong is dropped; a link that comes back has its width, and the error that led to it is reported. -/
def Sys2Proof.Claims.OutboundRequestsComplete : Prop :=
  ∀ (s : State) (ix : Nat) (q : OutReq) (t : Team), s.start.powered = true → s.host.outReqs[ix]? = some q → s.team? q.slot = some t →
    let gone : State := { s with host := { s.host with outReqs := s.host.outReqs.filter fun x => decide (x.id ≠ q.id) } }
    (∀ data, s.linkUp q.port = true → exec (.outboundCompletion ix 8 data) s = .next (s.report q.port 8)) ∧
    (∀ data, s.linkUp q.port = true → q.acq = false → data.length = q.len →
      (q.op = 99 → exec (.outboundCompletion ix 0 data) s = .next (gone.setTeam q.slot
        { t with sq := { t.sq with landing := t.sq.landing.map fun l => filled l q.id data false } })) ∧
      (q.op = 98 → exec (.outboundCompletion ix 0 data) s = .next (gone.setTeam q.slot
        { t with flushing := t.flushing.filter fun p => decide (p ≠ q.port) })) ∧
      (∀ d, q.op ≠ 98 → q.op ≠ 99 → q.d = some d → exec (.outboundCompletion ix 0 data) s =
        .next (gone.setTeam q.slot (t.setS (BitVec.ofNat 6 d) (BitVec.ofNat 64 (ofBytes data)))))) ∧
    (∀ st data, s.linkUp q.port = true → q.acq = false → q.op = 99 → st ∈ [1, 4, 5] → Answers (.outboundCompletion ix st data) s fun s' =>
      (∀ x ∈ s'.host.outReqs, x.id ≠ q.id) ∧ s'.host.aer = (q.port, st) :: s.host.aer ∧
        ∃ u, s'.team? q.slot = some u ∧ u.sq.landing = t.sq.landing.map fun l => filled l q.id (List.replicate q.len 0xFF) true) ∧
    (s.time.toNat < q.sent + (if q.port = 0 then s.host.ctoH else s.host.ctoP) → exec (.completionTimeout ix) s = .next s) ∧
    (q.sent + (if q.port = 0 then s.host.ctoH else s.host.ctoP) ≤ s.time.toNat → q.acq = false → s.linkUp q.port = true →
      Answers (.completionTimeout ix) s fun s' => (∀ x ∈ s'.host.outReqs, x.id ≠ q.id) ∧ s'.host.aer = (q.port, 7) :: s.host.aer) ∧
    (∀ p ≤ 1, Answers (.linkDown p) s fun s' => s'.linkUp p = false ∧ (∀ x ∈ s'.host.outReqs, x.port ≠ p) ∧
      ∀ w ∈ s'.fabric, destOf w.pa ≠ .port p) ∧
    (∀ p width err, p ≤ 1 → (width = 8 ∨ width = 16) → Answers (.linkRetrain p width err) s fun s' => s'.linkUp p = true ∧
      (if p = 0 then s'.host.widthH else s'.host.widthP) = width ∧ (∀ r, r ≠ p → r ≤ 1 → s'.linkUp r = s.linkUp r) ∧ s'.mem = s.mem ∧
      (∀ b, err = some b → s'.host.aer = (p, 16 + b % 32) :: s.host.aer))

/-- 19 R426-R430: requests that the ports receive, and completions of those they send. -/
def Obligations.PortsServeAndComplete : Prop :=
  Claims.HostAndPeersReachMemory ∧ Claims.OutboundRequestsComplete

/-- 19 R435, Table 19-6: the SPDM responder answers, on each transport, the requests of a connection that has come far enough, and ERROR to any other; a new GET_VERSION begins a new connection; the digest, the chain and the measurement blocks are the same at every
read, block 4 giving the firmware's and the block's SVN; a session opens with a FINISH whose data verify.  The words that standards and keys fix are free (log 13). -/
def Sys2Proof.Claims.TheSpdmResponderAnswersInOrder : Prop :=
  ∀ (s0 : State), Managed s0 (transport s0) →
    let via := transport s0
    let s := arrived s0
    let c := if via = 128 then s.mgmt.vdm else s.mgmt.smb
    let with_ (s : State) (c : Conn) : State := { s with mgmt := if via = 128 then { s.mgmt with vdm := c } else { s.mgmt with smb := c } }
    let error := Host.Outcome.next (sends s (.spdm via 0x7F []))
    let blocks := [[Config.romHash.toNat], [s.start.fwHash.toNat], [(Config.blockHash s.start.cfg).toNat], [s.start.fwSvn.toNat, s.start.cfg.svn.toNat]]
    exec .getVersion s0 = .next (responds (with_ s { version := true }) via 0x04 [0x12] 0) ∧
    exec .getCapabilities s0 = (if c.version then .next (responds (with_ s { c with caps := true }) via 0x61 [] 1) else error) ∧
    (∀ offer, exec (.negotiateAlgorithms offer) s0 =
      if c.caps then .next (responds (with_ s { c with algs := true }) via 0x63 ([0, 1, 2].filter offer.contains) 0) else error) ∧
    exec .getDigests s0 = (if c.algs then .next (responds s via 0x01 [0, Config.chainDigest.toNat] 0) else error) ∧
    (∀ k, exec (.getCertificate k) s0 = if c.algs ∧ k = 0 then .next (responds s via 0x02 [0, Config.certChain] 0) else error) ∧
    (∀ nonce, exec (.challenge nonce) s0 = if c.algs then .next (responds s via 0x03 [nonce.toNat] 1) else error) ∧
    (∀ i, exec (.getMeasurements i) s0 =
      if c.algs ∧ i = 0 then .next (responds s via 0x60 [4] 0)
      else if c.algs ∧ i ≤ 4 then .next (responds s via 0x60 (blocks.getD (i - 1) []) 1)
      else if c.algs ∧ i = 255 then .next (responds s via 0x60 blocks.flatten 1) else error) ∧
    (∀ share, exec (.keyExchange share) s0 = if c.algs then .next (responds (with_ s { c with keyed := true }) via 0x64 [share.toNat] 2) else error) ∧
    (∀ v, exec (.finish v) s0 =
      if c.keyed = false then error
      else if Config.spdmVerified v s.free then
        .next (responds (with_ { s with free := s.free + 1 } { c with keyed := false, session := true }) via 0x65 [] 1)
      else .next (sends (with_ { s with free := s.free + 1 } { c with keyed := false }) (.spdm via 0x7F []))) ∧
    exec .endSession s0 = (if c.session then .next (responds (with_ s { c with session := false }) via 0x6C [] 0) else error)

/-- 19 R440-R442, Table 19-9: the log is read inside a session only, 1 to 16 records of 64 bytes from a SEQ on, oldest first, torn records skipped, with the newest SEQ, and the last SEQ read is kept; the records held back of one type and source become one record; one
lane is margined at a time, on a live link, ending with vector 2,044 and the report of any error; margining a lane changes nothing that a program sees. -/
def Sys2Proof.Claims.TheLogAndMarginingServeTheManagementPath : Prop :=
  ∀ (s0 : State), Managed s0 (transport s0) →
    let via := transport s0
    let s := arrived s0
    let open_ : Bool := (if via = 128 then s.mgmt.vdm else s.mgmt.smb).session
    let reported (s s' : State) (p : Nat) : Prop := (Config.marginErr s.free = none → s'.host.aer = s.host.aer) ∧
      ∀ b, Config.marginErr s.free = some b → s'.host.aer = (p, 16 + b % 32) :: s.host.aer
    (∀ start count, (open_ = true ∧ 1 ≤ count ∧ count ≤ 16 → Answers (.logRead start count) s0 fun s' =>
        let rs := ((s.log.reverse.filter fun r => decide (start ≤ r.seq)).filter fun r => decide (r.tear = 0)).take count
        s'.host.out = .log via (rs.map LogRec.bytes) (s.logSeq - 1) :: s.host.out ∧ (∀ r, rs.getLast? = some r → s'.mgmt.lastRead = some r.seq) ∧
        (rs = [] → s'.mgmt.lastRead = s.mgmt.lastRead) ∧ s'.log = s.log ∧ s'.mem = s.mem) ∧
      (¬(open_ = true ∧ 1 ≤ count ∧ count ≤ 16) → exec (.logRead start count) s0 = .next (sends s (.spdm via 0x7F [])))) ∧
    (∀ r : LogRec, r.bytes.length = 64 ∧ fieldAt r.bytes 0 8 = r.seq % 2 ^ 64 ∧ fieldAt r.bytes 8 8 = r.time.toNat ∧ fieldAt r.bytes 16 2 = r.boot.toNat ∧
      fieldAt r.bytes 18 1 = r.typ % 256 ∧ (r.tear = 0 → fieldAt r.bytes 60 4 = crc32 (r.bytes.take 60) % 2 ^ 32)) ∧
    (∀ ty src sec cnt, (ty, src, sec, cnt) ∈ s.logHeld → s.logHeld.find? (fun e => e.1 = ty && e.2.1 = src && e.2.2.2 = cnt) = some (ty, src, sec, cnt) →
      Answers (.recordsSummarised ty src cnt) s fun s' => (ty, src, sec, cnt) ∉ s'.logHeld ∧ s'.logSeq = s.logSeq + 1 ∧
        ∃ r, s'.log.head? = some r ∧ r.typ = 0x7F ∧ r.payload = [ty, src, cnt] ∧ r.seq = s.logSeq) ∧
    (∀ p lane, p ≤ 1 → s.start.step = 6 → s.linkUp p = true → lane < (if p = 0 then s.host.widthH else s.host.widthP) →
      (s.mgmt.margin = none → exec (.marginingRequest ⟨p, lane⟩) s = .next { s with mgmt := { s.mgmt with margin := some (p, lane) } }) ∧
      (s.mgmt.margin ≠ none → exec (.marginingRequest ⟨p, lane⟩) s = .next s) ∧
      ∀ cmd, Answers (.marginingCommand p lane cmd) s fun s' => SMap.get 0 s'.host.lanes (16 * p + lane) = cmd ∧ s'.mem = s.mem ∧
        s'.teams = s.teams ∧ s'.linkUp p = true ∧ reported s s' p) ∧
    (∀ p lane, s.mgmt.margin = some (p, lane) → Answers .marginingDone s fun s' => s'.mgmt.margin = none ∧ s'.host.msix = 2044 :: s.host.msix ∧ reported s s' p)

/-- 19 R435, R440-R442: SPDM, the log and margining. -/
def Obligations.TheManagementPathAnswers : Prop :=
  Claims.TheSpdmResponderAnswersInOrder ∧ Claims.TheLogAndMarginingServeTheManagementPath

/-- 19 R438: step 6 of a start leaves every future entry FREE with generation 1 and no owning ASID, every ticket dispenser disabled with ASID 0 and NEXT = SERVE = 0, the resolver's window empty, every queue DISABLED with the reset values of Tables 3-2 to 3-4, no
snapshot level open and every region's generation 1, and every codec context disabled with its state discarded. -/
def Obligations.Step6LeavesTheUnitsAsR438Says : Prop :=
  ∀ (s : State), s.start.powered = true → s.start.fail = false → s.start.step = 6 → s.start.ready = false →
    Answers (.schedulerStarted true) s fun s' =>
      (∀ i, (s'.future i).st = .free ∧ (s'.future i).gen = 1 ∧ (s'.future i).asid = none) ∧
      (∀ k, (s'.ticket k).en = false ∧ (s'.ticket k).asid = 0 ∧ (s'.ticket k).next = 0 ∧ (s'.ticket k).serve = 0) ∧
      s'.tasks = [] ∧
      (∀ q, let k := s'.queue q
        k.st = .disabled ∧ k.en = false ∧ k.drops = 0 ∧ k.quant = 0 ∧ k.weight = 1 ∧ k.cls = 3 ∧ k.asid = 0 ∧ k.tf = 1000 ∧ k.tk = 1000 ∧ k.tp = 0) ∧
      (∀ a r, (s'.snap a r).levels = [] ∧ (s'.snap a r).gen = 1) ∧
      (∀ c, let k := s'.codec c
        k.en = false ∧ k.started = false ∧ k.pool = 0 ∧ k.slotb = 0 ∧ k.pitch = 0 ∧ k.refs = 0)

/-- 19 R436-R439, R441, Table 19-7: the steps of a start.  Firmware and a configuration block that verify, the block's SVN no lower than the highest accepted, end step 1; the readings of every sensor decide a warm start, for the stacks and block that the trained
values hold for, and self-heat; training ends steps 4 and 5, the first keeping what it holds for; step 6 leaves every unit as R438 says and sets READY; a step that fails stays failed.  A pseudo-channel that is due retrains for at most 1.2 us, nothing that a program
reads changing; a loss of power leaves the device without power. -/
def Obligations.TheStartFollowsItsSteps : Prop :=
  ∀ (s : State), s.start.powered = true → s.start.fail = false →
    let all (rs : List (Nat × Int)) : Prop := ∀ i < 13, ∃ r ∈ rs, r.1 = i
    let cold (rs : List (Nat × Int)) : Prop := ∃ r ∈ rs, (r.1 < 8 ∧ r.2 < 5) ∨ (8 ≤ r.1 ∧ r.1 < 12 ∧ r.2 < -10)
    let fails (i : Instr) : Prop := Answers i s fun s' => s'.start = { s.start with fail := true }
    (s.start.step = 1 → ∀ fwSvn fw blk,
      let good := Config.signed fw.hash fw.sig = true ∧ Config.signed (Config.blockHash blk) blk.sig = true ∧ s.start.svn ≤ blk.svn
      (good → exec (.firmwareVerified fwSvn fw blk) s = .next { s with
        start := { s.start with step := 2, svn := blk.svn, fwSvn := fwSvn, fwHash := fw.hash, cfg := blk },
        power := { s.power with bstbud := blk.bstbud } }) ∧
      (¬good → fails (.firmwareVerified fwSvn fw blk))) ∧
    (s.start.step = 2 → ∀ stackId rs, (¬all rs → fails (.sensorsRead ⟨stackId, rs⟩)) ∧
      (all rs → Answers (.sensorsRead ⟨stackId, rs⟩) s fun s' => s'.start.step = 3 ∧ s'.start.heatAt = s.time.toNat ∧ s'.start.stackId = stackId ∧
        (s'.start.warm = true ↔ ∃ t, s.start.trained = some t ∧ t.stackId = stackId ∧ t.block = Config.blockHash s.start.cfg ∧
          ∀ r ∈ rs, r.1 < 8 → (r.2 - SMap.get 0 t.temps r.1).natAbs < 15) ∧
        (s'.start.heat = true ↔ cold rs))) ∧
    (s.start.step = 3 → fails (.selfHeatEnd none) ∧ ∀ rs, (cold rs ∨ ¬all rs → exec (.selfHeatEnd (some rs)) s = .next s) ∧
      (¬cold rs → all rs → Answers (.selfHeatEnd (some rs)) s fun s' =>
        s'.start.step = (if s.start.warm then 5 else 4) ∧ s'.start.heat = false)) ∧
    (s.start.step = 4 → fails (.hbmTrained false) ∧ Answers (.hbmTrained true) s fun s' => s'.start.step = 5 ∧
      ∃ t, s'.start.trained = some t ∧ t.stackId = s.start.stackId ∧ t.block = Config.blockHash s.start.cfg ∧
        ∀ i < 8, SMap.get 0 t.temps i = SMap.get 0 s.start.temps i) ∧
    (s.start.step = 5 → fails (.pcieTrained false) ∧ Answers (.pcieTrained true) s fun s' => s'.start.step = 6 ∧ s'.host.linkH = true ∧ s'.host.linkP = true) ∧
    (s.start.step = 6 → s.start.ready = false → fails (.schedulerStarted false) ∧
      Answers (.schedulerStarted true) s fun s' => s'.start = { s.start with ready := true } ∧ SameMemory s s') ∧
    (∀ stack chan, stack < 8 → chan < 64 → 5 ≤ s.start.step → s.retraining stack = false →
      (s.retrainDue stack chan = false → exec (.hbmRetrain stack chan) s = .next s) ∧
      (s.retrainDue stack chan = true → Answers (.hbmRetrain stack chan) s fun s' => s'.mem = s.mem ∧ s'.teams = s.teams ∧
        (SMap.get {} s'.hbm stack).busy = some (chan, s.time.toNat + 1200) ∧
        ∀ k, k ≠ stack → SMap.get {} s'.hbm k = SMap.get {} s.hbm k)) ∧
    (Answers .powerLoss s fun s' => s'.start = { s.start with powered := false } ∧ s'.mem = s.mem ∧ s'.log.tail = s.log.tail) ∧
    (∀ s0, s0.start.powered = false → s0.start.t4 = false → Answers .powerOnStart s0 fun s' => s'.start.powered = true ∧ s'.start.step = 1 ∧
      s'.start.boots = s0.start.boots + 1 ∧ s'.teams = [] ∧ s'.mem = [] ∧ s'.time = 0 ∧ s'.log = s0.log ∧ s'.start.trained = s0.start.trained ∧
      s'.start.svn = s0.start.svn)

/-! The whole machine: decoding, the step, reset, and what every step keeps (06 R118-R123, 07 R139-R154, 00 R8). -/

/-- 07 R139, R140, Tables 7-1 to 7-11: words written out from the encoding tables, one of each engine's formats, read as the instruction they stand for; the zero word, a reserved opcode and a gather-only word outside the GQ do not. -/
def Obligations.WordsOfTheTablesDecode : Prop :=
  decode .sq 0x04108300 = .ok (.add 1 2 3) ∧ decode .sq 0x0814FFFF = .ok (.addi 1 19 (-1)) ∧ decode .sq 0xAC100008 = .ok (.mfs 1 0x008) ∧
  decode .ve 0x10010203 = .ok (.vadd 1 2 3) ∧ decode .me 0xB0000000 = .ok .mdrain ∧
  decode .tu0 0x20000005 = .ok (.xwait 5) ∧ decode .tu1 0x20000005 = .ok (.xwait 5) ∧
  decode .gq 0xC0020000 = .ok (.lpop 0 2 0) ∧ decode .tu0 0xC0020000 = .error .gatherOnly ∧
  decode .sq 0x00000001 = .error .reserved ∧
  ∀ e ∈ [Engine.sq, .ve, .me, .tu0, .tu1, .gq], decode e 0 = .error .zeroWord

/-- 07 R139-R154: the encoder and the decoder agree on every well-formed instruction word of every engine that issues it: it has an encoding, of 32 bits, which decodes to it, whatever its operands are. -/
def Sys2Proof.Claims.DecodingUndoesEncoding : Prop :=
  ∀ (i : Instr) (e : Engine), i.wellFormed = true → e ∈ i.streams →
    ∃ w, encode i = some w ∧ w < 2 ^ 32 ∧ decode e (BitVec.ofNat 32 w) = .ok i

/-- 07 R139-R154: a word that decodes is the encoding of the well-formed instruction it decodes to, of the engine that reads it; so no two words of an engine mean the same instruction and no bit of a word is ignored. -/
def Sys2Proof.Claims.EncodingUndoesDecoding : Prop :=
  ∀ (e : Engine) (w : Word) (i : Instr), decode e w = .ok i → encode i = some w.toNat ∧ i.wellFormed = true ∧ e ∈ i.streams

/-- 07 R139-R154: the encoder and the decoder are inverse to each other over every instruction word, every operand and every engine. -/
def Obligations.DecodingAndEncodingAgree : Prop :=
  Claims.DecodingUndoesEncoding ∧ Claims.EncodingUndoesDecoding

/-- 06 R118, R119, R122, R130, 07 R140: when nothing else falls due and the selected engine of the issuing team can issue, the step fetches the word at the engine's program counter.  A word that decodes, and that is not interlocked, is executed; the ready times of its
results and the bank ports it takes are noted, and the turn passes on.  An interlocked word passes its turn.  Past the end of the section, and at a word that decodes to nothing, the step raises ILLOP; at a poisoned word POISON. -/
def Sys2Proof.Claims.AStepRunsTheFetchedWord : Prop :=
  ∀ (s : State) (n : Nat) (t : Team),
    s.agenda = [] → s.start.powered = true → s.cur? = some (n, t) → (s.core s.sel.core).at_ ≤ (s.clk (domainOf s.sel.core)).at_ →
    (s.cycleStart (domainOf s.sel.core) = true → s.beatDue (domainOf s.sel.core) = none) →
    (s.clk (domainOf s.sel.core)).frozen = false → s.sel.due = false → s.dueWork n t = none →
    t.canIssue s.sel.eng = true → t.faulted s.sel.eng = false → (t.ctl s.sel.eng).loopMark = false →
    let e := s.sel.eng
    let ks := s.kslot n t
    let pc := (t.ctl e).pc
    let w := SMap.get 0 (ks.sects.getD e.num {}).words pc
    (t.words e ≤ pc → step s = .next ((s.trap n t e .illop 0 0 0).passTurn)) ∧
    (pc < t.words e →
      ((e.num, pc) ∈ ks.bad → step s = .next ((s.trap n t e .poison 11 0 0).passTurn)) ∧
      ((e.num, pc) ∉ ks.bad →
        (∀ x, decode e w = .error x → step s = .next ((s.trap n t e .illop 0 0 0).passTurn)) ∧
        (∀ i, decode e w = .ok i →
          (s.interlocked n t e i = true → step s = .next s.passTurn) ∧
          (s.interlocked n t e i = false → ∀ s1, exec i s = .next s1 →
            step s = .next (s1.afterWord n t e i) ∧
            (s1.team? n = none → s1.afterWord n t e i = s1.passTurn) ∧
            ∀ u, s1.team? n = some u → s1.afterWord n t e i = s1.passTurn ∨ ∃ v,
              s1.afterWord n t e i = (s1.setTeam n v).passTurn ∧
              let x := u.setCtl e { u.ctl e with ready := (v.ctl e).ready }
              v = { x with ports := v.ports, ve := { x.ve with beats := v.ve.beats }, me := { x.me with nld := v.me.nld } }))))

/-- The model's own (log 6): the operation or event at the head of the agenda happens next, as `exec` says; an instruction word cannot be asked for there. -/
def Sys2Proof.Claims.AStepTakesTheHeadOfTheAgenda : Prop :=
  ∀ (s : State) (i : Instr) (r : List Instr), s.agenda = i :: r →
    (i.streams = [] → step s = exec i { s with agenda := r }) ∧ (i.streams ≠ [] → step s = .next { s with agenda := r })

/-- 06 R118-R122, 07 R140: what a step does: the decoded word runs, with what the step adds around it. -/
def Obligations.AStepRunsTheWordOrTakesTheAgenda : Prop :=
  Claims.AStepRunsTheFetchedWord ∧ Claims.AStepTakesTheHeadOfTheAgenda

/-- 01 R14, 06 R118, R126-R128, R130, Table 6-5, 17 R402, 18 R411: the engines of the team of the selected core have their turns one after another, what the ME's nest does in the cycle following the ME's; when the last has had its turn CYCLE counts the cycle, but not
in a handler or while the team stands still, and the next core of the clock domain has its turn, or the domain's cycle ends, its own time moving on by a period of its clock.  A late landing of any core freezes the whole domain from the start of a cycle; a frozen
cycle is counted once, in FREEZE, and in no CYCLE. -/
def Obligations.CyclesAreCounted : Prop :=
  ∀ (s : State) (n : Nat) (t : Team), s.cur? = some (n, t) →
    let d := domainOf s.sel.core
    (s.sel.eng = .me → s.passTurn = { s.portTicks n with sel := { s.sel with due := true } }) ∧
    (s.sel.eng ≠ .me → s.passTurn = s.nextTurn) ∧
    (∀ f, t.nextEngine s.sel.eng = some f → s.nextTurn = { s with sel := { s.sel with eng := f, due := false } }) ∧
    (t.nextEngine s.sel.eng = none → t.pend = none → ∃ u, s.nextTurn.team? n = some u ∧
      u.cycle = (if t.inHandler ∨ t.stands then t.cycle else t.cycle + 1)) ∧
    (∀ c, (s.turnCores d).find? (fun x => s.sel.core < x) = some c → s.turnOver s.sel.core = s.turnTo c) ∧
    ((∀ x ∈ s.turnCores d, x ≤ s.sel.core) → s.turnOver s.sel.core = (s.updClk d fun k => { k with
      at_ := k.at_ + (40 + k.frac) / (16 + k.step), frac := (40 + k.frac) % (16 + k.step), cyc := k.cyc + 1 }).pickCore) ∧
    (∀ x, s.schedule = [] → s.leastDomain (s.issuingCores.map domainOf).eraseDups = some x →
      (s.pickCore.clk x).frozen = s.domainLate x ∧ (s.pickCore.clk x).at_ = s.domainTime x) ∧
    (s.agenda = [] → s.start.powered = true → (s.core s.sel.core).at_ ≤ (s.clk d).at_ → (s.cycleStart d = true → s.beatDue d = none) →
      (s.clk d).frozen = true → step s = .next (s.freezeTick s.sel.core)) ∧
    (∀ c, ((s.freezeTick c).clk (domainOf c)).freeze = (s.clk (domainOf c)).freeze + 1 ∧
      ∀ m u, s.team? m = some u → ∃ v, (s.freezeTick c).team? m = some v ∧ v.cycle = u.cycle)

/-- 00 R8, 03 Tables 3-2 to 3-4, 04 Tables 4-3, 4-4, 05 Tables 5-1, 5-6 to 5-8, 16 Tables 16-1 to 16-3, 18 Tables 18-1 to 18-3, 18-5, 19 Tables 19-3, 19-8, 19-11, 19-12, R438: the reset values that the spec's field maps give. -/
def Obligations.ResetHoldsTheValuesOfTheFieldMaps : Prop :=
  let s := State.reset
  (∀ q, (s.queue q).quant = 0 ∧ (s.queue q).weight = 1 ∧ (s.queue q).cls = 3 ∧ (s.queue q).asid = 0 ∧ (s.queue q).tf = 1000 ∧ (s.queue q).tk = 1000 ∧
    (s.queue q).tp = 0 ∧ (s.queue q).drops = 0 ∧ (s.queue q).st = .disabled ∧ (s.queue q).en = false ∧ (s.queue q).lvlcap = 0 ∧ (s.queue q).det = false) ∧
  (∀ i, (s.future i).st = .free ∧ (s.future i).gen = 1 ∧ (s.future i).asid = none) ∧
  (∀ k, (s.ticket k).en = false ∧ (s.ticket k).asid = 0 ∧ (s.ticket k).next = 0 ∧ (s.ticket k).serve = 0) ∧
  s.tasks = [] ∧
  (∀ a, (s.asid a).ptroot = 0 ∧ (s.asid a).snrtab = 0 ∧ (s.asid a).snpbase = 0 ∧ (s.asid a).snpsize = 0 ∧ ∀ r, (s.snap a r).gen = 1 ∧ (s.snap a r).levels = []) ∧
  (∀ c, (s.codec c).en = false) ∧
  s.host.swpbase = 0 ∧ s.host.swpsize = 0 ∧ s.host.invaddr = 0 ∧ s.host.invctl = 0 ∧ s.host.invdone = 0 ∧ s.host.inverr = false ∧ s.host.inv = none ∧
  s.host.winbase = 0 ∧ s.host.pwinbase = 0 ∧ (∀ n, SMap.get 0 s.host.aper n = 0) ∧
  s.power.bstbud = 96 ∧ s.power.tmax = 0 ∧ s.power.t1 = false ∧ s.power.t2 = false ∧ s.power.t3 = false ∧
  (∀ c, (s.clk c).armed = true ∧ (s.clk c).permits = 64 ∧ (s.clk c).step = 52) ∧
  s.start.step = 1 ∧ s.start.warm = false ∧ s.start.heat = false ∧ s.start.fail = false ∧ s.start.ready = false

/-- The model's memory at reset is in its canonical form: it lists nothing (what an unlisted byte reads as is the model's choice, log 4). -/
def Obligations.ResetMemoryIsCanonical : Prop := Memory.wf State.reset.mem = true

/-- Every step keeps memory in its one canonical form, addresses rising and no listed byte equal to what an unlisted one reads as, so that two memories that read alike are equal. -/
def Obligations.EveryStepKeepsMemoryCanonical : Prop :=
  (∀ s s' : State, Memory.wf s.mem = true → step s = .next s' → Memory.wf s'.mem = true) ∧
  ∀ m m' : List Host.Cell, Memory.wf m = true → Memory.wf m' = true → (∀ a, readByte m a = readByte m' a) → m = m'

end
end

