-- ==== Sys2Proof/Laws/Sparse.lean ====
section
/-!
SUPPORT. Sys2Proof/Laws/Sparse.lean: what reading a sparse table gives after each way of writing it, and that every way of
writing keeps the canonical form.
-/
namespace Sys2Proof.Machine

theorem SMap.get?_insert {α : Type} (m : SMap α) (k j : Nat) (v : α) :
    SMap.get? (SMap.insert m k v) j = if j = k then some v else SMap.get? m j := by
  induction m with
  | nil => grind [SMap.insert, SMap.get?]
  | cons p r ih => grind [SMap.insert, SMap.get?]

theorem SMap.get?_erase {α : Type} (m : SMap α) (k j : Nat) :
    SMap.get? (SMap.erase m k) j = if j = k then none else SMap.get? m j := by
  induction m with
  | nil => grind [SMap.erase, SMap.get?]
  | cons p r ih => grind [SMap.erase, SMap.get?]

@[simp] theorem SMap.get?_nil {α : Type} (k : Nat) : SMap.get? ([] : SMap α) k = none := rfl

@[simp] theorem SMap.get_nil {α : Type} (d : α) (k : Nat) : SMap.get d ([] : SMap α) k = d := rfl

theorem SMap.get_insert {α : Type} (d : α) (m : SMap α) (k j : Nat) (v : α) :
    SMap.get d (SMap.insert m k v) j = if j = k then v else SMap.get d m j := by
  unfold SMap.get
  rw [SMap.get?_insert]
  split <;> rfl

theorem SMap.get_put {α : Type} [DecidableEq α] (d : α) (m : SMap α) (k j : Nat) (v : α) :
    SMap.get d (SMap.put d m k v) j = if j = k then v else SMap.get d m j := by
  unfold SMap.get SMap.put
  split
  · rw [SMap.get?_erase]; split <;> simp_all
  · rw [SMap.get?_insert]; split <;> simp_all

theorem SMap.get_upd {α : Type} [DecidableEq α] (d : α) (m : SMap α) (k j : Nat) (f : α → α) :
    SMap.get d (SMap.upd d m k f) j = if j = k then f (SMap.get d m k) else SMap.get d m j :=
  SMap.get_put d m k j _

theorem SMap.get_putList {α : Type} [DecidableEq α] (d : α) (m : SMap α) (k j : Nat) (l : List α) :
    SMap.get d (SMap.putList d m k l) j = if k ≤ j ∧ j < k + l.length then l.getD (j - k) d else SMap.get d m j := by
  induction l generalizing m k with
  | nil => rw [if_neg (by simp)]; rfl
  | cons v r ih =>
    simp only [SMap.putList, ih, List.length_cons]
    by_cases h : k + 1 ≤ j ∧ j < k + 1 + r.length
    · rw [if_pos h, if_pos (by omega)]
      obtain ⟨i, rfl⟩ : ∃ i, j = k + 1 + i := ⟨j - (k + 1), by omega⟩
      have h1 : k + 1 + i - k = i + 1 := by omega
      have h2 : k + 1 + i - (k + 1) = i := by omega
      rw [h1, h2, List.getD_cons_succ]
    · rw [if_neg h, SMap.get_put]
      by_cases hk : j = k
      · subst hk
        rw [if_pos rfl, if_pos (by omega)]
        simp
      · rw [if_neg hk, if_neg (by omega)]

/-! The canonical form. -/

/-- A table is in canonical form exactly when its indices rise strictly and it lists no default. -/
theorem SMap.wf_iff {α : Type} [DecidableEq α] (d : α) (m : SMap α) :
    SMap.wf d m = true ↔ m.Pairwise (fun p q => p.1 < q.1) ∧ ∀ p ∈ m, p.2 ≠ d := by
  have h : ∀ m : SMap α, SMap.sorted m = true ↔ m.Pairwise (fun p q => p.1 < q.1) := by
    intro m
    induction m with
    | nil => simp [SMap.sorted]
    | cons p r ih =>
      cases r with
      | nil => simp [SMap.sorted]
      | cons q r =>
        obtain ⟨a, u⟩ := p
        obtain ⟨b, w⟩ := q
        rw [SMap.sorted, Bool.and_eq_true, ih, decide_eq_true_iff, List.pairwise_cons (a := (a, u))]
        constructor
        · rintro ⟨hab, hr⟩
          refine ⟨fun x hx => ?_, hr⟩
          rcases List.mem_cons.1 hx with rfl | hx
          · exact hab
          · exact Nat.lt_trans hab ((List.pairwise_cons.1 hr).1 x hx)
        · rintro ⟨h1, hr⟩
          exact ⟨h1 (b, w) (by simp), hr⟩
  simp [SMap.wf, h, List.all_eq_true]

theorem SMap.mem_erase {α : Type} (m : SMap α) (k : Nat) (p : Nat × α) : p ∈ SMap.erase m k ↔ p ∈ m ∧ p.1 ≠ k := by
  induction m with
  | nil => simp [SMap.erase]
  | cons q r ih =>
    obtain ⟨j, w⟩ := q
    simp only [SMap.erase]
    split <;> simp only [List.mem_cons, ih] <;> grind

theorem SMap.erase_sublist {α : Type} (m : SMap α) (k : Nat) : (SMap.erase m k).Sublist m := by
  induction m with
  | nil => exact .slnil
  | cons q r ih =>
    obtain ⟨j, w⟩ := q
    simp only [SMap.erase]
    split
    · exact ih.cons _
    · exact ih.cons_cons _

theorem SMap.mem_insert {α : Type} (m : SMap α) (k : Nat) (v : α) (p : Nat × α) (h : p ∈ SMap.insert m k v) :
    p = (k, v) ∨ p ∈ m := by
  induction m with
  | nil => simpa [SMap.insert] using h
  | cons q r ih => grind [SMap.insert]

theorem SMap.pairwise_insert {α : Type} (m : SMap α) (k : Nat) (v : α) (h : m.Pairwise (fun p q => p.1 < q.1)) :
    (SMap.insert m k v).Pairwise (fun p q => p.1 < q.1) := by
  induction m with
  | nil => simp [SMap.insert]
  | cons q r ih =>
    obtain ⟨j, w⟩ := q
    have hr := (List.pairwise_cons.1 h).2
    have h1 := (List.pairwise_cons.1 h).1
    simp only [SMap.insert]
    split
    · rename_i hk
      refine List.pairwise_cons.2 ⟨fun x hx => ?_, h⟩
      rcases List.mem_cons.1 hx with rfl | hx
      · exact hk
      · exact Nat.lt_trans hk (h1 x hx)
    · split
      · rename_i hk
        subst hk
        exact List.pairwise_cons.2 ⟨fun x hx => h1 x hx, hr⟩
      · refine List.pairwise_cons.2 ⟨fun x hx => ?_, ih hr⟩
        rcases SMap.mem_insert r k v x hx with rfl | hx
        · show j < k; omega
        · exact h1 x hx

/-- Writing one entry keeps the canonical form. -/
theorem SMap.wf_put {α : Type} [DecidableEq α] (d : α) (m : SMap α) (k : Nat) (v : α) (h : SMap.wf d m = true) :
    SMap.wf d (SMap.put d m k v) = true := by
  obtain ⟨hs, hd⟩ := (SMap.wf_iff d m).1 h
  rw [SMap.wf_iff]
  unfold SMap.put
  split
  · exact ⟨hs.sublist (SMap.erase_sublist m k), fun p hp => hd p ((SMap.mem_erase m k p).1 hp).1⟩
  · rename_i hv
    refine ⟨SMap.pairwise_insert m k v hs, fun p hp => ?_⟩
    rcases SMap.mem_insert m k v p hp with rfl | hp
    · exact hv
    · exact hd p hp

/-- Writing entries from a list keeps the canonical form. -/
theorem SMap.wf_putList {α : Type} [DecidableEq α] (d : α) (m : SMap α) (k : Nat) (l : List α) (h : SMap.wf d m = true) :
    SMap.wf d (SMap.putList d m k l) = true := by
  induction l generalizing m k with
  | nil => exact h
  | cons v r ih => exact ih _ _ (SMap.wf_put d m k v h)

/-- Applying a function to every listed entry keeps the canonical form. -/
theorem SMap.wf_mapVals {α : Type} [DecidableEq α] (d : α) (m : SMap α) (f : α → α) (h : SMap.wf d m = true) :
    SMap.wf d (SMap.mapVals d m f) = true := by
  obtain ⟨hs, -⟩ := (SMap.wf_iff d m).1 h
  rw [SMap.wf_iff]
  refine ⟨(List.Pairwise.map (fun p : Nat × α => (p.1, f p.2)) (fun _ _ h => h) hs).sublist List.filter_sublist, fun p hp => ?_⟩
  simpa using (List.mem_filter.1 hp).2

theorem SMap.wf_nil {α : Type} [DecidableEq α] (d : α) : SMap.wf d ([] : SMap α) = true := rfl

end Sys2Proof.Machine
end

