-- ==== Sys2Proof/Laws/State.lean ====
section
/-!
SUPPORT. Sys2Proof/Laws/State.lean: for each named update of the state and of a team, what each field and each accessor reads
afterwards, so that no later proof unfolds a record update.
-/
namespace Sys2Proof.Machine

/-! `State.setCore`. -/

@[simp] theorem State.setCore_mem (s : State) (c : Nat) (k : Core) : (s.setCore c k).mem = s.mem := rfl
@[simp] theorem State.setCore_marks (s : State) (c : Nat) (k : Core) : (s.setCore c k).marks = s.marks := rfl
@[simp] theorem State.setCore_teams (s : State) (c : Nat) (k : Core) : (s.setCore c k).teams = s.teams := rfl
@[simp] theorem State.setCore_swapped (s : State) (c : Nat) (k : Core) : (s.setCore c k).swapped = s.swapped := rfl
@[simp] theorem State.setCore_clks (s : State) (c : Nat) (k : Core) : (s.setCore c k).clks = s.clks := rfl
@[simp] theorem State.setCore_queues (s : State) (c : Nat) (k : Core) : (s.setCore c k).queues = s.queues := rfl
@[simp] theorem State.setCore_futures (s : State) (c : Nat) (k : Core) : (s.setCore c k).futures = s.futures := rfl
@[simp] theorem State.setCore_tickets (s : State) (c : Nat) (k : Core) : (s.setCore c k).tickets = s.tickets := rfl
@[simp] theorem State.setCore_stamped (s : State) (c : Nat) (k : Core) : (s.setCore c k).stamped = s.stamped := rfl
@[simp] theorem State.setCore_tasks (s : State) (c : Nat) (k : Core) : (s.setCore c k).tasks = s.tasks := rfl
@[simp] theorem State.setCore_nextTask (s : State) (c : Nat) (k : Core) : (s.setCore c k).nextTask = s.nextTask := rfl
@[simp] theorem State.setCore_sched (s : State) (c : Nat) (k : Core) : (s.setCore c k).sched = s.sched := rfl
@[simp] theorem State.setCore_asids (s : State) (c : Nat) (k : Core) : (s.setCore c k).asids = s.asids := rfl
@[simp] theorem State.setCore_snaps (s : State) (c : Nat) (k : Core) : (s.setCore c k).snaps = s.snaps := rfl
@[simp] theorem State.setCore_slots (s : State) (c : Nat) (k : Core) : (s.setCore c k).slots = s.slots := rfl
@[simp] theorem State.setCore_nextSlot (s : State) (c : Nat) (k : Core) : (s.setCore c k).nextSlot = s.nextSlot := rfl
@[simp] theorem State.setCore_restWork (s : State) (c : Nat) (k : Core) : (s.setCore c k).restWork = s.restWork := rfl
@[simp] theorem State.setCore_codecs (s : State) (c : Nat) (k : Core) : (s.setCore c k).codecs = s.codecs := rfl
@[simp] theorem State.setCore_tlbs (s : State) (c : Nat) (k : Core) : (s.setCore c k).tlbs = s.tlbs := rfl
@[simp] theorem State.setCore_walkers (s : State) (c : Nat) (k : Core) : (s.setCore c k).walkers = s.walkers := rfl
@[simp] theorem State.setCore_fabric (s : State) (c : Nat) (k : Core) : (s.setCore c k).fabric = s.fabric := rfl
@[simp] theorem State.setCore_atomq (s : State) (c : Nat) (k : Core) : (s.setCore c k).atomq = s.atomq := rfl
@[simp] theorem State.setCore_power (s : State) (c : Nat) (k : Core) : (s.setCore c k).power = s.power := rfl
@[simp] theorem State.setCore_host (s : State) (c : Nat) (k : Core) : (s.setCore c k).host = s.host := rfl
@[simp] theorem State.setCore_mgmt (s : State) (c : Nat) (k : Core) : (s.setCore c k).mgmt = s.mgmt := rfl
@[simp] theorem State.setCore_start (s : State) (c : Nat) (k : Core) : (s.setCore c k).start = s.start := rfl
@[simp] theorem State.setCore_hbm (s : State) (c : Nat) (k : Core) : (s.setCore c k).hbm = s.hbm := rfl
@[simp] theorem State.setCore_log (s : State) (c : Nat) (k : Core) : (s.setCore c k).log = s.log := rfl
@[simp] theorem State.setCore_logHeld (s : State) (c : Nat) (k : Core) : (s.setCore c k).logHeld = s.logHeld := rfl
@[simp] theorem State.setCore_logSeq (s : State) (c : Nat) (k : Core) : (s.setCore c k).logSeq = s.logSeq := rfl
@[simp] theorem State.setCore_corrected (s : State) (c : Nat) (k : Core) : (s.setCore c k).corrected = s.corrected := rfl
@[simp] theorem State.setCore_time (s : State) (c : Nat) (k : Core) : (s.setCore c k).time = s.time := rfl
@[simp] theorem State.setCore_sel (s : State) (c : Nat) (k : Core) : (s.setCore c k).sel = s.sel := rfl
@[simp] theorem State.setCore_schedule (s : State) (c : Nat) (k : Core) : (s.setCore c k).schedule = s.schedule := rfl
@[simp] theorem State.setCore_agenda (s : State) (c : Nat) (k : Core) : (s.setCore c k).agenda = s.agenda := rfl
@[simp] theorem State.setCore_free (s : State) (c : Nat) (k : Core) : (s.setCore c k).free = s.free := rfl
@[simp] theorem State.setCore_clk' (s : State) (c : Nat) (k : Core) (j : Nat) : (s.setCore c k).clk j = s.clk j := rfl
@[simp] theorem State.setCore_queue' (s : State) (c : Nat) (k : Core) (j : Nat) : (s.setCore c k).queue j = s.queue j := rfl
@[simp] theorem State.setCore_team' (s : State) (c : Nat) (k : Core) (j : Nat) : (s.setCore c k).team? j = s.team? j := rfl
@[simp] theorem State.setCore_future' (s : State) (c : Nat) (k : Core) (j : Nat) : (s.setCore c k).future j = s.future j := rfl
@[simp] theorem State.setCore_ticket' (s : State) (c : Nat) (k : Core) (j : Nat) : (s.setCore c k).ticket j = s.ticket j := rfl
@[simp] theorem State.setCore_asid' (s : State) (c : Nat) (k : Core) (j : Nat) : (s.setCore c k).asid j = s.asid j := rfl
@[simp] theorem State.setCore_codec' (s : State) (c : Nat) (k : Core) (j : Nat) : (s.setCore c k).codec j = s.codec j := rfl
@[simp] theorem State.setCore_task' (s : State) (c : Nat) (k : Core) (j : Nat) : (s.setCore c k).task? j = s.task? j := rfl

/-! `State.updCore`. -/

@[simp] theorem State.updCore_mem (s : State) (c : Nat) (f : Core → Core) : (s.updCore c f).mem = s.mem := rfl
@[simp] theorem State.updCore_marks (s : State) (c : Nat) (f : Core → Core) : (s.updCore c f).marks = s.marks := rfl
@[simp] theorem State.updCore_teams (s : State) (c : Nat) (f : Core → Core) : (s.updCore c f).teams = s.teams := rfl
@[simp] theorem State.updCore_swapped (s : State) (c : Nat) (f : Core → Core) : (s.updCore c f).swapped = s.swapped := rfl
@[simp] theorem State.updCore_clks (s : State) (c : Nat) (f : Core → Core) : (s.updCore c f).clks = s.clks := rfl
@[simp] theorem State.updCore_queues (s : State) (c : Nat) (f : Core → Core) : (s.updCore c f).queues = s.queues := rfl
@[simp] theorem State.updCore_futures (s : State) (c : Nat) (f : Core → Core) : (s.updCore c f).futures = s.futures := rfl
@[simp] theorem State.updCore_tickets (s : State) (c : Nat) (f : Core → Core) : (s.updCore c f).tickets = s.tickets := rfl
@[simp] theorem State.updCore_stamped (s : State) (c : Nat) (f : Core → Core) : (s.updCore c f).stamped = s.stamped := rfl
@[simp] theorem State.updCore_tasks (s : State) (c : Nat) (f : Core → Core) : (s.updCore c f).tasks = s.tasks := rfl
@[simp] theorem State.updCore_nextTask (s : State) (c : Nat) (f : Core → Core) : (s.updCore c f).nextTask = s.nextTask := rfl
@[simp] theorem State.updCore_sched (s : State) (c : Nat) (f : Core → Core) : (s.updCore c f).sched = s.sched := rfl
@[simp] theorem State.updCore_asids (s : State) (c : Nat) (f : Core → Core) : (s.updCore c f).asids = s.asids := rfl
@[simp] theorem State.updCore_snaps (s : State) (c : Nat) (f : Core → Core) : (s.updCore c f).snaps = s.snaps := rfl
@[simp] theorem State.updCore_slots (s : State) (c : Nat) (f : Core → Core) : (s.updCore c f).slots = s.slots := rfl
@[simp] theorem State.updCore_nextSlot (s : State) (c : Nat) (f : Core → Core) : (s.updCore c f).nextSlot = s.nextSlot := rfl
@[simp] theorem State.updCore_restWork (s : State) (c : Nat) (f : Core → Core) : (s.updCore c f).restWork = s.restWork := rfl
@[simp] theorem State.updCore_codecs (s : State) (c : Nat) (f : Core → Core) : (s.updCore c f).codecs = s.codecs := rfl
@[simp] theorem State.updCore_tlbs (s : State) (c : Nat) (f : Core → Core) : (s.updCore c f).tlbs = s.tlbs := rfl
@[simp] theorem State.updCore_walkers (s : State) (c : Nat) (f : Core → Core) : (s.updCore c f).walkers = s.walkers := rfl
@[simp] theorem State.updCore_fabric (s : State) (c : Nat) (f : Core → Core) : (s.updCore c f).fabric = s.fabric := rfl
@[simp] theorem State.updCore_atomq (s : State) (c : Nat) (f : Core → Core) : (s.updCore c f).atomq = s.atomq := rfl
@[simp] theorem State.updCore_power (s : State) (c : Nat) (f : Core → Core) : (s.updCore c f).power = s.power := rfl
@[simp] theorem State.updCore_host (s : State) (c : Nat) (f : Core → Core) : (s.updCore c f).host = s.host := rfl
@[simp] theorem State.updCore_mgmt (s : State) (c : Nat) (f : Core → Core) : (s.updCore c f).mgmt = s.mgmt := rfl
@[simp] theorem State.updCore_start (s : State) (c : Nat) (f : Core → Core) : (s.updCore c f).start = s.start := rfl
@[simp] theorem State.updCore_hbm (s : State) (c : Nat) (f : Core → Core) : (s.updCore c f).hbm = s.hbm := rfl
@[simp] theorem State.updCore_log (s : State) (c : Nat) (f : Core → Core) : (s.updCore c f).log = s.log := rfl
@[simp] theorem State.updCore_logHeld (s : State) (c : Nat) (f : Core → Core) : (s.updCore c f).logHeld = s.logHeld := rfl
@[simp] theorem State.updCore_logSeq (s : State) (c : Nat) (f : Core → Core) : (s.updCore c f).logSeq = s.logSeq := rfl
@[simp] theorem State.updCore_corrected (s : State) (c : Nat) (f : Core → Core) : (s.updCore c f).corrected = s.corrected := rfl
@[simp] theorem State.updCore_time (s : State) (c : Nat) (f : Core → Core) : (s.updCore c f).time = s.time := rfl
@[simp] theorem State.updCore_sel (s : State) (c : Nat) (f : Core → Core) : (s.updCore c f).sel = s.sel := rfl
@[simp] theorem State.updCore_schedule (s : State) (c : Nat) (f : Core → Core) : (s.updCore c f).schedule = s.schedule := rfl
@[simp] theorem State.updCore_agenda (s : State) (c : Nat) (f : Core → Core) : (s.updCore c f).agenda = s.agenda := rfl
@[simp] theorem State.updCore_free (s : State) (c : Nat) (f : Core → Core) : (s.updCore c f).free = s.free := rfl
@[simp] theorem State.updCore_clk' (s : State) (c : Nat) (f : Core → Core) (j : Nat) : (s.updCore c f).clk j = s.clk j := rfl
@[simp] theorem State.updCore_queue' (s : State) (c : Nat) (f : Core → Core) (j : Nat) : (s.updCore c f).queue j = s.queue j := rfl
@[simp] theorem State.updCore_team' (s : State) (c : Nat) (f : Core → Core) (j : Nat) : (s.updCore c f).team? j = s.team? j := rfl
@[simp] theorem State.updCore_future' (s : State) (c : Nat) (f : Core → Core) (j : Nat) : (s.updCore c f).future j = s.future j := rfl
@[simp] theorem State.updCore_ticket' (s : State) (c : Nat) (f : Core → Core) (j : Nat) : (s.updCore c f).ticket j = s.ticket j := rfl
@[simp] theorem State.updCore_asid' (s : State) (c : Nat) (f : Core → Core) (j : Nat) : (s.updCore c f).asid j = s.asid j := rfl
@[simp] theorem State.updCore_codec' (s : State) (c : Nat) (f : Core → Core) (j : Nat) : (s.updCore c f).codec j = s.codec j := rfl
@[simp] theorem State.updCore_task' (s : State) (c : Nat) (f : Core → Core) (j : Nat) : (s.updCore c f).task? j = s.task? j := rfl

/-! `State.updClk`. -/

@[simp] theorem State.updClk_mem (s : State) (c : Nat) (f : Clk → Clk) : (s.updClk c f).mem = s.mem := rfl
@[simp] theorem State.updClk_marks (s : State) (c : Nat) (f : Clk → Clk) : (s.updClk c f).marks = s.marks := rfl
@[simp] theorem State.updClk_teams (s : State) (c : Nat) (f : Clk → Clk) : (s.updClk c f).teams = s.teams := rfl
@[simp] theorem State.updClk_swapped (s : State) (c : Nat) (f : Clk → Clk) : (s.updClk c f).swapped = s.swapped := rfl
@[simp] theorem State.updClk_cores (s : State) (c : Nat) (f : Clk → Clk) : (s.updClk c f).cores = s.cores := rfl
@[simp] theorem State.updClk_queues (s : State) (c : Nat) (f : Clk → Clk) : (s.updClk c f).queues = s.queues := rfl
@[simp] theorem State.updClk_futures (s : State) (c : Nat) (f : Clk → Clk) : (s.updClk c f).futures = s.futures := rfl
@[simp] theorem State.updClk_tickets (s : State) (c : Nat) (f : Clk → Clk) : (s.updClk c f).tickets = s.tickets := rfl
@[simp] theorem State.updClk_stamped (s : State) (c : Nat) (f : Clk → Clk) : (s.updClk c f).stamped = s.stamped := rfl
@[simp] theorem State.updClk_tasks (s : State) (c : Nat) (f : Clk → Clk) : (s.updClk c f).tasks = s.tasks := rfl
@[simp] theorem State.updClk_nextTask (s : State) (c : Nat) (f : Clk → Clk) : (s.updClk c f).nextTask = s.nextTask := rfl
@[simp] theorem State.updClk_sched (s : State) (c : Nat) (f : Clk → Clk) : (s.updClk c f).sched = s.sched := rfl
@[simp] theorem State.updClk_asids (s : State) (c : Nat) (f : Clk → Clk) : (s.updClk c f).asids = s.asids := rfl
@[simp] theorem State.updClk_snaps (s : State) (c : Nat) (f : Clk → Clk) : (s.updClk c f).snaps = s.snaps := rfl
@[simp] theorem State.updClk_slots (s : State) (c : Nat) (f : Clk → Clk) : (s.updClk c f).slots = s.slots := rfl
@[simp] theorem State.updClk_nextSlot (s : State) (c : Nat) (f : Clk → Clk) : (s.updClk c f).nextSlot = s.nextSlot := rfl
@[simp] theorem State.updClk_restWork (s : State) (c : Nat) (f : Clk → Clk) : (s.updClk c f).restWork = s.restWork := rfl
@[simp] theorem State.updClk_codecs (s : State) (c : Nat) (f : Clk → Clk) : (s.updClk c f).codecs = s.codecs := rfl
@[simp] theorem State.updClk_tlbs (s : State) (c : Nat) (f : Clk → Clk) : (s.updClk c f).tlbs = s.tlbs := rfl
@[simp] theorem State.updClk_walkers (s : State) (c : Nat) (f : Clk → Clk) : (s.updClk c f).walkers = s.walkers := rfl
@[simp] theorem State.updClk_fabric (s : State) (c : Nat) (f : Clk → Clk) : (s.updClk c f).fabric = s.fabric := rfl
@[simp] theorem State.updClk_atomq (s : State) (c : Nat) (f : Clk → Clk) : (s.updClk c f).atomq = s.atomq := rfl
@[simp] theorem State.updClk_power (s : State) (c : Nat) (f : Clk → Clk) : (s.updClk c f).power = s.power := rfl
@[simp] theorem State.updClk_host (s : State) (c : Nat) (f : Clk → Clk) : (s.updClk c f).host = s.host := rfl
@[simp] theorem State.updClk_mgmt (s : State) (c : Nat) (f : Clk → Clk) : (s.updClk c f).mgmt = s.mgmt := rfl
@[simp] theorem State.updClk_start (s : State) (c : Nat) (f : Clk → Clk) : (s.updClk c f).start = s.start := rfl
@[simp] theorem State.updClk_hbm (s : State) (c : Nat) (f : Clk → Clk) : (s.updClk c f).hbm = s.hbm := rfl
@[simp] theorem State.updClk_log (s : State) (c : Nat) (f : Clk → Clk) : (s.updClk c f).log = s.log := rfl
@[simp] theorem State.updClk_logHeld (s : State) (c : Nat) (f : Clk → Clk) : (s.updClk c f).logHeld = s.logHeld := rfl
@[simp] theorem State.updClk_logSeq (s : State) (c : Nat) (f : Clk → Clk) : (s.updClk c f).logSeq = s.logSeq := rfl
@[simp] theorem State.updClk_corrected (s : State) (c : Nat) (f : Clk → Clk) : (s.updClk c f).corrected = s.corrected := rfl
@[simp] theorem State.updClk_time (s : State) (c : Nat) (f : Clk → Clk) : (s.updClk c f).time = s.time := rfl
@[simp] theorem State.updClk_sel (s : State) (c : Nat) (f : Clk → Clk) : (s.updClk c f).sel = s.sel := rfl
@[simp] theorem State.updClk_schedule (s : State) (c : Nat) (f : Clk → Clk) : (s.updClk c f).schedule = s.schedule := rfl
@[simp] theorem State.updClk_agenda (s : State) (c : Nat) (f : Clk → Clk) : (s.updClk c f).agenda = s.agenda := rfl
@[simp] theorem State.updClk_free (s : State) (c : Nat) (f : Clk → Clk) : (s.updClk c f).free = s.free := rfl
@[simp] theorem State.updClk_core' (s : State) (c : Nat) (f : Clk → Clk) (j : Nat) : (s.updClk c f).core j = s.core j := rfl
@[simp] theorem State.updClk_queue' (s : State) (c : Nat) (f : Clk → Clk) (j : Nat) : (s.updClk c f).queue j = s.queue j := rfl
@[simp] theorem State.updClk_team' (s : State) (c : Nat) (f : Clk → Clk) (j : Nat) : (s.updClk c f).team? j = s.team? j := rfl
@[simp] theorem State.updClk_future' (s : State) (c : Nat) (f : Clk → Clk) (j : Nat) : (s.updClk c f).future j = s.future j := rfl
@[simp] theorem State.updClk_ticket' (s : State) (c : Nat) (f : Clk → Clk) (j : Nat) : (s.updClk c f).ticket j = s.ticket j := rfl
@[simp] theorem State.updClk_asid' (s : State) (c : Nat) (f : Clk → Clk) (j : Nat) : (s.updClk c f).asid j = s.asid j := rfl
@[simp] theorem State.updClk_codec' (s : State) (c : Nat) (f : Clk → Clk) (j : Nat) : (s.updClk c f).codec j = s.codec j := rfl
@[simp] theorem State.updClk_task' (s : State) (c : Nat) (f : Clk → Clk) (j : Nat) : (s.updClk c f).task? j = s.task? j := rfl

/-! `State.updQueue`. -/

@[simp] theorem State.updQueue_mem (s : State) (q : Nat) (f : Queue → Queue) : (s.updQueue q f).mem = s.mem := rfl
@[simp] theorem State.updQueue_marks (s : State) (q : Nat) (f : Queue → Queue) : (s.updQueue q f).marks = s.marks := rfl
@[simp] theorem State.updQueue_teams (s : State) (q : Nat) (f : Queue → Queue) : (s.updQueue q f).teams = s.teams := rfl
@[simp] theorem State.updQueue_swapped (s : State) (q : Nat) (f : Queue → Queue) : (s.updQueue q f).swapped = s.swapped := rfl
@[simp] theorem State.updQueue_cores (s : State) (q : Nat) (f : Queue → Queue) : (s.updQueue q f).cores = s.cores := rfl
@[simp] theorem State.updQueue_clks (s : State) (q : Nat) (f : Queue → Queue) : (s.updQueue q f).clks = s.clks := rfl
@[simp] theorem State.updQueue_futures (s : State) (q : Nat) (f : Queue → Queue) : (s.updQueue q f).futures = s.futures := rfl
@[simp] theorem State.updQueue_tickets (s : State) (q : Nat) (f : Queue → Queue) : (s.updQueue q f).tickets = s.tickets := rfl
@[simp] theorem State.updQueue_stamped (s : State) (q : Nat) (f : Queue → Queue) : (s.updQueue q f).stamped = s.stamped := rfl
@[simp] theorem State.updQueue_tasks (s : State) (q : Nat) (f : Queue → Queue) : (s.updQueue q f).tasks = s.tasks := rfl
@[simp] theorem State.updQueue_nextTask (s : State) (q : Nat) (f : Queue → Queue) : (s.updQueue q f).nextTask = s.nextTask := rfl
@[simp] theorem State.updQueue_sched (s : State) (q : Nat) (f : Queue → Queue) : (s.updQueue q f).sched = s.sched := rfl
@[simp] theorem State.updQueue_asids (s : State) (q : Nat) (f : Queue → Queue) : (s.updQueue q f).asids = s.asids := rfl
@[simp] theorem State.updQueue_snaps (s : State) (q : Nat) (f : Queue → Queue) : (s.updQueue q f).snaps = s.snaps := rfl
@[simp] theorem State.updQueue_slots (s : State) (q : Nat) (f : Queue → Queue) : (s.updQueue q f).slots = s.slots := rfl
@[simp] theorem State.updQueue_nextSlot (s : State) (q : Nat) (f : Queue → Queue) : (s.updQueue q f).nextSlot = s.nextSlot := rfl
@[simp] theorem State.updQueue_restWork (s : State) (q : Nat) (f : Queue → Queue) : (s.updQueue q f).restWork = s.restWork := rfl
@[simp] theorem State.updQueue_codecs (s : State) (q : Nat) (f : Queue → Queue) : (s.updQueue q f).codecs = s.codecs := rfl
@[simp] theorem State.updQueue_tlbs (s : State) (q : Nat) (f : Queue → Queue) : (s.updQueue q f).tlbs = s.tlbs := rfl
@[simp] theorem State.updQueue_walkers (s : State) (q : Nat) (f : Queue → Queue) : (s.updQueue q f).walkers = s.walkers := rfl
@[simp] theorem State.updQueue_fabric (s : State) (q : Nat) (f : Queue → Queue) : (s.updQueue q f).fabric = s.fabric := rfl
@[simp] theorem State.updQueue_atomq (s : State) (q : Nat) (f : Queue → Queue) : (s.updQueue q f).atomq = s.atomq := rfl
@[simp] theorem State.updQueue_power (s : State) (q : Nat) (f : Queue → Queue) : (s.updQueue q f).power = s.power := rfl
@[simp] theorem State.updQueue_host (s : State) (q : Nat) (f : Queue → Queue) : (s.updQueue q f).host = s.host := rfl
@[simp] theorem State.updQueue_mgmt (s : State) (q : Nat) (f : Queue → Queue) : (s.updQueue q f).mgmt = s.mgmt := rfl
@[simp] theorem State.updQueue_start (s : State) (q : Nat) (f : Queue → Queue) : (s.updQueue q f).start = s.start := rfl
@[simp] theorem State.updQueue_hbm (s : State) (q : Nat) (f : Queue → Queue) : (s.updQueue q f).hbm = s.hbm := rfl
@[simp] theorem State.updQueue_log (s : State) (q : Nat) (f : Queue → Queue) : (s.updQueue q f).log = s.log := rfl
@[simp] theorem State.updQueue_logHeld (s : State) (q : Nat) (f : Queue → Queue) : (s.updQueue q f).logHeld = s.logHeld := rfl
@[simp] theorem State.updQueue_logSeq (s : State) (q : Nat) (f : Queue → Queue) : (s.updQueue q f).logSeq = s.logSeq := rfl
@[simp] theorem State.updQueue_corrected (s : State) (q : Nat) (f : Queue → Queue) : (s.updQueue q f).corrected = s.corrected := rfl
@[simp] theorem State.updQueue_time (s : State) (q : Nat) (f : Queue → Queue) : (s.updQueue q f).time = s.time := rfl
@[simp] theorem State.updQueue_sel (s : State) (q : Nat) (f : Queue → Queue) : (s.updQueue q f).sel = s.sel := rfl
@[simp] theorem State.updQueue_schedule (s : State) (q : Nat) (f : Queue → Queue) : (s.updQueue q f).schedule = s.schedule := rfl
@[simp] theorem State.updQueue_agenda (s : State) (q : Nat) (f : Queue → Queue) : (s.updQueue q f).agenda = s.agenda := rfl
@[simp] theorem State.updQueue_free (s : State) (q : Nat) (f : Queue → Queue) : (s.updQueue q f).free = s.free := rfl
@[simp] theorem State.updQueue_core' (s : State) (q : Nat) (f : Queue → Queue) (j : Nat) : (s.updQueue q f).core j = s.core j := rfl
@[simp] theorem State.updQueue_clk' (s : State) (q : Nat) (f : Queue → Queue) (j : Nat) : (s.updQueue q f).clk j = s.clk j := rfl
@[simp] theorem State.updQueue_team' (s : State) (q : Nat) (f : Queue → Queue) (j : Nat) : (s.updQueue q f).team? j = s.team? j := rfl
@[simp] theorem State.updQueue_future' (s : State) (q : Nat) (f : Queue → Queue) (j : Nat) : (s.updQueue q f).future j = s.future j := rfl
@[simp] theorem State.updQueue_ticket' (s : State) (q : Nat) (f : Queue → Queue) (j : Nat) : (s.updQueue q f).ticket j = s.ticket j := rfl
@[simp] theorem State.updQueue_asid' (s : State) (q : Nat) (f : Queue → Queue) (j : Nat) : (s.updQueue q f).asid j = s.asid j := rfl
@[simp] theorem State.updQueue_codec' (s : State) (q : Nat) (f : Queue → Queue) (j : Nat) : (s.updQueue q f).codec j = s.codec j := rfl
@[simp] theorem State.updQueue_task' (s : State) (q : Nat) (f : Queue → Queue) (j : Nat) : (s.updQueue q f).task? j = s.task? j := rfl

/-! `State.setTeam`. -/

@[simp] theorem State.setTeam_mem (s : State) (n : Nat) (t : Team) : (s.setTeam n t).mem = s.mem := rfl
@[simp] theorem State.setTeam_marks (s : State) (n : Nat) (t : Team) : (s.setTeam n t).marks = s.marks := rfl
@[simp] theorem State.setTeam_swapped (s : State) (n : Nat) (t : Team) : (s.setTeam n t).swapped = s.swapped := rfl
@[simp] theorem State.setTeam_cores (s : State) (n : Nat) (t : Team) : (s.setTeam n t).cores = s.cores := rfl
@[simp] theorem State.setTeam_clks (s : State) (n : Nat) (t : Team) : (s.setTeam n t).clks = s.clks := rfl
@[simp] theorem State.setTeam_queues (s : State) (n : Nat) (t : Team) : (s.setTeam n t).queues = s.queues := rfl
@[simp] theorem State.setTeam_futures (s : State) (n : Nat) (t : Team) : (s.setTeam n t).futures = s.futures := rfl
@[simp] theorem State.setTeam_tickets (s : State) (n : Nat) (t : Team) : (s.setTeam n t).tickets = s.tickets := rfl
@[simp] theorem State.setTeam_stamped (s : State) (n : Nat) (t : Team) : (s.setTeam n t).stamped = s.stamped := rfl
@[simp] theorem State.setTeam_tasks (s : State) (n : Nat) (t : Team) : (s.setTeam n t).tasks = s.tasks := rfl
@[simp] theorem State.setTeam_nextTask (s : State) (n : Nat) (t : Team) : (s.setTeam n t).nextTask = s.nextTask := rfl
@[simp] theorem State.setTeam_sched (s : State) (n : Nat) (t : Team) : (s.setTeam n t).sched = s.sched := rfl
@[simp] theorem State.setTeam_asids (s : State) (n : Nat) (t : Team) : (s.setTeam n t).asids = s.asids := rfl
@[simp] theorem State.setTeam_snaps (s : State) (n : Nat) (t : Team) : (s.setTeam n t).snaps = s.snaps := rfl
@[simp] theorem State.setTeam_slots (s : State) (n : Nat) (t : Team) : (s.setTeam n t).slots = s.slots := rfl
@[simp] theorem State.setTeam_nextSlot (s : State) (n : Nat) (t : Team) : (s.setTeam n t).nextSlot = s.nextSlot := rfl
@[simp] theorem State.setTeam_restWork (s : State) (n : Nat) (t : Team) : (s.setTeam n t).restWork = s.restWork := rfl
@[simp] theorem State.setTeam_codecs (s : State) (n : Nat) (t : Team) : (s.setTeam n t).codecs = s.codecs := rfl
@[simp] theorem State.setTeam_tlbs (s : State) (n : Nat) (t : Team) : (s.setTeam n t).tlbs = s.tlbs := rfl
@[simp] theorem State.setTeam_walkers (s : State) (n : Nat) (t : Team) : (s.setTeam n t).walkers = s.walkers := rfl
@[simp] theorem State.setTeam_fabric (s : State) (n : Nat) (t : Team) : (s.setTeam n t).fabric = s.fabric := rfl
@[simp] theorem State.setTeam_atomq (s : State) (n : Nat) (t : Team) : (s.setTeam n t).atomq = s.atomq := rfl
@[simp] theorem State.setTeam_power (s : State) (n : Nat) (t : Team) : (s.setTeam n t).power = s.power := rfl
@[simp] theorem State.setTeam_host (s : State) (n : Nat) (t : Team) : (s.setTeam n t).host = s.host := rfl
@[simp] theorem State.setTeam_mgmt (s : State) (n : Nat) (t : Team) : (s.setTeam n t).mgmt = s.mgmt := rfl
@[simp] theorem State.setTeam_start (s : State) (n : Nat) (t : Team) : (s.setTeam n t).start = s.start := rfl
@[simp] theorem State.setTeam_hbm (s : State) (n : Nat) (t : Team) : (s.setTeam n t).hbm = s.hbm := rfl
@[simp] theorem State.setTeam_log (s : State) (n : Nat) (t : Team) : (s.setTeam n t).log = s.log := rfl
@[simp] theorem State.setTeam_logHeld (s : State) (n : Nat) (t : Team) : (s.setTeam n t).logHeld = s.logHeld := rfl
@[simp] theorem State.setTeam_logSeq (s : State) (n : Nat) (t : Team) : (s.setTeam n t).logSeq = s.logSeq := rfl
@[simp] theorem State.setTeam_corrected (s : State) (n : Nat) (t : Team) : (s.setTeam n t).corrected = s.corrected := rfl
@[simp] theorem State.setTeam_time (s : State) (n : Nat) (t : Team) : (s.setTeam n t).time = s.time := rfl
@[simp] theorem State.setTeam_sel (s : State) (n : Nat) (t : Team) : (s.setTeam n t).sel = s.sel := rfl
@[simp] theorem State.setTeam_schedule (s : State) (n : Nat) (t : Team) : (s.setTeam n t).schedule = s.schedule := rfl
@[simp] theorem State.setTeam_agenda (s : State) (n : Nat) (t : Team) : (s.setTeam n t).agenda = s.agenda := rfl
@[simp] theorem State.setTeam_free (s : State) (n : Nat) (t : Team) : (s.setTeam n t).free = s.free := rfl
@[simp] theorem State.setTeam_core' (s : State) (n : Nat) (t : Team) (j : Nat) : (s.setTeam n t).core j = s.core j := rfl
@[simp] theorem State.setTeam_clk' (s : State) (n : Nat) (t : Team) (j : Nat) : (s.setTeam n t).clk j = s.clk j := rfl
@[simp] theorem State.setTeam_queue' (s : State) (n : Nat) (t : Team) (j : Nat) : (s.setTeam n t).queue j = s.queue j := rfl
@[simp] theorem State.setTeam_future' (s : State) (n : Nat) (t : Team) (j : Nat) : (s.setTeam n t).future j = s.future j := rfl
@[simp] theorem State.setTeam_ticket' (s : State) (n : Nat) (t : Team) (j : Nat) : (s.setTeam n t).ticket j = s.ticket j := rfl
@[simp] theorem State.setTeam_asid' (s : State) (n : Nat) (t : Team) (j : Nat) : (s.setTeam n t).asid j = s.asid j := rfl
@[simp] theorem State.setTeam_codec' (s : State) (n : Nat) (t : Team) (j : Nat) : (s.setTeam n t).codec j = s.codec j := rfl
@[simp] theorem State.setTeam_task' (s : State) (n : Nat) (t : Team) (j : Nat) : (s.setTeam n t).task? j = s.task? j := rfl

/-! `State.eraseTeam`. -/

@[simp] theorem State.eraseTeam_mem (s : State) (n : Nat) : (s.eraseTeam n).mem = s.mem := rfl
@[simp] theorem State.eraseTeam_marks (s : State) (n : Nat) : (s.eraseTeam n).marks = s.marks := rfl
@[simp] theorem State.eraseTeam_swapped (s : State) (n : Nat) : (s.eraseTeam n).swapped = s.swapped := rfl
@[simp] theorem State.eraseTeam_cores (s : State) (n : Nat) : (s.eraseTeam n).cores = s.cores := rfl
@[simp] theorem State.eraseTeam_clks (s : State) (n : Nat) : (s.eraseTeam n).clks = s.clks := rfl
@[simp] theorem State.eraseTeam_queues (s : State) (n : Nat) : (s.eraseTeam n).queues = s.queues := rfl
@[simp] theorem State.eraseTeam_futures (s : State) (n : Nat) : (s.eraseTeam n).futures = s.futures := rfl
@[simp] theorem State.eraseTeam_tickets (s : State) (n : Nat) : (s.eraseTeam n).tickets = s.tickets := rfl
@[simp] theorem State.eraseTeam_stamped (s : State) (n : Nat) : (s.eraseTeam n).stamped = s.stamped := rfl
@[simp] theorem State.eraseTeam_tasks (s : State) (n : Nat) : (s.eraseTeam n).tasks = s.tasks := rfl
@[simp] theorem State.eraseTeam_nextTask (s : State) (n : Nat) : (s.eraseTeam n).nextTask = s.nextTask := rfl
@[simp] theorem State.eraseTeam_sched (s : State) (n : Nat) : (s.eraseTeam n).sched = s.sched := rfl
@[simp] theorem State.eraseTeam_asids (s : State) (n : Nat) : (s.eraseTeam n).asids = s.asids := rfl
@[simp] theorem State.eraseTeam_snaps (s : State) (n : Nat) : (s.eraseTeam n).snaps = s.snaps := rfl
@[simp] theorem State.eraseTeam_slots (s : State) (n : Nat) : (s.eraseTeam n).slots = s.slots := rfl
@[simp] theorem State.eraseTeam_nextSlot (s : State) (n : Nat) : (s.eraseTeam n).nextSlot = s.nextSlot := rfl
@[simp] theorem State.eraseTeam_restWork (s : State) (n : Nat) : (s.eraseTeam n).restWork = s.restWork := rfl
@[simp] theorem State.eraseTeam_codecs (s : State) (n : Nat) : (s.eraseTeam n).codecs = s.codecs := rfl
@[simp] theorem State.eraseTeam_tlbs (s : State) (n : Nat) : (s.eraseTeam n).tlbs = s.tlbs := rfl
@[simp] theorem State.eraseTeam_walkers (s : State) (n : Nat) : (s.eraseTeam n).walkers = s.walkers := rfl
@[simp] theorem State.eraseTeam_fabric (s : State) (n : Nat) : (s.eraseTeam n).fabric = s.fabric := rfl
@[simp] theorem State.eraseTeam_atomq (s : State) (n : Nat) : (s.eraseTeam n).atomq = s.atomq := rfl
@[simp] theorem State.eraseTeam_power (s : State) (n : Nat) : (s.eraseTeam n).power = s.power := rfl
@[simp] theorem State.eraseTeam_host (s : State) (n : Nat) : (s.eraseTeam n).host = s.host := rfl
@[simp] theorem State.eraseTeam_mgmt (s : State) (n : Nat) : (s.eraseTeam n).mgmt = s.mgmt := rfl
@[simp] theorem State.eraseTeam_start (s : State) (n : Nat) : (s.eraseTeam n).start = s.start := rfl
@[simp] theorem State.eraseTeam_hbm (s : State) (n : Nat) : (s.eraseTeam n).hbm = s.hbm := rfl
@[simp] theorem State.eraseTeam_log (s : State) (n : Nat) : (s.eraseTeam n).log = s.log := rfl
@[simp] theorem State.eraseTeam_logHeld (s : State) (n : Nat) : (s.eraseTeam n).logHeld = s.logHeld := rfl
@[simp] theorem State.eraseTeam_logSeq (s : State) (n : Nat) : (s.eraseTeam n).logSeq = s.logSeq := rfl
@[simp] theorem State.eraseTeam_corrected (s : State) (n : Nat) : (s.eraseTeam n).corrected = s.corrected := rfl
@[simp] theorem State.eraseTeam_time (s : State) (n : Nat) : (s.eraseTeam n).time = s.time := rfl
@[simp] theorem State.eraseTeam_sel (s : State) (n : Nat) : (s.eraseTeam n).sel = s.sel := rfl
@[simp] theorem State.eraseTeam_schedule (s : State) (n : Nat) : (s.eraseTeam n).schedule = s.schedule := rfl
@[simp] theorem State.eraseTeam_agenda (s : State) (n : Nat) : (s.eraseTeam n).agenda = s.agenda := rfl
@[simp] theorem State.eraseTeam_free (s : State) (n : Nat) : (s.eraseTeam n).free = s.free := rfl
@[simp] theorem State.eraseTeam_core' (s : State) (n : Nat) (j : Nat) : (s.eraseTeam n).core j = s.core j := rfl
@[simp] theorem State.eraseTeam_clk' (s : State) (n : Nat) (j : Nat) : (s.eraseTeam n).clk j = s.clk j := rfl
@[simp] theorem State.eraseTeam_queue' (s : State) (n : Nat) (j : Nat) : (s.eraseTeam n).queue j = s.queue j := rfl
@[simp] theorem State.eraseTeam_future' (s : State) (n : Nat) (j : Nat) : (s.eraseTeam n).future j = s.future j := rfl
@[simp] theorem State.eraseTeam_ticket' (s : State) (n : Nat) (j : Nat) : (s.eraseTeam n).ticket j = s.ticket j := rfl
@[simp] theorem State.eraseTeam_asid' (s : State) (n : Nat) (j : Nat) : (s.eraseTeam n).asid j = s.asid j := rfl
@[simp] theorem State.eraseTeam_codec' (s : State) (n : Nat) (j : Nat) : (s.eraseTeam n).codec j = s.codec j := rfl
@[simp] theorem State.eraseTeam_task' (s : State) (n : Nat) (j : Nat) : (s.eraseTeam n).task? j = s.task? j := rfl

/-! `State.updTask`. -/

@[simp] theorem State.updTask_mem (s : State) (k : Nat) (f : Task → Task) : (s.updTask k f).mem = s.mem := rfl
@[simp] theorem State.updTask_marks (s : State) (k : Nat) (f : Task → Task) : (s.updTask k f).marks = s.marks := rfl
@[simp] theorem State.updTask_teams (s : State) (k : Nat) (f : Task → Task) : (s.updTask k f).teams = s.teams := rfl
@[simp] theorem State.updTask_swapped (s : State) (k : Nat) (f : Task → Task) : (s.updTask k f).swapped = s.swapped := rfl
@[simp] theorem State.updTask_cores (s : State) (k : Nat) (f : Task → Task) : (s.updTask k f).cores = s.cores := rfl
@[simp] theorem State.updTask_clks (s : State) (k : Nat) (f : Task → Task) : (s.updTask k f).clks = s.clks := rfl
@[simp] theorem State.updTask_queues (s : State) (k : Nat) (f : Task → Task) : (s.updTask k f).queues = s.queues := rfl
@[simp] theorem State.updTask_futures (s : State) (k : Nat) (f : Task → Task) : (s.updTask k f).futures = s.futures := rfl
@[simp] theorem State.updTask_tickets (s : State) (k : Nat) (f : Task → Task) : (s.updTask k f).tickets = s.tickets := rfl
@[simp] theorem State.updTask_stamped (s : State) (k : Nat) (f : Task → Task) : (s.updTask k f).stamped = s.stamped := rfl
@[simp] theorem State.updTask_nextTask (s : State) (k : Nat) (f : Task → Task) : (s.updTask k f).nextTask = s.nextTask := rfl
@[simp] theorem State.updTask_sched (s : State) (k : Nat) (f : Task → Task) : (s.updTask k f).sched = s.sched := rfl
@[simp] theorem State.updTask_asids (s : State) (k : Nat) (f : Task → Task) : (s.updTask k f).asids = s.asids := rfl
@[simp] theorem State.updTask_snaps (s : State) (k : Nat) (f : Task → Task) : (s.updTask k f).snaps = s.snaps := rfl
@[simp] theorem State.updTask_slots (s : State) (k : Nat) (f : Task → Task) : (s.updTask k f).slots = s.slots := rfl
@[simp] theorem State.updTask_nextSlot (s : State) (k : Nat) (f : Task → Task) : (s.updTask k f).nextSlot = s.nextSlot := rfl
@[simp] theorem State.updTask_restWork (s : State) (k : Nat) (f : Task → Task) : (s.updTask k f).restWork = s.restWork := rfl
@[simp] theorem State.updTask_codecs (s : State) (k : Nat) (f : Task → Task) : (s.updTask k f).codecs = s.codecs := rfl
@[simp] theorem State.updTask_tlbs (s : State) (k : Nat) (f : Task → Task) : (s.updTask k f).tlbs = s.tlbs := rfl
@[simp] theorem State.updTask_walkers (s : State) (k : Nat) (f : Task → Task) : (s.updTask k f).walkers = s.walkers := rfl
@[simp] theorem State.updTask_fabric (s : State) (k : Nat) (f : Task → Task) : (s.updTask k f).fabric = s.fabric := rfl
@[simp] theorem State.updTask_atomq (s : State) (k : Nat) (f : Task → Task) : (s.updTask k f).atomq = s.atomq := rfl
@[simp] theorem State.updTask_power (s : State) (k : Nat) (f : Task → Task) : (s.updTask k f).power = s.power := rfl
@[simp] theorem State.updTask_host (s : State) (k : Nat) (f : Task → Task) : (s.updTask k f).host = s.host := rfl
@[simp] theorem State.updTask_mgmt (s : State) (k : Nat) (f : Task → Task) : (s.updTask k f).mgmt = s.mgmt := rfl
@[simp] theorem State.updTask_start (s : State) (k : Nat) (f : Task → Task) : (s.updTask k f).start = s.start := rfl
@[simp] theorem State.updTask_hbm (s : State) (k : Nat) (f : Task → Task) : (s.updTask k f).hbm = s.hbm := rfl
@[simp] theorem State.updTask_log (s : State) (k : Nat) (f : Task → Task) : (s.updTask k f).log = s.log := rfl
@[simp] theorem State.updTask_logHeld (s : State) (k : Nat) (f : Task → Task) : (s.updTask k f).logHeld = s.logHeld := rfl
@[simp] theorem State.updTask_logSeq (s : State) (k : Nat) (f : Task → Task) : (s.updTask k f).logSeq = s.logSeq := rfl
@[simp] theorem State.updTask_corrected (s : State) (k : Nat) (f : Task → Task) : (s.updTask k f).corrected = s.corrected := rfl
@[simp] theorem State.updTask_time (s : State) (k : Nat) (f : Task → Task) : (s.updTask k f).time = s.time := rfl
@[simp] theorem State.updTask_sel (s : State) (k : Nat) (f : Task → Task) : (s.updTask k f).sel = s.sel := rfl
@[simp] theorem State.updTask_schedule (s : State) (k : Nat) (f : Task → Task) : (s.updTask k f).schedule = s.schedule := rfl
@[simp] theorem State.updTask_agenda (s : State) (k : Nat) (f : Task → Task) : (s.updTask k f).agenda = s.agenda := rfl
@[simp] theorem State.updTask_free (s : State) (k : Nat) (f : Task → Task) : (s.updTask k f).free = s.free := rfl
@[simp] theorem State.updTask_core' (s : State) (k : Nat) (f : Task → Task) (j : Nat) : (s.updTask k f).core j = s.core j := rfl
@[simp] theorem State.updTask_clk' (s : State) (k : Nat) (f : Task → Task) (j : Nat) : (s.updTask k f).clk j = s.clk j := rfl
@[simp] theorem State.updTask_queue' (s : State) (k : Nat) (f : Task → Task) (j : Nat) : (s.updTask k f).queue j = s.queue j := rfl
@[simp] theorem State.updTask_team' (s : State) (k : Nat) (f : Task → Task) (j : Nat) : (s.updTask k f).team? j = s.team? j := rfl
@[simp] theorem State.updTask_future' (s : State) (k : Nat) (f : Task → Task) (j : Nat) : (s.updTask k f).future j = s.future j := rfl
@[simp] theorem State.updTask_ticket' (s : State) (k : Nat) (f : Task → Task) (j : Nat) : (s.updTask k f).ticket j = s.ticket j := rfl
@[simp] theorem State.updTask_asid' (s : State) (k : Nat) (f : Task → Task) (j : Nat) : (s.updTask k f).asid j = s.asid j := rfl
@[simp] theorem State.updTask_codec' (s : State) (k : Nat) (f : Task → Task) (j : Nat) : (s.updTask k f).codec j = s.codec j := rfl

/-! `State.setSnap`. -/

@[simp] theorem State.setSnap_mem (s : State) (a r : Nat) (v : SnapRegion) : (s.setSnap a r v).mem = s.mem := rfl
@[simp] theorem State.setSnap_marks (s : State) (a r : Nat) (v : SnapRegion) : (s.setSnap a r v).marks = s.marks := rfl
@[simp] theorem State.setSnap_teams (s : State) (a r : Nat) (v : SnapRegion) : (s.setSnap a r v).teams = s.teams := rfl
@[simp] theorem State.setSnap_swapped (s : State) (a r : Nat) (v : SnapRegion) : (s.setSnap a r v).swapped = s.swapped := rfl
@[simp] theorem State.setSnap_cores (s : State) (a r : Nat) (v : SnapRegion) : (s.setSnap a r v).cores = s.cores := rfl
@[simp] theorem State.setSnap_clks (s : State) (a r : Nat) (v : SnapRegion) : (s.setSnap a r v).clks = s.clks := rfl
@[simp] theorem State.setSnap_queues (s : State) (a r : Nat) (v : SnapRegion) : (s.setSnap a r v).queues = s.queues := rfl
@[simp] theorem State.setSnap_futures (s : State) (a r : Nat) (v : SnapRegion) : (s.setSnap a r v).futures = s.futures := rfl
@[simp] theorem State.setSnap_tickets (s : State) (a r : Nat) (v : SnapRegion) : (s.setSnap a r v).tickets = s.tickets := rfl
@[simp] theorem State.setSnap_stamped (s : State) (a r : Nat) (v : SnapRegion) : (s.setSnap a r v).stamped = s.stamped := rfl
@[simp] theorem State.setSnap_tasks (s : State) (a r : Nat) (v : SnapRegion) : (s.setSnap a r v).tasks = s.tasks := rfl
@[simp] theorem State.setSnap_nextTask (s : State) (a r : Nat) (v : SnapRegion) : (s.setSnap a r v).nextTask = s.nextTask := rfl
@[simp] theorem State.setSnap_sched (s : State) (a r : Nat) (v : SnapRegion) : (s.setSnap a r v).sched = s.sched := rfl
@[simp] theorem State.setSnap_asids (s : State) (a r : Nat) (v : SnapRegion) : (s.setSnap a r v).asids = s.asids := rfl
@[simp] theorem State.setSnap_slots (s : State) (a r : Nat) (v : SnapRegion) : (s.setSnap a r v).slots = s.slots := rfl
@[simp] theorem State.setSnap_nextSlot (s : State) (a r : Nat) (v : SnapRegion) : (s.setSnap a r v).nextSlot = s.nextSlot := rfl
@[simp] theorem State.setSnap_restWork (s : State) (a r : Nat) (v : SnapRegion) : (s.setSnap a r v).restWork = s.restWork := rfl
@[simp] theorem State.setSnap_codecs (s : State) (a r : Nat) (v : SnapRegion) : (s.setSnap a r v).codecs = s.codecs := rfl
@[simp] theorem State.setSnap_tlbs (s : State) (a r : Nat) (v : SnapRegion) : (s.setSnap a r v).tlbs = s.tlbs := rfl
@[simp] theorem State.setSnap_walkers (s : State) (a r : Nat) (v : SnapRegion) : (s.setSnap a r v).walkers = s.walkers := rfl
@[simp] theorem State.setSnap_fabric (s : State) (a r : Nat) (v : SnapRegion) : (s.setSnap a r v).fabric = s.fabric := rfl
@[simp] theorem State.setSnap_atomq (s : State) (a r : Nat) (v : SnapRegion) : (s.setSnap a r v).atomq = s.atomq := rfl
@[simp] theorem State.setSnap_power (s : State) (a r : Nat) (v : SnapRegion) : (s.setSnap a r v).power = s.power := rfl
@[simp] theorem State.setSnap_host (s : State) (a r : Nat) (v : SnapRegion) : (s.setSnap a r v).host = s.host := rfl
@[simp] theorem State.setSnap_mgmt (s : State) (a r : Nat) (v : SnapRegion) : (s.setSnap a r v).mgmt = s.mgmt := rfl
@[simp] theorem State.setSnap_start (s : State) (a r : Nat) (v : SnapRegion) : (s.setSnap a r v).start = s.start := rfl
@[simp] theorem State.setSnap_hbm (s : State) (a r : Nat) (v : SnapRegion) : (s.setSnap a r v).hbm = s.hbm := rfl
@[simp] theorem State.setSnap_log (s : State) (a r : Nat) (v : SnapRegion) : (s.setSnap a r v).log = s.log := rfl
@[simp] theorem State.setSnap_logHeld (s : State) (a r : Nat) (v : SnapRegion) : (s.setSnap a r v).logHeld = s.logHeld := rfl
@[simp] theorem State.setSnap_logSeq (s : State) (a r : Nat) (v : SnapRegion) : (s.setSnap a r v).logSeq = s.logSeq := rfl
@[simp] theorem State.setSnap_corrected (s : State) (a r : Nat) (v : SnapRegion) : (s.setSnap a r v).corrected = s.corrected := rfl
@[simp] theorem State.setSnap_time (s : State) (a r : Nat) (v : SnapRegion) : (s.setSnap a r v).time = s.time := rfl
@[simp] theorem State.setSnap_sel (s : State) (a r : Nat) (v : SnapRegion) : (s.setSnap a r v).sel = s.sel := rfl
@[simp] theorem State.setSnap_schedule (s : State) (a r : Nat) (v : SnapRegion) : (s.setSnap a r v).schedule = s.schedule := rfl
@[simp] theorem State.setSnap_agenda (s : State) (a r : Nat) (v : SnapRegion) : (s.setSnap a r v).agenda = s.agenda := rfl
@[simp] theorem State.setSnap_free (s : State) (a r : Nat) (v : SnapRegion) : (s.setSnap a r v).free = s.free := rfl
@[simp] theorem State.setSnap_core' (s : State) (a r : Nat) (v : SnapRegion) (j : Nat) : (s.setSnap a r v).core j = s.core j := rfl
@[simp] theorem State.setSnap_clk' (s : State) (a r : Nat) (v : SnapRegion) (j : Nat) : (s.setSnap a r v).clk j = s.clk j := rfl
@[simp] theorem State.setSnap_queue' (s : State) (a r : Nat) (v : SnapRegion) (j : Nat) : (s.setSnap a r v).queue j = s.queue j := rfl
@[simp] theorem State.setSnap_team' (s : State) (a r : Nat) (v : SnapRegion) (j : Nat) : (s.setSnap a r v).team? j = s.team? j := rfl
@[simp] theorem State.setSnap_future' (s : State) (a r : Nat) (v : SnapRegion) (j : Nat) : (s.setSnap a r v).future j = s.future j := rfl
@[simp] theorem State.setSnap_ticket' (s : State) (a r : Nat) (v : SnapRegion) (j : Nat) : (s.setSnap a r v).ticket j = s.ticket j := rfl
@[simp] theorem State.setSnap_asid' (s : State) (a r : Nat) (v : SnapRegion) (j : Nat) : (s.setSnap a r v).asid j = s.asid j := rfl
@[simp] theorem State.setSnap_codec' (s : State) (a r : Nat) (v : SnapRegion) (j : Nat) : (s.setSnap a r v).codec j = s.codec j := rfl
@[simp] theorem State.setSnap_task' (s : State) (a r : Nat) (v : SnapRegion) (j : Nat) : (s.setSnap a r v).task? j = s.task? j := rfl

/-! `State.raiseMsix`. -/

@[simp] theorem State.raiseMsix_mem (s : State) (v : Nat) : (s.raiseMsix v).mem = s.mem := rfl
@[simp] theorem State.raiseMsix_marks (s : State) (v : Nat) : (s.raiseMsix v).marks = s.marks := rfl
@[simp] theorem State.raiseMsix_teams (s : State) (v : Nat) : (s.raiseMsix v).teams = s.teams := rfl
@[simp] theorem State.raiseMsix_swapped (s : State) (v : Nat) : (s.raiseMsix v).swapped = s.swapped := rfl
@[simp] theorem State.raiseMsix_cores (s : State) (v : Nat) : (s.raiseMsix v).cores = s.cores := rfl
@[simp] theorem State.raiseMsix_clks (s : State) (v : Nat) : (s.raiseMsix v).clks = s.clks := rfl
@[simp] theorem State.raiseMsix_queues (s : State) (v : Nat) : (s.raiseMsix v).queues = s.queues := rfl
@[simp] theorem State.raiseMsix_futures (s : State) (v : Nat) : (s.raiseMsix v).futures = s.futures := rfl
@[simp] theorem State.raiseMsix_tickets (s : State) (v : Nat) : (s.raiseMsix v).tickets = s.tickets := rfl
@[simp] theorem State.raiseMsix_stamped (s : State) (v : Nat) : (s.raiseMsix v).stamped = s.stamped := rfl
@[simp] theorem State.raiseMsix_tasks (s : State) (v : Nat) : (s.raiseMsix v).tasks = s.tasks := rfl
@[simp] theorem State.raiseMsix_nextTask (s : State) (v : Nat) : (s.raiseMsix v).nextTask = s.nextTask := rfl
@[simp] theorem State.raiseMsix_sched (s : State) (v : Nat) : (s.raiseMsix v).sched = s.sched := rfl
@[simp] theorem State.raiseMsix_asids (s : State) (v : Nat) : (s.raiseMsix v).asids = s.asids := rfl
@[simp] theorem State.raiseMsix_snaps (s : State) (v : Nat) : (s.raiseMsix v).snaps = s.snaps := rfl
@[simp] theorem State.raiseMsix_slots (s : State) (v : Nat) : (s.raiseMsix v).slots = s.slots := rfl
@[simp] theorem State.raiseMsix_nextSlot (s : State) (v : Nat) : (s.raiseMsix v).nextSlot = s.nextSlot := rfl
@[simp] theorem State.raiseMsix_restWork (s : State) (v : Nat) : (s.raiseMsix v).restWork = s.restWork := rfl
@[simp] theorem State.raiseMsix_codecs (s : State) (v : Nat) : (s.raiseMsix v).codecs = s.codecs := rfl
@[simp] theorem State.raiseMsix_tlbs (s : State) (v : Nat) : (s.raiseMsix v).tlbs = s.tlbs := rfl
@[simp] theorem State.raiseMsix_walkers (s : State) (v : Nat) : (s.raiseMsix v).walkers = s.walkers := rfl
@[simp] theorem State.raiseMsix_fabric (s : State) (v : Nat) : (s.raiseMsix v).fabric = s.fabric := rfl
@[simp] theorem State.raiseMsix_atomq (s : State) (v : Nat) : (s.raiseMsix v).atomq = s.atomq := rfl
@[simp] theorem State.raiseMsix_power (s : State) (v : Nat) : (s.raiseMsix v).power = s.power := rfl
@[simp] theorem State.raiseMsix_mgmt (s : State) (v : Nat) : (s.raiseMsix v).mgmt = s.mgmt := rfl
@[simp] theorem State.raiseMsix_start (s : State) (v : Nat) : (s.raiseMsix v).start = s.start := rfl
@[simp] theorem State.raiseMsix_hbm (s : State) (v : Nat) : (s.raiseMsix v).hbm = s.hbm := rfl
@[simp] theorem State.raiseMsix_log (s : State) (v : Nat) : (s.raiseMsix v).log = s.log := rfl
@[simp] theorem State.raiseMsix_logHeld (s : State) (v : Nat) : (s.raiseMsix v).logHeld = s.logHeld := rfl
@[simp] theorem State.raiseMsix_logSeq (s : State) (v : Nat) : (s.raiseMsix v).logSeq = s.logSeq := rfl
@[simp] theorem State.raiseMsix_corrected (s : State) (v : Nat) : (s.raiseMsix v).corrected = s.corrected := rfl
@[simp] theorem State.raiseMsix_time (s : State) (v : Nat) : (s.raiseMsix v).time = s.time := rfl
@[simp] theorem State.raiseMsix_sel (s : State) (v : Nat) : (s.raiseMsix v).sel = s.sel := rfl
@[simp] theorem State.raiseMsix_schedule (s : State) (v : Nat) : (s.raiseMsix v).schedule = s.schedule := rfl
@[simp] theorem State.raiseMsix_agenda (s : State) (v : Nat) : (s.raiseMsix v).agenda = s.agenda := rfl
@[simp] theorem State.raiseMsix_free (s : State) (v : Nat) : (s.raiseMsix v).free = s.free := rfl
@[simp] theorem State.raiseMsix_core' (s : State) (v : Nat) (j : Nat) : (s.raiseMsix v).core j = s.core j := rfl
@[simp] theorem State.raiseMsix_clk' (s : State) (v : Nat) (j : Nat) : (s.raiseMsix v).clk j = s.clk j := rfl
@[simp] theorem State.raiseMsix_queue' (s : State) (v : Nat) (j : Nat) : (s.raiseMsix v).queue j = s.queue j := rfl
@[simp] theorem State.raiseMsix_team' (s : State) (v : Nat) (j : Nat) : (s.raiseMsix v).team? j = s.team? j := rfl
@[simp] theorem State.raiseMsix_future' (s : State) (v : Nat) (j : Nat) : (s.raiseMsix v).future j = s.future j := rfl
@[simp] theorem State.raiseMsix_ticket' (s : State) (v : Nat) (j : Nat) : (s.raiseMsix v).ticket j = s.ticket j := rfl
@[simp] theorem State.raiseMsix_asid' (s : State) (v : Nat) (j : Nat) : (s.raiseMsix v).asid j = s.asid j := rfl
@[simp] theorem State.raiseMsix_codec' (s : State) (v : Nat) (j : Nat) : (s.raiseMsix v).codec j = s.codec j := rfl
@[simp] theorem State.raiseMsix_task' (s : State) (v : Nat) (j : Nat) : (s.raiseMsix v).task? j = s.task? j := rfl

/-! `State.sendWrite`. -/

@[simp] theorem State.sendWrite_mem (s : State) (w : PWrite) : (s.sendWrite w).mem = s.mem := rfl
@[simp] theorem State.sendWrite_marks (s : State) (w : PWrite) : (s.sendWrite w).marks = s.marks := rfl
@[simp] theorem State.sendWrite_teams (s : State) (w : PWrite) : (s.sendWrite w).teams = s.teams := rfl
@[simp] theorem State.sendWrite_swapped (s : State) (w : PWrite) : (s.sendWrite w).swapped = s.swapped := rfl
@[simp] theorem State.sendWrite_cores (s : State) (w : PWrite) : (s.sendWrite w).cores = s.cores := rfl
@[simp] theorem State.sendWrite_clks (s : State) (w : PWrite) : (s.sendWrite w).clks = s.clks := rfl
@[simp] theorem State.sendWrite_queues (s : State) (w : PWrite) : (s.sendWrite w).queues = s.queues := rfl
@[simp] theorem State.sendWrite_futures (s : State) (w : PWrite) : (s.sendWrite w).futures = s.futures := rfl
@[simp] theorem State.sendWrite_tickets (s : State) (w : PWrite) : (s.sendWrite w).tickets = s.tickets := rfl
@[simp] theorem State.sendWrite_stamped (s : State) (w : PWrite) : (s.sendWrite w).stamped = s.stamped := rfl
@[simp] theorem State.sendWrite_tasks (s : State) (w : PWrite) : (s.sendWrite w).tasks = s.tasks := rfl
@[simp] theorem State.sendWrite_nextTask (s : State) (w : PWrite) : (s.sendWrite w).nextTask = s.nextTask := rfl
@[simp] theorem State.sendWrite_sched (s : State) (w : PWrite) : (s.sendWrite w).sched = s.sched := rfl
@[simp] theorem State.sendWrite_asids (s : State) (w : PWrite) : (s.sendWrite w).asids = s.asids := rfl
@[simp] theorem State.sendWrite_snaps (s : State) (w : PWrite) : (s.sendWrite w).snaps = s.snaps := rfl
@[simp] theorem State.sendWrite_slots (s : State) (w : PWrite) : (s.sendWrite w).slots = s.slots := rfl
@[simp] theorem State.sendWrite_nextSlot (s : State) (w : PWrite) : (s.sendWrite w).nextSlot = s.nextSlot := rfl
@[simp] theorem State.sendWrite_restWork (s : State) (w : PWrite) : (s.sendWrite w).restWork = s.restWork := rfl
@[simp] theorem State.sendWrite_codecs (s : State) (w : PWrite) : (s.sendWrite w).codecs = s.codecs := rfl
@[simp] theorem State.sendWrite_tlbs (s : State) (w : PWrite) : (s.sendWrite w).tlbs = s.tlbs := rfl
@[simp] theorem State.sendWrite_walkers (s : State) (w : PWrite) : (s.sendWrite w).walkers = s.walkers := rfl
@[simp] theorem State.sendWrite_atomq (s : State) (w : PWrite) : (s.sendWrite w).atomq = s.atomq := rfl
@[simp] theorem State.sendWrite_power (s : State) (w : PWrite) : (s.sendWrite w).power = s.power := rfl
@[simp] theorem State.sendWrite_host (s : State) (w : PWrite) : (s.sendWrite w).host = s.host := rfl
@[simp] theorem State.sendWrite_mgmt (s : State) (w : PWrite) : (s.sendWrite w).mgmt = s.mgmt := rfl
@[simp] theorem State.sendWrite_start (s : State) (w : PWrite) : (s.sendWrite w).start = s.start := rfl
@[simp] theorem State.sendWrite_hbm (s : State) (w : PWrite) : (s.sendWrite w).hbm = s.hbm := rfl
@[simp] theorem State.sendWrite_log (s : State) (w : PWrite) : (s.sendWrite w).log = s.log := rfl
@[simp] theorem State.sendWrite_logHeld (s : State) (w : PWrite) : (s.sendWrite w).logHeld = s.logHeld := rfl
@[simp] theorem State.sendWrite_logSeq (s : State) (w : PWrite) : (s.sendWrite w).logSeq = s.logSeq := rfl
@[simp] theorem State.sendWrite_corrected (s : State) (w : PWrite) : (s.sendWrite w).corrected = s.corrected := rfl
@[simp] theorem State.sendWrite_time (s : State) (w : PWrite) : (s.sendWrite w).time = s.time := rfl
@[simp] theorem State.sendWrite_sel (s : State) (w : PWrite) : (s.sendWrite w).sel = s.sel := rfl
@[simp] theorem State.sendWrite_schedule (s : State) (w : PWrite) : (s.sendWrite w).schedule = s.schedule := rfl
@[simp] theorem State.sendWrite_agenda (s : State) (w : PWrite) : (s.sendWrite w).agenda = s.agenda := rfl
@[simp] theorem State.sendWrite_free (s : State) (w : PWrite) : (s.sendWrite w).free = s.free := rfl
@[simp] theorem State.sendWrite_core' (s : State) (w : PWrite) (j : Nat) : (s.sendWrite w).core j = s.core j := rfl
@[simp] theorem State.sendWrite_clk' (s : State) (w : PWrite) (j : Nat) : (s.sendWrite w).clk j = s.clk j := rfl
@[simp] theorem State.sendWrite_queue' (s : State) (w : PWrite) (j : Nat) : (s.sendWrite w).queue j = s.queue j := rfl
@[simp] theorem State.sendWrite_team' (s : State) (w : PWrite) (j : Nat) : (s.sendWrite w).team? j = s.team? j := rfl
@[simp] theorem State.sendWrite_future' (s : State) (w : PWrite) (j : Nat) : (s.sendWrite w).future j = s.future j := rfl
@[simp] theorem State.sendWrite_ticket' (s : State) (w : PWrite) (j : Nat) : (s.sendWrite w).ticket j = s.ticket j := rfl
@[simp] theorem State.sendWrite_asid' (s : State) (w : PWrite) (j : Nat) : (s.sendWrite w).asid j = s.asid j := rfl
@[simp] theorem State.sendWrite_codec' (s : State) (w : PWrite) (j : Nat) : (s.sendWrite w).codec j = s.codec j := rfl
@[simp] theorem State.sendWrite_task' (s : State) (w : PWrite) (j : Nat) : (s.sendWrite w).task? j = s.task? j := rfl

/-! `State.performBytes`. -/

@[simp] theorem State.performBytes_teams (s : State) (pa : Nat) (bs : List Byte) (b : Bool) : (s.performBytes pa bs b).teams = s.teams := rfl
@[simp] theorem State.performBytes_swapped (s : State) (pa : Nat) (bs : List Byte) (b : Bool) : (s.performBytes pa bs b).swapped = s.swapped := rfl
@[simp] theorem State.performBytes_cores (s : State) (pa : Nat) (bs : List Byte) (b : Bool) : (s.performBytes pa bs b).cores = s.cores := rfl
@[simp] theorem State.performBytes_clks (s : State) (pa : Nat) (bs : List Byte) (b : Bool) : (s.performBytes pa bs b).clks = s.clks := rfl
@[simp] theorem State.performBytes_futures (s : State) (pa : Nat) (bs : List Byte) (b : Bool) : (s.performBytes pa bs b).futures = s.futures := rfl
@[simp] theorem State.performBytes_tickets (s : State) (pa : Nat) (bs : List Byte) (b : Bool) : (s.performBytes pa bs b).tickets = s.tickets := rfl
@[simp] theorem State.performBytes_tasks (s : State) (pa : Nat) (bs : List Byte) (b : Bool) : (s.performBytes pa bs b).tasks = s.tasks := rfl
@[simp] theorem State.performBytes_nextTask (s : State) (pa : Nat) (bs : List Byte) (b : Bool) : (s.performBytes pa bs b).nextTask = s.nextTask := rfl
@[simp] theorem State.performBytes_sched (s : State) (pa : Nat) (bs : List Byte) (b : Bool) : (s.performBytes pa bs b).sched = s.sched := rfl
@[simp] theorem State.performBytes_asids (s : State) (pa : Nat) (bs : List Byte) (b : Bool) : (s.performBytes pa bs b).asids = s.asids := rfl
@[simp] theorem State.performBytes_snaps (s : State) (pa : Nat) (bs : List Byte) (b : Bool) : (s.performBytes pa bs b).snaps = s.snaps := rfl
@[simp] theorem State.performBytes_slots (s : State) (pa : Nat) (bs : List Byte) (b : Bool) : (s.performBytes pa bs b).slots = s.slots := rfl
@[simp] theorem State.performBytes_nextSlot (s : State) (pa : Nat) (bs : List Byte) (b : Bool) : (s.performBytes pa bs b).nextSlot = s.nextSlot := rfl
@[simp] theorem State.performBytes_restWork (s : State) (pa : Nat) (bs : List Byte) (b : Bool) : (s.performBytes pa bs b).restWork = s.restWork := rfl
@[simp] theorem State.performBytes_codecs (s : State) (pa : Nat) (bs : List Byte) (b : Bool) : (s.performBytes pa bs b).codecs = s.codecs := rfl
@[simp] theorem State.performBytes_tlbs (s : State) (pa : Nat) (bs : List Byte) (b : Bool) : (s.performBytes pa bs b).tlbs = s.tlbs := rfl
@[simp] theorem State.performBytes_walkers (s : State) (pa : Nat) (bs : List Byte) (b : Bool) : (s.performBytes pa bs b).walkers = s.walkers := rfl
@[simp] theorem State.performBytes_fabric (s : State) (pa : Nat) (bs : List Byte) (b : Bool) : (s.performBytes pa bs b).fabric = s.fabric := rfl
@[simp] theorem State.performBytes_atomq (s : State) (pa : Nat) (bs : List Byte) (b : Bool) : (s.performBytes pa bs b).atomq = s.atomq := rfl
@[simp] theorem State.performBytes_power (s : State) (pa : Nat) (bs : List Byte) (b : Bool) : (s.performBytes pa bs b).power = s.power := rfl
@[simp] theorem State.performBytes_host (s : State) (pa : Nat) (bs : List Byte) (b : Bool) : (s.performBytes pa bs b).host = s.host := rfl
@[simp] theorem State.performBytes_mgmt (s : State) (pa : Nat) (bs : List Byte) (b : Bool) : (s.performBytes pa bs b).mgmt = s.mgmt := rfl
@[simp] theorem State.performBytes_start (s : State) (pa : Nat) (bs : List Byte) (b : Bool) : (s.performBytes pa bs b).start = s.start := rfl
@[simp] theorem State.performBytes_hbm (s : State) (pa : Nat) (bs : List Byte) (b : Bool) : (s.performBytes pa bs b).hbm = s.hbm := rfl
@[simp] theorem State.performBytes_log (s : State) (pa : Nat) (bs : List Byte) (b : Bool) : (s.performBytes pa bs b).log = s.log := rfl
@[simp] theorem State.performBytes_logHeld (s : State) (pa : Nat) (bs : List Byte) (b : Bool) : (s.performBytes pa bs b).logHeld = s.logHeld := rfl
@[simp] theorem State.performBytes_logSeq (s : State) (pa : Nat) (bs : List Byte) (b : Bool) : (s.performBytes pa bs b).logSeq = s.logSeq := rfl
@[simp] theorem State.performBytes_corrected (s : State) (pa : Nat) (bs : List Byte) (b : Bool) : (s.performBytes pa bs b).corrected = s.corrected := rfl
@[simp] theorem State.performBytes_time (s : State) (pa : Nat) (bs : List Byte) (b : Bool) : (s.performBytes pa bs b).time = s.time := rfl
@[simp] theorem State.performBytes_sel (s : State) (pa : Nat) (bs : List Byte) (b : Bool) : (s.performBytes pa bs b).sel = s.sel := rfl
@[simp] theorem State.performBytes_schedule (s : State) (pa : Nat) (bs : List Byte) (b : Bool) : (s.performBytes pa bs b).schedule = s.schedule := rfl
@[simp] theorem State.performBytes_agenda (s : State) (pa : Nat) (bs : List Byte) (b : Bool) : (s.performBytes pa bs b).agenda = s.agenda := rfl
@[simp] theorem State.performBytes_free (s : State) (pa : Nat) (bs : List Byte) (b : Bool) : (s.performBytes pa bs b).free = s.free := rfl
@[simp] theorem State.performBytes_core' (s : State) (pa : Nat) (bs : List Byte) (b : Bool) (j : Nat) : (s.performBytes pa bs b).core j = s.core j := rfl
@[simp] theorem State.performBytes_clk' (s : State) (pa : Nat) (bs : List Byte) (b : Bool) (j : Nat) : (s.performBytes pa bs b).clk j = s.clk j := rfl
@[simp] theorem State.performBytes_team' (s : State) (pa : Nat) (bs : List Byte) (b : Bool) (j : Nat) : (s.performBytes pa bs b).team? j = s.team? j := rfl
@[simp] theorem State.performBytes_future' (s : State) (pa : Nat) (bs : List Byte) (b : Bool) (j : Nat) : (s.performBytes pa bs b).future j = s.future j := rfl
@[simp] theorem State.performBytes_ticket' (s : State) (pa : Nat) (bs : List Byte) (b : Bool) (j : Nat) : (s.performBytes pa bs b).ticket j = s.ticket j := rfl
@[simp] theorem State.performBytes_asid' (s : State) (pa : Nat) (bs : List Byte) (b : Bool) (j : Nat) : (s.performBytes pa bs b).asid j = s.asid j := rfl
@[simp] theorem State.performBytes_codec' (s : State) (pa : Nat) (bs : List Byte) (b : Bool) (j : Nat) : (s.performBytes pa bs b).codec j = s.codec j := rfl
@[simp] theorem State.performBytes_task' (s : State) (pa : Nat) (bs : List Byte) (b : Bool) (j : Nat) : (s.performBytes pa bs b).task? j = s.task? j := rfl

/-! `State.setFuture`. -/

@[simp] theorem State.setFuture_mem (s : State) (i : Nat) (f : Future) : (s.setFuture i f).mem = s.mem := rfl
@[simp] theorem State.setFuture_marks (s : State) (i : Nat) (f : Future) : (s.setFuture i f).marks = s.marks := rfl
@[simp] theorem State.setFuture_teams (s : State) (i : Nat) (f : Future) : (s.setFuture i f).teams = s.teams := rfl
@[simp] theorem State.setFuture_swapped (s : State) (i : Nat) (f : Future) : (s.setFuture i f).swapped = s.swapped := rfl
@[simp] theorem State.setFuture_cores (s : State) (i : Nat) (f : Future) : (s.setFuture i f).cores = s.cores := rfl
@[simp] theorem State.setFuture_clks (s : State) (i : Nat) (f : Future) : (s.setFuture i f).clks = s.clks := rfl
@[simp] theorem State.setFuture_queues (s : State) (i : Nat) (f : Future) : (s.setFuture i f).queues = s.queues := rfl
@[simp] theorem State.setFuture_tickets (s : State) (i : Nat) (f : Future) : (s.setFuture i f).tickets = s.tickets := rfl
@[simp] theorem State.setFuture_stamped (s : State) (i : Nat) (f : Future) : (s.setFuture i f).stamped = s.stamped := rfl
@[simp] theorem State.setFuture_tasks (s : State) (i : Nat) (f : Future) : (s.setFuture i f).tasks = s.tasks := rfl
@[simp] theorem State.setFuture_nextTask (s : State) (i : Nat) (f : Future) : (s.setFuture i f).nextTask = s.nextTask := rfl
@[simp] theorem State.setFuture_sched (s : State) (i : Nat) (f : Future) : (s.setFuture i f).sched = s.sched := rfl
@[simp] theorem State.setFuture_asids (s : State) (i : Nat) (f : Future) : (s.setFuture i f).asids = s.asids := rfl
@[simp] theorem State.setFuture_snaps (s : State) (i : Nat) (f : Future) : (s.setFuture i f).snaps = s.snaps := rfl
@[simp] theorem State.setFuture_slots (s : State) (i : Nat) (f : Future) : (s.setFuture i f).slots = s.slots := rfl
@[simp] theorem State.setFuture_nextSlot (s : State) (i : Nat) (f : Future) : (s.setFuture i f).nextSlot = s.nextSlot := rfl
@[simp] theorem State.setFuture_restWork (s : State) (i : Nat) (f : Future) : (s.setFuture i f).restWork = s.restWork := rfl
@[simp] theorem State.setFuture_codecs (s : State) (i : Nat) (f : Future) : (s.setFuture i f).codecs = s.codecs := rfl
@[simp] theorem State.setFuture_tlbs (s : State) (i : Nat) (f : Future) : (s.setFuture i f).tlbs = s.tlbs := rfl
@[simp] theorem State.setFuture_walkers (s : State) (i : Nat) (f : Future) : (s.setFuture i f).walkers = s.walkers := rfl
@[simp] theorem State.setFuture_fabric (s : State) (i : Nat) (f : Future) : (s.setFuture i f).fabric = s.fabric := rfl
@[simp] theorem State.setFuture_atomq (s : State) (i : Nat) (f : Future) : (s.setFuture i f).atomq = s.atomq := rfl
@[simp] theorem State.setFuture_power (s : State) (i : Nat) (f : Future) : (s.setFuture i f).power = s.power := rfl
@[simp] theorem State.setFuture_host (s : State) (i : Nat) (f : Future) : (s.setFuture i f).host = s.host := rfl
@[simp] theorem State.setFuture_mgmt (s : State) (i : Nat) (f : Future) : (s.setFuture i f).mgmt = s.mgmt := rfl
@[simp] theorem State.setFuture_start (s : State) (i : Nat) (f : Future) : (s.setFuture i f).start = s.start := rfl
@[simp] theorem State.setFuture_hbm (s : State) (i : Nat) (f : Future) : (s.setFuture i f).hbm = s.hbm := rfl
@[simp] theorem State.setFuture_log (s : State) (i : Nat) (f : Future) : (s.setFuture i f).log = s.log := rfl
@[simp] theorem State.setFuture_logHeld (s : State) (i : Nat) (f : Future) : (s.setFuture i f).logHeld = s.logHeld := rfl
@[simp] theorem State.setFuture_logSeq (s : State) (i : Nat) (f : Future) : (s.setFuture i f).logSeq = s.logSeq := rfl
@[simp] theorem State.setFuture_corrected (s : State) (i : Nat) (f : Future) : (s.setFuture i f).corrected = s.corrected := rfl
@[simp] theorem State.setFuture_time (s : State) (i : Nat) (f : Future) : (s.setFuture i f).time = s.time := rfl
@[simp] theorem State.setFuture_sel (s : State) (i : Nat) (f : Future) : (s.setFuture i f).sel = s.sel := rfl
@[simp] theorem State.setFuture_schedule (s : State) (i : Nat) (f : Future) : (s.setFuture i f).schedule = s.schedule := rfl
@[simp] theorem State.setFuture_agenda (s : State) (i : Nat) (f : Future) : (s.setFuture i f).agenda = s.agenda := rfl
@[simp] theorem State.setFuture_free (s : State) (i : Nat) (f : Future) : (s.setFuture i f).free = s.free := rfl
@[simp] theorem State.setFuture_core' (s : State) (i : Nat) (f : Future) (j : Nat) : (s.setFuture i f).core j = s.core j := rfl
@[simp] theorem State.setFuture_clk' (s : State) (i : Nat) (f : Future) (j : Nat) : (s.setFuture i f).clk j = s.clk j := rfl
@[simp] theorem State.setFuture_queue' (s : State) (i : Nat) (f : Future) (j : Nat) : (s.setFuture i f).queue j = s.queue j := rfl
@[simp] theorem State.setFuture_team' (s : State) (i : Nat) (f : Future) (j : Nat) : (s.setFuture i f).team? j = s.team? j := rfl
@[simp] theorem State.setFuture_ticket' (s : State) (i : Nat) (f : Future) (j : Nat) : (s.setFuture i f).ticket j = s.ticket j := rfl
@[simp] theorem State.setFuture_asid' (s : State) (i : Nat) (f : Future) (j : Nat) : (s.setFuture i f).asid j = s.asid j := rfl
@[simp] theorem State.setFuture_codec' (s : State) (i : Nat) (f : Future) (j : Nat) : (s.setFuture i f).codec j = s.codec j := rfl
@[simp] theorem State.setFuture_task' (s : State) (i : Nat) (f : Future) (j : Nat) : (s.setFuture i f).task? j = s.task? j := rfl

/-! `State.setTicket`. -/

@[simp] theorem State.setTicket_mem (s : State) (i : Nat) (k : Ticket) : (s.setTicket i k).mem = s.mem := rfl
@[simp] theorem State.setTicket_marks (s : State) (i : Nat) (k : Ticket) : (s.setTicket i k).marks = s.marks := rfl
@[simp] theorem State.setTicket_teams (s : State) (i : Nat) (k : Ticket) : (s.setTicket i k).teams = s.teams := rfl
@[simp] theorem State.setTicket_swapped (s : State) (i : Nat) (k : Ticket) : (s.setTicket i k).swapped = s.swapped := rfl
@[simp] theorem State.setTicket_cores (s : State) (i : Nat) (k : Ticket) : (s.setTicket i k).cores = s.cores := rfl
@[simp] theorem State.setTicket_clks (s : State) (i : Nat) (k : Ticket) : (s.setTicket i k).clks = s.clks := rfl
@[simp] theorem State.setTicket_queues (s : State) (i : Nat) (k : Ticket) : (s.setTicket i k).queues = s.queues := rfl
@[simp] theorem State.setTicket_futures (s : State) (i : Nat) (k : Ticket) : (s.setTicket i k).futures = s.futures := rfl
@[simp] theorem State.setTicket_stamped (s : State) (i : Nat) (k : Ticket) : (s.setTicket i k).stamped = s.stamped := rfl
@[simp] theorem State.setTicket_tasks (s : State) (i : Nat) (k : Ticket) : (s.setTicket i k).tasks = s.tasks := rfl
@[simp] theorem State.setTicket_nextTask (s : State) (i : Nat) (k : Ticket) : (s.setTicket i k).nextTask = s.nextTask := rfl
@[simp] theorem State.setTicket_sched (s : State) (i : Nat) (k : Ticket) : (s.setTicket i k).sched = s.sched := rfl
@[simp] theorem State.setTicket_asids (s : State) (i : Nat) (k : Ticket) : (s.setTicket i k).asids = s.asids := rfl
@[simp] theorem State.setTicket_snaps (s : State) (i : Nat) (k : Ticket) : (s.setTicket i k).snaps = s.snaps := rfl
@[simp] theorem State.setTicket_slots (s : State) (i : Nat) (k : Ticket) : (s.setTicket i k).slots = s.slots := rfl
@[simp] theorem State.setTicket_nextSlot (s : State) (i : Nat) (k : Ticket) : (s.setTicket i k).nextSlot = s.nextSlot := rfl
@[simp] theorem State.setTicket_restWork (s : State) (i : Nat) (k : Ticket) : (s.setTicket i k).restWork = s.restWork := rfl
@[simp] theorem State.setTicket_codecs (s : State) (i : Nat) (k : Ticket) : (s.setTicket i k).codecs = s.codecs := rfl
@[simp] theorem State.setTicket_tlbs (s : State) (i : Nat) (k : Ticket) : (s.setTicket i k).tlbs = s.tlbs := rfl
@[simp] theorem State.setTicket_walkers (s : State) (i : Nat) (k : Ticket) : (s.setTicket i k).walkers = s.walkers := rfl
@[simp] theorem State.setTicket_fabric (s : State) (i : Nat) (k : Ticket) : (s.setTicket i k).fabric = s.fabric := rfl
@[simp] theorem State.setTicket_atomq (s : State) (i : Nat) (k : Ticket) : (s.setTicket i k).atomq = s.atomq := rfl
@[simp] theorem State.setTicket_power (s : State) (i : Nat) (k : Ticket) : (s.setTicket i k).power = s.power := rfl
@[simp] theorem State.setTicket_host (s : State) (i : Nat) (k : Ticket) : (s.setTicket i k).host = s.host := rfl
@[simp] theorem State.setTicket_mgmt (s : State) (i : Nat) (k : Ticket) : (s.setTicket i k).mgmt = s.mgmt := rfl
@[simp] theorem State.setTicket_start (s : State) (i : Nat) (k : Ticket) : (s.setTicket i k).start = s.start := rfl
@[simp] theorem State.setTicket_hbm (s : State) (i : Nat) (k : Ticket) : (s.setTicket i k).hbm = s.hbm := rfl
@[simp] theorem State.setTicket_log (s : State) (i : Nat) (k : Ticket) : (s.setTicket i k).log = s.log := rfl
@[simp] theorem State.setTicket_logHeld (s : State) (i : Nat) (k : Ticket) : (s.setTicket i k).logHeld = s.logHeld := rfl
@[simp] theorem State.setTicket_logSeq (s : State) (i : Nat) (k : Ticket) : (s.setTicket i k).logSeq = s.logSeq := rfl
@[simp] theorem State.setTicket_corrected (s : State) (i : Nat) (k : Ticket) : (s.setTicket i k).corrected = s.corrected := rfl
@[simp] theorem State.setTicket_time (s : State) (i : Nat) (k : Ticket) : (s.setTicket i k).time = s.time := rfl
@[simp] theorem State.setTicket_sel (s : State) (i : Nat) (k : Ticket) : (s.setTicket i k).sel = s.sel := rfl
@[simp] theorem State.setTicket_schedule (s : State) (i : Nat) (k : Ticket) : (s.setTicket i k).schedule = s.schedule := rfl
@[simp] theorem State.setTicket_agenda (s : State) (i : Nat) (k : Ticket) : (s.setTicket i k).agenda = s.agenda := rfl
@[simp] theorem State.setTicket_free (s : State) (i : Nat) (k : Ticket) : (s.setTicket i k).free = s.free := rfl
@[simp] theorem State.setTicket_core' (s : State) (i : Nat) (k : Ticket) (j : Nat) : (s.setTicket i k).core j = s.core j := rfl
@[simp] theorem State.setTicket_clk' (s : State) (i : Nat) (k : Ticket) (j : Nat) : (s.setTicket i k).clk j = s.clk j := rfl
@[simp] theorem State.setTicket_queue' (s : State) (i : Nat) (k : Ticket) (j : Nat) : (s.setTicket i k).queue j = s.queue j := rfl
@[simp] theorem State.setTicket_team' (s : State) (i : Nat) (k : Ticket) (j : Nat) : (s.setTicket i k).team? j = s.team? j := rfl
@[simp] theorem State.setTicket_future' (s : State) (i : Nat) (k : Ticket) (j : Nat) : (s.setTicket i k).future j = s.future j := rfl
@[simp] theorem State.setTicket_asid' (s : State) (i : Nat) (k : Ticket) (j : Nat) : (s.setTicket i k).asid j = s.asid j := rfl
@[simp] theorem State.setTicket_codec' (s : State) (i : Nat) (k : Ticket) (j : Nat) : (s.setTicket i k).codec j = s.codec j := rfl
@[simp] theorem State.setTicket_task' (s : State) (i : Nat) (k : Ticket) (j : Nat) : (s.setTicket i k).task? j = s.task? j := rfl

/-! `State.updCodec`. -/

@[simp] theorem State.updCodec_mem (s : State) (c : Nat) (f : Codec → Codec) : (s.updCodec c f).mem = s.mem := rfl
@[simp] theorem State.updCodec_marks (s : State) (c : Nat) (f : Codec → Codec) : (s.updCodec c f).marks = s.marks := rfl
@[simp] theorem State.updCodec_teams (s : State) (c : Nat) (f : Codec → Codec) : (s.updCodec c f).teams = s.teams := rfl
@[simp] theorem State.updCodec_swapped (s : State) (c : Nat) (f : Codec → Codec) : (s.updCodec c f).swapped = s.swapped := rfl
@[simp] theorem State.updCodec_cores (s : State) (c : Nat) (f : Codec → Codec) : (s.updCodec c f).cores = s.cores := rfl
@[simp] theorem State.updCodec_clks (s : State) (c : Nat) (f : Codec → Codec) : (s.updCodec c f).clks = s.clks := rfl
@[simp] theorem State.updCodec_queues (s : State) (c : Nat) (f : Codec → Codec) : (s.updCodec c f).queues = s.queues := rfl
@[simp] theorem State.updCodec_futures (s : State) (c : Nat) (f : Codec → Codec) : (s.updCodec c f).futures = s.futures := rfl
@[simp] theorem State.updCodec_tickets (s : State) (c : Nat) (f : Codec → Codec) : (s.updCodec c f).tickets = s.tickets := rfl
@[simp] theorem State.updCodec_stamped (s : State) (c : Nat) (f : Codec → Codec) : (s.updCodec c f).stamped = s.stamped := rfl
@[simp] theorem State.updCodec_tasks (s : State) (c : Nat) (f : Codec → Codec) : (s.updCodec c f).tasks = s.tasks := rfl
@[simp] theorem State.updCodec_nextTask (s : State) (c : Nat) (f : Codec → Codec) : (s.updCodec c f).nextTask = s.nextTask := rfl
@[simp] theorem State.updCodec_sched (s : State) (c : Nat) (f : Codec → Codec) : (s.updCodec c f).sched = s.sched := rfl
@[simp] theorem State.updCodec_asids (s : State) (c : Nat) (f : Codec → Codec) : (s.updCodec c f).asids = s.asids := rfl
@[simp] theorem State.updCodec_snaps (s : State) (c : Nat) (f : Codec → Codec) : (s.updCodec c f).snaps = s.snaps := rfl
@[simp] theorem State.updCodec_slots (s : State) (c : Nat) (f : Codec → Codec) : (s.updCodec c f).slots = s.slots := rfl
@[simp] theorem State.updCodec_nextSlot (s : State) (c : Nat) (f : Codec → Codec) : (s.updCodec c f).nextSlot = s.nextSlot := rfl
@[simp] theorem State.updCodec_restWork (s : State) (c : Nat) (f : Codec → Codec) : (s.updCodec c f).restWork = s.restWork := rfl
@[simp] theorem State.updCodec_tlbs (s : State) (c : Nat) (f : Codec → Codec) : (s.updCodec c f).tlbs = s.tlbs := rfl
@[simp] theorem State.updCodec_walkers (s : State) (c : Nat) (f : Codec → Codec) : (s.updCodec c f).walkers = s.walkers := rfl
@[simp] theorem State.updCodec_fabric (s : State) (c : Nat) (f : Codec → Codec) : (s.updCodec c f).fabric = s.fabric := rfl
@[simp] theorem State.updCodec_atomq (s : State) (c : Nat) (f : Codec → Codec) : (s.updCodec c f).atomq = s.atomq := rfl
@[simp] theorem State.updCodec_power (s : State) (c : Nat) (f : Codec → Codec) : (s.updCodec c f).power = s.power := rfl
@[simp] theorem State.updCodec_host (s : State) (c : Nat) (f : Codec → Codec) : (s.updCodec c f).host = s.host := rfl
@[simp] theorem State.updCodec_mgmt (s : State) (c : Nat) (f : Codec → Codec) : (s.updCodec c f).mgmt = s.mgmt := rfl
@[simp] theorem State.updCodec_start (s : State) (c : Nat) (f : Codec → Codec) : (s.updCodec c f).start = s.start := rfl
@[simp] theorem State.updCodec_hbm (s : State) (c : Nat) (f : Codec → Codec) : (s.updCodec c f).hbm = s.hbm := rfl
@[simp] theorem State.updCodec_log (s : State) (c : Nat) (f : Codec → Codec) : (s.updCodec c f).log = s.log := rfl
@[simp] theorem State.updCodec_logHeld (s : State) (c : Nat) (f : Codec → Codec) : (s.updCodec c f).logHeld = s.logHeld := rfl
@[simp] theorem State.updCodec_logSeq (s : State) (c : Nat) (f : Codec → Codec) : (s.updCodec c f).logSeq = s.logSeq := rfl
@[simp] theorem State.updCodec_corrected (s : State) (c : Nat) (f : Codec → Codec) : (s.updCodec c f).corrected = s.corrected := rfl
@[simp] theorem State.updCodec_time (s : State) (c : Nat) (f : Codec → Codec) : (s.updCodec c f).time = s.time := rfl
@[simp] theorem State.updCodec_sel (s : State) (c : Nat) (f : Codec → Codec) : (s.updCodec c f).sel = s.sel := rfl
@[simp] theorem State.updCodec_schedule (s : State) (c : Nat) (f : Codec → Codec) : (s.updCodec c f).schedule = s.schedule := rfl
@[simp] theorem State.updCodec_agenda (s : State) (c : Nat) (f : Codec → Codec) : (s.updCodec c f).agenda = s.agenda := rfl
@[simp] theorem State.updCodec_free (s : State) (c : Nat) (f : Codec → Codec) : (s.updCodec c f).free = s.free := rfl
@[simp] theorem State.updCodec_core' (s : State) (c : Nat) (f : Codec → Codec) (j : Nat) : (s.updCodec c f).core j = s.core j := rfl
@[simp] theorem State.updCodec_clk' (s : State) (c : Nat) (f : Codec → Codec) (j : Nat) : (s.updCodec c f).clk j = s.clk j := rfl
@[simp] theorem State.updCodec_queue' (s : State) (c : Nat) (f : Codec → Codec) (j : Nat) : (s.updCodec c f).queue j = s.queue j := rfl
@[simp] theorem State.updCodec_team' (s : State) (c : Nat) (f : Codec → Codec) (j : Nat) : (s.updCodec c f).team? j = s.team? j := rfl
@[simp] theorem State.updCodec_future' (s : State) (c : Nat) (f : Codec → Codec) (j : Nat) : (s.updCodec c f).future j = s.future j := rfl
@[simp] theorem State.updCodec_ticket' (s : State) (c : Nat) (f : Codec → Codec) (j : Nat) : (s.updCodec c f).ticket j = s.ticket j := rfl
@[simp] theorem State.updCodec_asid' (s : State) (c : Nat) (f : Codec → Codec) (j : Nat) : (s.updCodec c f).asid j = s.asid j := rfl
@[simp] theorem State.updCodec_task' (s : State) (c : Nat) (f : Codec → Codec) (j : Nat) : (s.updCodec c f).task? j = s.task? j := rfl

/-! `State.updAsid`. -/

@[simp] theorem State.updAsid_mem (s : State) (a : Nat) (f : AsidRegs → AsidRegs) : (s.updAsid a f).mem = s.mem := rfl
@[simp] theorem State.updAsid_marks (s : State) (a : Nat) (f : AsidRegs → AsidRegs) : (s.updAsid a f).marks = s.marks := rfl
@[simp] theorem State.updAsid_teams (s : State) (a : Nat) (f : AsidRegs → AsidRegs) : (s.updAsid a f).teams = s.teams := rfl
@[simp] theorem State.updAsid_swapped (s : State) (a : Nat) (f : AsidRegs → AsidRegs) : (s.updAsid a f).swapped = s.swapped := rfl
@[simp] theorem State.updAsid_cores (s : State) (a : Nat) (f : AsidRegs → AsidRegs) : (s.updAsid a f).cores = s.cores := rfl
@[simp] theorem State.updAsid_clks (s : State) (a : Nat) (f : AsidRegs → AsidRegs) : (s.updAsid a f).clks = s.clks := rfl
@[simp] theorem State.updAsid_queues (s : State) (a : Nat) (f : AsidRegs → AsidRegs) : (s.updAsid a f).queues = s.queues := rfl
@[simp] theorem State.updAsid_futures (s : State) (a : Nat) (f : AsidRegs → AsidRegs) : (s.updAsid a f).futures = s.futures := rfl
@[simp] theorem State.updAsid_tickets (s : State) (a : Nat) (f : AsidRegs → AsidRegs) : (s.updAsid a f).tickets = s.tickets := rfl
@[simp] theorem State.updAsid_stamped (s : State) (a : Nat) (f : AsidRegs → AsidRegs) : (s.updAsid a f).stamped = s.stamped := rfl
@[simp] theorem State.updAsid_tasks (s : State) (a : Nat) (f : AsidRegs → AsidRegs) : (s.updAsid a f).tasks = s.tasks := rfl
@[simp] theorem State.updAsid_nextTask (s : State) (a : Nat) (f : AsidRegs → AsidRegs) : (s.updAsid a f).nextTask = s.nextTask := rfl
@[simp] theorem State.updAsid_sched (s : State) (a : Nat) (f : AsidRegs → AsidRegs) : (s.updAsid a f).sched = s.sched := rfl
@[simp] theorem State.updAsid_snaps (s : State) (a : Nat) (f : AsidRegs → AsidRegs) : (s.updAsid a f).snaps = s.snaps := rfl
@[simp] theorem State.updAsid_slots (s : State) (a : Nat) (f : AsidRegs → AsidRegs) : (s.updAsid a f).slots = s.slots := rfl
@[simp] theorem State.updAsid_nextSlot (s : State) (a : Nat) (f : AsidRegs → AsidRegs) : (s.updAsid a f).nextSlot = s.nextSlot := rfl
@[simp] theorem State.updAsid_restWork (s : State) (a : Nat) (f : AsidRegs → AsidRegs) : (s.updAsid a f).restWork = s.restWork := rfl
@[simp] theorem State.updAsid_codecs (s : State) (a : Nat) (f : AsidRegs → AsidRegs) : (s.updAsid a f).codecs = s.codecs := rfl
@[simp] theorem State.updAsid_tlbs (s : State) (a : Nat) (f : AsidRegs → AsidRegs) : (s.updAsid a f).tlbs = s.tlbs := rfl
@[simp] theorem State.updAsid_walkers (s : State) (a : Nat) (f : AsidRegs → AsidRegs) : (s.updAsid a f).walkers = s.walkers := rfl
@[simp] theorem State.updAsid_fabric (s : State) (a : Nat) (f : AsidRegs → AsidRegs) : (s.updAsid a f).fabric = s.fabric := rfl
@[simp] theorem State.updAsid_atomq (s : State) (a : Nat) (f : AsidRegs → AsidRegs) : (s.updAsid a f).atomq = s.atomq := rfl
@[simp] theorem State.updAsid_power (s : State) (a : Nat) (f : AsidRegs → AsidRegs) : (s.updAsid a f).power = s.power := rfl
@[simp] theorem State.updAsid_host (s : State) (a : Nat) (f : AsidRegs → AsidRegs) : (s.updAsid a f).host = s.host := rfl
@[simp] theorem State.updAsid_mgmt (s : State) (a : Nat) (f : AsidRegs → AsidRegs) : (s.updAsid a f).mgmt = s.mgmt := rfl
@[simp] theorem State.updAsid_start (s : State) (a : Nat) (f : AsidRegs → AsidRegs) : (s.updAsid a f).start = s.start := rfl
@[simp] theorem State.updAsid_hbm (s : State) (a : Nat) (f : AsidRegs → AsidRegs) : (s.updAsid a f).hbm = s.hbm := rfl
@[simp] theorem State.updAsid_log (s : State) (a : Nat) (f : AsidRegs → AsidRegs) : (s.updAsid a f).log = s.log := rfl
@[simp] theorem State.updAsid_logHeld (s : State) (a : Nat) (f : AsidRegs → AsidRegs) : (s.updAsid a f).logHeld = s.logHeld := rfl
@[simp] theorem State.updAsid_logSeq (s : State) (a : Nat) (f : AsidRegs → AsidRegs) : (s.updAsid a f).logSeq = s.logSeq := rfl
@[simp] theorem State.updAsid_corrected (s : State) (a : Nat) (f : AsidRegs → AsidRegs) : (s.updAsid a f).corrected = s.corrected := rfl
@[simp] theorem State.updAsid_time (s : State) (a : Nat) (f : AsidRegs → AsidRegs) : (s.updAsid a f).time = s.time := rfl
@[simp] theorem State.updAsid_sel (s : State) (a : Nat) (f : AsidRegs → AsidRegs) : (s.updAsid a f).sel = s.sel := rfl
@[simp] theorem State.updAsid_schedule (s : State) (a : Nat) (f : AsidRegs → AsidRegs) : (s.updAsid a f).schedule = s.schedule := rfl
@[simp] theorem State.updAsid_agenda (s : State) (a : Nat) (f : AsidRegs → AsidRegs) : (s.updAsid a f).agenda = s.agenda := rfl
@[simp] theorem State.updAsid_free (s : State) (a : Nat) (f : AsidRegs → AsidRegs) : (s.updAsid a f).free = s.free := rfl
@[simp] theorem State.updAsid_core' (s : State) (a : Nat) (f : AsidRegs → AsidRegs) (j : Nat) : (s.updAsid a f).core j = s.core j := rfl
@[simp] theorem State.updAsid_clk' (s : State) (a : Nat) (f : AsidRegs → AsidRegs) (j : Nat) : (s.updAsid a f).clk j = s.clk j := rfl
@[simp] theorem State.updAsid_queue' (s : State) (a : Nat) (f : AsidRegs → AsidRegs) (j : Nat) : (s.updAsid a f).queue j = s.queue j := rfl
@[simp] theorem State.updAsid_team' (s : State) (a : Nat) (f : AsidRegs → AsidRegs) (j : Nat) : (s.updAsid a f).team? j = s.team? j := rfl
@[simp] theorem State.updAsid_future' (s : State) (a : Nat) (f : AsidRegs → AsidRegs) (j : Nat) : (s.updAsid a f).future j = s.future j := rfl
@[simp] theorem State.updAsid_ticket' (s : State) (a : Nat) (f : AsidRegs → AsidRegs) (j : Nat) : (s.updAsid a f).ticket j = s.ticket j := rfl
@[simp] theorem State.updAsid_codec' (s : State) (a : Nat) (f : AsidRegs → AsidRegs) (j : Nat) : (s.updAsid a f).codec j = s.codec j := rfl
@[simp] theorem State.updAsid_task' (s : State) (a : Nat) (f : AsidRegs → AsidRegs) (j : Nat) : (s.updAsid a f).task? j = s.task? j := rfl

/-! `State.emit`. -/

@[simp] theorem State.emit_mem (s : State) (m : OutMsg) : (s.emit m).mem = s.mem := rfl
@[simp] theorem State.emit_marks (s : State) (m : OutMsg) : (s.emit m).marks = s.marks := rfl
@[simp] theorem State.emit_teams (s : State) (m : OutMsg) : (s.emit m).teams = s.teams := rfl
@[simp] theorem State.emit_swapped (s : State) (m : OutMsg) : (s.emit m).swapped = s.swapped := rfl
@[simp] theorem State.emit_cores (s : State) (m : OutMsg) : (s.emit m).cores = s.cores := rfl
@[simp] theorem State.emit_clks (s : State) (m : OutMsg) : (s.emit m).clks = s.clks := rfl
@[simp] theorem State.emit_queues (s : State) (m : OutMsg) : (s.emit m).queues = s.queues := rfl
@[simp] theorem State.emit_futures (s : State) (m : OutMsg) : (s.emit m).futures = s.futures := rfl
@[simp] theorem State.emit_tickets (s : State) (m : OutMsg) : (s.emit m).tickets = s.tickets := rfl
@[simp] theorem State.emit_stamped (s : State) (m : OutMsg) : (s.emit m).stamped = s.stamped := rfl
@[simp] theorem State.emit_tasks (s : State) (m : OutMsg) : (s.emit m).tasks = s.tasks := rfl
@[simp] theorem State.emit_nextTask (s : State) (m : OutMsg) : (s.emit m).nextTask = s.nextTask := rfl
@[simp] theorem State.emit_sched (s : State) (m : OutMsg) : (s.emit m).sched = s.sched := rfl
@[simp] theorem State.emit_asids (s : State) (m : OutMsg) : (s.emit m).asids = s.asids := rfl
@[simp] theorem State.emit_snaps (s : State) (m : OutMsg) : (s.emit m).snaps = s.snaps := rfl
@[simp] theorem State.emit_slots (s : State) (m : OutMsg) : (s.emit m).slots = s.slots := rfl
@[simp] theorem State.emit_nextSlot (s : State) (m : OutMsg) : (s.emit m).nextSlot = s.nextSlot := rfl
@[simp] theorem State.emit_restWork (s : State) (m : OutMsg) : (s.emit m).restWork = s.restWork := rfl
@[simp] theorem State.emit_codecs (s : State) (m : OutMsg) : (s.emit m).codecs = s.codecs := rfl
@[simp] theorem State.emit_tlbs (s : State) (m : OutMsg) : (s.emit m).tlbs = s.tlbs := rfl
@[simp] theorem State.emit_walkers (s : State) (m : OutMsg) : (s.emit m).walkers = s.walkers := rfl
@[simp] theorem State.emit_fabric (s : State) (m : OutMsg) : (s.emit m).fabric = s.fabric := rfl
@[simp] theorem State.emit_atomq (s : State) (m : OutMsg) : (s.emit m).atomq = s.atomq := rfl
@[simp] theorem State.emit_power (s : State) (m : OutMsg) : (s.emit m).power = s.power := rfl
@[simp] theorem State.emit_mgmt (s : State) (m : OutMsg) : (s.emit m).mgmt = s.mgmt := rfl
@[simp] theorem State.emit_start (s : State) (m : OutMsg) : (s.emit m).start = s.start := rfl
@[simp] theorem State.emit_hbm (s : State) (m : OutMsg) : (s.emit m).hbm = s.hbm := rfl
@[simp] theorem State.emit_log (s : State) (m : OutMsg) : (s.emit m).log = s.log := rfl
@[simp] theorem State.emit_logHeld (s : State) (m : OutMsg) : (s.emit m).logHeld = s.logHeld := rfl
@[simp] theorem State.emit_logSeq (s : State) (m : OutMsg) : (s.emit m).logSeq = s.logSeq := rfl
@[simp] theorem State.emit_corrected (s : State) (m : OutMsg) : (s.emit m).corrected = s.corrected := rfl
@[simp] theorem State.emit_time (s : State) (m : OutMsg) : (s.emit m).time = s.time := rfl
@[simp] theorem State.emit_sel (s : State) (m : OutMsg) : (s.emit m).sel = s.sel := rfl
@[simp] theorem State.emit_schedule (s : State) (m : OutMsg) : (s.emit m).schedule = s.schedule := rfl
@[simp] theorem State.emit_agenda (s : State) (m : OutMsg) : (s.emit m).agenda = s.agenda := rfl
@[simp] theorem State.emit_free (s : State) (m : OutMsg) : (s.emit m).free = s.free := rfl
@[simp] theorem State.emit_core' (s : State) (m : OutMsg) (j : Nat) : (s.emit m).core j = s.core j := rfl
@[simp] theorem State.emit_clk' (s : State) (m : OutMsg) (j : Nat) : (s.emit m).clk j = s.clk j := rfl
@[simp] theorem State.emit_queue' (s : State) (m : OutMsg) (j : Nat) : (s.emit m).queue j = s.queue j := rfl
@[simp] theorem State.emit_team' (s : State) (m : OutMsg) (j : Nat) : (s.emit m).team? j = s.team? j := rfl
@[simp] theorem State.emit_future' (s : State) (m : OutMsg) (j : Nat) : (s.emit m).future j = s.future j := rfl
@[simp] theorem State.emit_ticket' (s : State) (m : OutMsg) (j : Nat) : (s.emit m).ticket j = s.ticket j := rfl
@[simp] theorem State.emit_asid' (s : State) (m : OutMsg) (j : Nat) : (s.emit m).asid j = s.asid j := rfl
@[simp] theorem State.emit_codec' (s : State) (m : OutMsg) (j : Nat) : (s.emit m).codec j = s.codec j := rfl
@[simp] theorem State.emit_task' (s : State) (m : OutMsg) (j : Nat) : (s.emit m).task? j = s.task? j := rfl

/-! `State.report`. -/

@[simp] theorem State.report_mem (s : State) (p k : Nat) : (s.report p k).mem = s.mem := rfl
@[simp] theorem State.report_marks (s : State) (p k : Nat) : (s.report p k).marks = s.marks := rfl
@[simp] theorem State.report_teams (s : State) (p k : Nat) : (s.report p k).teams = s.teams := rfl
@[simp] theorem State.report_swapped (s : State) (p k : Nat) : (s.report p k).swapped = s.swapped := rfl
@[simp] theorem State.report_cores (s : State) (p k : Nat) : (s.report p k).cores = s.cores := rfl
@[simp] theorem State.report_clks (s : State) (p k : Nat) : (s.report p k).clks = s.clks := rfl
@[simp] theorem State.report_queues (s : State) (p k : Nat) : (s.report p k).queues = s.queues := rfl
@[simp] theorem State.report_futures (s : State) (p k : Nat) : (s.report p k).futures = s.futures := rfl
@[simp] theorem State.report_tickets (s : State) (p k : Nat) : (s.report p k).tickets = s.tickets := rfl
@[simp] theorem State.report_stamped (s : State) (p k : Nat) : (s.report p k).stamped = s.stamped := rfl
@[simp] theorem State.report_tasks (s : State) (p k : Nat) : (s.report p k).tasks = s.tasks := rfl
@[simp] theorem State.report_nextTask (s : State) (p k : Nat) : (s.report p k).nextTask = s.nextTask := rfl
@[simp] theorem State.report_sched (s : State) (p k : Nat) : (s.report p k).sched = s.sched := rfl
@[simp] theorem State.report_asids (s : State) (p k : Nat) : (s.report p k).asids = s.asids := rfl
@[simp] theorem State.report_snaps (s : State) (p k : Nat) : (s.report p k).snaps = s.snaps := rfl
@[simp] theorem State.report_slots (s : State) (p k : Nat) : (s.report p k).slots = s.slots := rfl
@[simp] theorem State.report_nextSlot (s : State) (p k : Nat) : (s.report p k).nextSlot = s.nextSlot := rfl
@[simp] theorem State.report_restWork (s : State) (p k : Nat) : (s.report p k).restWork = s.restWork := rfl
@[simp] theorem State.report_codecs (s : State) (p k : Nat) : (s.report p k).codecs = s.codecs := rfl
@[simp] theorem State.report_tlbs (s : State) (p k : Nat) : (s.report p k).tlbs = s.tlbs := rfl
@[simp] theorem State.report_walkers (s : State) (p k : Nat) : (s.report p k).walkers = s.walkers := rfl
@[simp] theorem State.report_fabric (s : State) (p k : Nat) : (s.report p k).fabric = s.fabric := rfl
@[simp] theorem State.report_atomq (s : State) (p k : Nat) : (s.report p k).atomq = s.atomq := rfl
@[simp] theorem State.report_power (s : State) (p k : Nat) : (s.report p k).power = s.power := rfl
@[simp] theorem State.report_mgmt (s : State) (p k : Nat) : (s.report p k).mgmt = s.mgmt := rfl
@[simp] theorem State.report_start (s : State) (p k : Nat) : (s.report p k).start = s.start := rfl
@[simp] theorem State.report_hbm (s : State) (p k : Nat) : (s.report p k).hbm = s.hbm := rfl
@[simp] theorem State.report_log (s : State) (p k : Nat) : (s.report p k).log = s.log := rfl
@[simp] theorem State.report_logHeld (s : State) (p k : Nat) : (s.report p k).logHeld = s.logHeld := rfl
@[simp] theorem State.report_logSeq (s : State) (p k : Nat) : (s.report p k).logSeq = s.logSeq := rfl
@[simp] theorem State.report_corrected (s : State) (p k : Nat) : (s.report p k).corrected = s.corrected := rfl
@[simp] theorem State.report_time (s : State) (p k : Nat) : (s.report p k).time = s.time := rfl
@[simp] theorem State.report_sel (s : State) (p k : Nat) : (s.report p k).sel = s.sel := rfl
@[simp] theorem State.report_schedule (s : State) (p k : Nat) : (s.report p k).schedule = s.schedule := rfl
@[simp] theorem State.report_agenda (s : State) (p k : Nat) : (s.report p k).agenda = s.agenda := rfl
@[simp] theorem State.report_free (s : State) (p k : Nat) : (s.report p k).free = s.free := rfl
@[simp] theorem State.report_core' (s : State) (p k : Nat) (j : Nat) : (s.report p k).core j = s.core j := rfl
@[simp] theorem State.report_clk' (s : State) (p k : Nat) (j : Nat) : (s.report p k).clk j = s.clk j := rfl
@[simp] theorem State.report_queue' (s : State) (p k : Nat) (j : Nat) : (s.report p k).queue j = s.queue j := rfl
@[simp] theorem State.report_team' (s : State) (p k : Nat) (j : Nat) : (s.report p k).team? j = s.team? j := rfl
@[simp] theorem State.report_future' (s : State) (p k : Nat) (j : Nat) : (s.report p k).future j = s.future j := rfl
@[simp] theorem State.report_ticket' (s : State) (p k : Nat) (j : Nat) : (s.report p k).ticket j = s.ticket j := rfl
@[simp] theorem State.report_asid' (s : State) (p k : Nat) (j : Nat) : (s.report p k).asid j = s.asid j := rfl
@[simp] theorem State.report_codec' (s : State) (p k : Nat) (j : Nat) : (s.report p k).codec j = s.codec j := rfl
@[simp] theorem State.report_task' (s : State) (p k : Nat) (j : Nat) : (s.report p k).task? j = s.task? j := rfl

/-! Reading back what was written. -/

theorem State.setTeam_team (s : State) (n m : Nat) (t : Team) :
    (s.setTeam n t).team? m = if m = n then some t else s.team? m := SMap.get?_insert _ _ _ _

@[simp] theorem State.setTeam_team_self (s : State) (n : Nat) (t : Team) : (s.setTeam n t).team? n = some t := by
  rw [State.setTeam_team, if_pos rfl]

theorem State.eraseTeam_team (s : State) (n m : Nat) :
    (s.eraseTeam n).team? m = if m = n then none else s.team? m := SMap.get?_erase _ _ _

theorem State.setCore_core (s : State) (c d : Nat) (k : Core) :
    (s.setCore c k).core d = if d = c then k else s.core d := SMap.get_put _ _ _ _ _

theorem State.updCore_core (s : State) (c d : Nat) (f : Core → Core) :
    (s.updCore c f).core d = if d = c then f (s.core c) else s.core d := SMap.get_put _ _ _ _ _

theorem State.updClk_clk (s : State) (c d : Nat) (f : Clk → Clk) :
    (s.updClk c f).clk d = if d = c then f (s.clk c) else s.clk d := SMap.get_upd _ _ _ _ _

theorem State.updQueue_queue (s : State) (q r : Nat) (f : Queue → Queue) :
    (s.updQueue q f).queue r = if r = q then f (s.queue q) else s.queue r := SMap.get_upd _ _ _ _ _

theorem State.setFuture_future (s : State) (i j : Nat) (f : Future) :
    (s.setFuture i f).future j = if j = i then f else s.future j := SMap.get_put _ _ _ _ _

theorem State.setTicket_ticket (s : State) (i j : Nat) (k : Ticket) :
    (s.setTicket i k).ticket j = if j = i then k else s.ticket j := SMap.get_put _ _ _ _ _

theorem State.updCodec_codec (s : State) (c d : Nat) (f : Codec → Codec) :
    (s.updCodec c f).codec d = if d = c then f (s.codec c) else s.codec d := SMap.get_upd _ _ _ _ _

theorem State.updAsid_asid (s : State) (a b : Nat) (f : AsidRegs → AsidRegs) :
    (s.updAsid a f).asid b = if b = a then f (s.asid a) else s.asid b := SMap.get_upd _ _ _ _ _

theorem State.updTeam_some (s : State) (n : Nat) (f : Team → Team) (t : Team) (h : s.team? n = some t) :
    s.updTeam n f = s.setTeam n (f t) := by
  simp [State.updTeam, h]

theorem State.updTeam_none (s : State) (n : Nat) (f : Team → Team) (h : s.team? n = none) : s.updTeam n f = s := by
  simp [State.updTeam, h]

theorem State.updTeam_team (s : State) (n m : Nat) (f : Team → Team) :
    (s.updTeam n f).team? m = if m = n then (s.team? n).map f else s.team? m := by
  cases h : s.team? n with
  | none =>
    rw [State.updTeam_none s n f h]
    split
    · simp_all
    · rfl
  | some t => rw [State.updTeam_some s n f t h, State.setTeam_team]; rfl

/-! `State.updTeam`, which changes the teams alone. -/

@[simp] theorem State.updTeam_mem (s : State) (n : Nat) (g : Team → Team) : (s.updTeam n g).mem = s.mem := by
  unfold State.updTeam; split <;> rfl
@[simp] theorem State.updTeam_marks (s : State) (n : Nat) (g : Team → Team) : (s.updTeam n g).marks = s.marks := by
  unfold State.updTeam; split <;> rfl
@[simp] theorem State.updTeam_swapped (s : State) (n : Nat) (g : Team → Team) : (s.updTeam n g).swapped = s.swapped := by
  unfold State.updTeam; split <;> rfl
@[simp] theorem State.updTeam_cores (s : State) (n : Nat) (g : Team → Team) : (s.updTeam n g).cores = s.cores := by
  unfold State.updTeam; split <;> rfl
@[simp] theorem State.updTeam_clks (s : State) (n : Nat) (g : Team → Team) : (s.updTeam n g).clks = s.clks := by
  unfold State.updTeam; split <;> rfl
@[simp] theorem State.updTeam_queues (s : State) (n : Nat) (g : Team → Team) : (s.updTeam n g).queues = s.queues := by
  unfold State.updTeam; split <;> rfl
@[simp] theorem State.updTeam_futures (s : State) (n : Nat) (g : Team → Team) : (s.updTeam n g).futures = s.futures := by
  unfold State.updTeam; split <;> rfl
@[simp] theorem State.updTeam_tickets (s : State) (n : Nat) (g : Team → Team) : (s.updTeam n g).tickets = s.tickets := by
  unfold State.updTeam; split <;> rfl
@[simp] theorem State.updTeam_stamped (s : State) (n : Nat) (g : Team → Team) : (s.updTeam n g).stamped = s.stamped := by
  unfold State.updTeam; split <;> rfl
@[simp] theorem State.updTeam_tasks (s : State) (n : Nat) (g : Team → Team) : (s.updTeam n g).tasks = s.tasks := by
  unfold State.updTeam; split <;> rfl
@[simp] theorem State.updTeam_nextTask (s : State) (n : Nat) (g : Team → Team) : (s.updTeam n g).nextTask = s.nextTask := by
  unfold State.updTeam; split <;> rfl
@[simp] theorem State.updTeam_sched (s : State) (n : Nat) (g : Team → Team) : (s.updTeam n g).sched = s.sched := by
  unfold State.updTeam; split <;> rfl
@[simp] theorem State.updTeam_asids (s : State) (n : Nat) (g : Team → Team) : (s.updTeam n g).asids = s.asids := by
  unfold State.updTeam; split <;> rfl
@[simp] theorem State.updTeam_snaps (s : State) (n : Nat) (g : Team → Team) : (s.updTeam n g).snaps = s.snaps := by
  unfold State.updTeam; split <;> rfl
@[simp] theorem State.updTeam_slots (s : State) (n : Nat) (g : Team → Team) : (s.updTeam n g).slots = s.slots := by
  unfold State.updTeam; split <;> rfl
@[simp] theorem State.updTeam_nextSlot (s : State) (n : Nat) (g : Team → Team) : (s.updTeam n g).nextSlot = s.nextSlot := by
  unfold State.updTeam; split <;> rfl
@[simp] theorem State.updTeam_restWork (s : State) (n : Nat) (g : Team → Team) : (s.updTeam n g).restWork = s.restWork := by
  unfold State.updTeam; split <;> rfl
@[simp] theorem State.updTeam_codecs (s : State) (n : Nat) (g : Team → Team) : (s.updTeam n g).codecs = s.codecs := by
  unfold State.updTeam; split <;> rfl
@[simp] theorem State.updTeam_tlbs (s : State) (n : Nat) (g : Team → Team) : (s.updTeam n g).tlbs = s.tlbs := by
  unfold State.updTeam; split <;> rfl
@[simp] theorem State.updTeam_walkers (s : State) (n : Nat) (g : Team → Team) : (s.updTeam n g).walkers = s.walkers := by
  unfold State.updTeam; split <;> rfl
@[simp] theorem State.updTeam_fabric (s : State) (n : Nat) (g : Team → Team) : (s.updTeam n g).fabric = s.fabric := by
  unfold State.updTeam; split <;> rfl
@[simp] theorem State.updTeam_atomq (s : State) (n : Nat) (g : Team → Team) : (s.updTeam n g).atomq = s.atomq := by
  unfold State.updTeam; split <;> rfl
@[simp] theorem State.updTeam_power (s : State) (n : Nat) (g : Team → Team) : (s.updTeam n g).power = s.power := by
  unfold State.updTeam; split <;> rfl
@[simp] theorem State.updTeam_host (s : State) (n : Nat) (g : Team → Team) : (s.updTeam n g).host = s.host := by
  unfold State.updTeam; split <;> rfl
@[simp] theorem State.updTeam_mgmt (s : State) (n : Nat) (g : Team → Team) : (s.updTeam n g).mgmt = s.mgmt := by
  unfold State.updTeam; split <;> rfl
@[simp] theorem State.updTeam_start (s : State) (n : Nat) (g : Team → Team) : (s.updTeam n g).start = s.start := by
  unfold State.updTeam; split <;> rfl
@[simp] theorem State.updTeam_hbm (s : State) (n : Nat) (g : Team → Team) : (s.updTeam n g).hbm = s.hbm := by
  unfold State.updTeam; split <;> rfl
@[simp] theorem State.updTeam_log (s : State) (n : Nat) (g : Team → Team) : (s.updTeam n g).log = s.log := by
  unfold State.updTeam; split <;> rfl
@[simp] theorem State.updTeam_logHeld (s : State) (n : Nat) (g : Team → Team) : (s.updTeam n g).logHeld = s.logHeld := by
  unfold State.updTeam; split <;> rfl
@[simp] theorem State.updTeam_logSeq (s : State) (n : Nat) (g : Team → Team) : (s.updTeam n g).logSeq = s.logSeq := by
  unfold State.updTeam; split <;> rfl
@[simp] theorem State.updTeam_corrected (s : State) (n : Nat) (g : Team → Team) : (s.updTeam n g).corrected = s.corrected := by
  unfold State.updTeam; split <;> rfl
@[simp] theorem State.updTeam_time (s : State) (n : Nat) (g : Team → Team) : (s.updTeam n g).time = s.time := by
  unfold State.updTeam; split <;> rfl
@[simp] theorem State.updTeam_sel (s : State) (n : Nat) (g : Team → Team) : (s.updTeam n g).sel = s.sel := by
  unfold State.updTeam; split <;> rfl
@[simp] theorem State.updTeam_schedule (s : State) (n : Nat) (g : Team → Team) : (s.updTeam n g).schedule = s.schedule := by
  unfold State.updTeam; split <;> rfl
@[simp] theorem State.updTeam_agenda (s : State) (n : Nat) (g : Team → Team) : (s.updTeam n g).agenda = s.agenda := by
  unfold State.updTeam; split <;> rfl
@[simp] theorem State.updTeam_free (s : State) (n : Nat) (g : Team → Team) : (s.updTeam n g).free = s.free := by
  unfold State.updTeam; split <;> rfl

/-! `State.logRec`, which changes the log and raises a vector. -/

@[simp] theorem State.logWrite_mem (s : State) (k : Nat) (l : List Nat) : (s.logWrite k l).mem = s.mem := by
  unfold State.logWrite; extract_lets; split <;> rfl
@[simp] theorem State.logRec_mem (s : State) (k : Nat) (l : List Nat) : (s.logRec k l).mem = s.mem := by
  unfold State.logRec; extract_lets; split
  · rfl
  · exact State.logWrite_mem s k l
@[simp] theorem State.logWrite_marks (s : State) (k : Nat) (l : List Nat) : (s.logWrite k l).marks = s.marks := by
  unfold State.logWrite; extract_lets; split <;> rfl
@[simp] theorem State.logRec_marks (s : State) (k : Nat) (l : List Nat) : (s.logRec k l).marks = s.marks := by
  unfold State.logRec; extract_lets; split
  · rfl
  · exact State.logWrite_marks s k l
@[simp] theorem State.logWrite_teams (s : State) (k : Nat) (l : List Nat) : (s.logWrite k l).teams = s.teams := by
  unfold State.logWrite; extract_lets; split <;> rfl
@[simp] theorem State.logRec_teams (s : State) (k : Nat) (l : List Nat) : (s.logRec k l).teams = s.teams := by
  unfold State.logRec; extract_lets; split
  · rfl
  · exact State.logWrite_teams s k l
@[simp] theorem State.logWrite_swapped (s : State) (k : Nat) (l : List Nat) : (s.logWrite k l).swapped = s.swapped := by
  unfold State.logWrite; extract_lets; split <;> rfl
@[simp] theorem State.logRec_swapped (s : State) (k : Nat) (l : List Nat) : (s.logRec k l).swapped = s.swapped := by
  unfold State.logRec; extract_lets; split
  · rfl
  · exact State.logWrite_swapped s k l
@[simp] theorem State.logWrite_cores (s : State) (k : Nat) (l : List Nat) : (s.logWrite k l).cores = s.cores := by
  unfold State.logWrite; extract_lets; split <;> rfl
@[simp] theorem State.logRec_cores (s : State) (k : Nat) (l : List Nat) : (s.logRec k l).cores = s.cores := by
  unfold State.logRec; extract_lets; split
  · rfl
  · exact State.logWrite_cores s k l
@[simp] theorem State.logWrite_clks (s : State) (k : Nat) (l : List Nat) : (s.logWrite k l).clks = s.clks := by
  unfold State.logWrite; extract_lets; split <;> rfl
@[simp] theorem State.logRec_clks (s : State) (k : Nat) (l : List Nat) : (s.logRec k l).clks = s.clks := by
  unfold State.logRec; extract_lets; split
  · rfl
  · exact State.logWrite_clks s k l
@[simp] theorem State.logWrite_queues (s : State) (k : Nat) (l : List Nat) : (s.logWrite k l).queues = s.queues := by
  unfold State.logWrite; extract_lets; split <;> rfl
@[simp] theorem State.logRec_queues (s : State) (k : Nat) (l : List Nat) : (s.logRec k l).queues = s.queues := by
  unfold State.logRec; extract_lets; split
  · rfl
  · exact State.logWrite_queues s k l
@[simp] theorem State.logWrite_futures (s : State) (k : Nat) (l : List Nat) : (s.logWrite k l).futures = s.futures := by
  unfold State.logWrite; extract_lets; split <;> rfl
@[simp] theorem State.logRec_futures (s : State) (k : Nat) (l : List Nat) : (s.logRec k l).futures = s.futures := by
  unfold State.logRec; extract_lets; split
  · rfl
  · exact State.logWrite_futures s k l
@[simp] theorem State.logWrite_tickets (s : State) (k : Nat) (l : List Nat) : (s.logWrite k l).tickets = s.tickets := by
  unfold State.logWrite; extract_lets; split <;> rfl
@[simp] theorem State.logRec_tickets (s : State) (k : Nat) (l : List Nat) : (s.logRec k l).tickets = s.tickets := by
  unfold State.logRec; extract_lets; split
  · rfl
  · exact State.logWrite_tickets s k l
@[simp] theorem State.logWrite_stamped (s : State) (k : Nat) (l : List Nat) : (s.logWrite k l).stamped = s.stamped := by
  unfold State.logWrite; extract_lets; split <;> rfl
@[simp] theorem State.logRec_stamped (s : State) (k : Nat) (l : List Nat) : (s.logRec k l).stamped = s.stamped := by
  unfold State.logRec; extract_lets; split
  · rfl
  · exact State.logWrite_stamped s k l
@[simp] theorem State.logWrite_tasks (s : State) (k : Nat) (l : List Nat) : (s.logWrite k l).tasks = s.tasks := by
  unfold State.logWrite; extract_lets; split <;> rfl
@[simp] theorem State.logRec_tasks (s : State) (k : Nat) (l : List Nat) : (s.logRec k l).tasks = s.tasks := by
  unfold State.logRec; extract_lets; split
  · rfl
  · exact State.logWrite_tasks s k l
@[simp] theorem State.logWrite_nextTask (s : State) (k : Nat) (l : List Nat) : (s.logWrite k l).nextTask = s.nextTask := by
  unfold State.logWrite; extract_lets; split <;> rfl
@[simp] theorem State.logRec_nextTask (s : State) (k : Nat) (l : List Nat) : (s.logRec k l).nextTask = s.nextTask := by
  unfold State.logRec; extract_lets; split
  · rfl
  · exact State.logWrite_nextTask s k l
@[simp] theorem State.logWrite_sched (s : State) (k : Nat) (l : List Nat) : (s.logWrite k l).sched = s.sched := by
  unfold State.logWrite; extract_lets; split <;> rfl
@[simp] theorem State.logRec_sched (s : State) (k : Nat) (l : List Nat) : (s.logRec k l).sched = s.sched := by
  unfold State.logRec; extract_lets; split
  · rfl
  · exact State.logWrite_sched s k l
@[simp] theorem State.logWrite_asids (s : State) (k : Nat) (l : List Nat) : (s.logWrite k l).asids = s.asids := by
  unfold State.logWrite; extract_lets; split <;> rfl
@[simp] theorem State.logRec_asids (s : State) (k : Nat) (l : List Nat) : (s.logRec k l).asids = s.asids := by
  unfold State.logRec; extract_lets; split
  · rfl
  · exact State.logWrite_asids s k l
@[simp] theorem State.logWrite_snaps (s : State) (k : Nat) (l : List Nat) : (s.logWrite k l).snaps = s.snaps := by
  unfold State.logWrite; extract_lets; split <;> rfl
@[simp] theorem State.logRec_snaps (s : State) (k : Nat) (l : List Nat) : (s.logRec k l).snaps = s.snaps := by
  unfold State.logRec; extract_lets; split
  · rfl
  · exact State.logWrite_snaps s k l
@[simp] theorem State.logWrite_slots (s : State) (k : Nat) (l : List Nat) : (s.logWrite k l).slots = s.slots := by
  unfold State.logWrite; extract_lets; split <;> rfl
@[simp] theorem State.logRec_slots (s : State) (k : Nat) (l : List Nat) : (s.logRec k l).slots = s.slots := by
  unfold State.logRec; extract_lets; split
  · rfl
  · exact State.logWrite_slots s k l
@[simp] theorem State.logWrite_nextSlot (s : State) (k : Nat) (l : List Nat) : (s.logWrite k l).nextSlot = s.nextSlot := by
  unfold State.logWrite; extract_lets; split <;> rfl
@[simp] theorem State.logRec_nextSlot (s : State) (k : Nat) (l : List Nat) : (s.logRec k l).nextSlot = s.nextSlot := by
  unfold State.logRec; extract_lets; split
  · rfl
  · exact State.logWrite_nextSlot s k l
@[simp] theorem State.logWrite_restWork (s : State) (k : Nat) (l : List Nat) : (s.logWrite k l).restWork = s.restWork := by
  unfold State.logWrite; extract_lets; split <;> rfl
@[simp] theorem State.logRec_restWork (s : State) (k : Nat) (l : List Nat) : (s.logRec k l).restWork = s.restWork := by
  unfold State.logRec; extract_lets; split
  · rfl
  · exact State.logWrite_restWork s k l
@[simp] theorem State.logWrite_codecs (s : State) (k : Nat) (l : List Nat) : (s.logWrite k l).codecs = s.codecs := by
  unfold State.logWrite; extract_lets; split <;> rfl
@[simp] theorem State.logRec_codecs (s : State) (k : Nat) (l : List Nat) : (s.logRec k l).codecs = s.codecs := by
  unfold State.logRec; extract_lets; split
  · rfl
  · exact State.logWrite_codecs s k l
@[simp] theorem State.logWrite_tlbs (s : State) (k : Nat) (l : List Nat) : (s.logWrite k l).tlbs = s.tlbs := by
  unfold State.logWrite; extract_lets; split <;> rfl
@[simp] theorem State.logRec_tlbs (s : State) (k : Nat) (l : List Nat) : (s.logRec k l).tlbs = s.tlbs := by
  unfold State.logRec; extract_lets; split
  · rfl
  · exact State.logWrite_tlbs s k l
@[simp] theorem State.logWrite_walkers (s : State) (k : Nat) (l : List Nat) : (s.logWrite k l).walkers = s.walkers := by
  unfold State.logWrite; extract_lets; split <;> rfl
@[simp] theorem State.logRec_walkers (s : State) (k : Nat) (l : List Nat) : (s.logRec k l).walkers = s.walkers := by
  unfold State.logRec; extract_lets; split
  · rfl
  · exact State.logWrite_walkers s k l
@[simp] theorem State.logWrite_fabric (s : State) (k : Nat) (l : List Nat) : (s.logWrite k l).fabric = s.fabric := by
  unfold State.logWrite; extract_lets; split <;> rfl
@[simp] theorem State.logRec_fabric (s : State) (k : Nat) (l : List Nat) : (s.logRec k l).fabric = s.fabric := by
  unfold State.logRec; extract_lets; split
  · rfl
  · exact State.logWrite_fabric s k l
@[simp] theorem State.logWrite_atomq (s : State) (k : Nat) (l : List Nat) : (s.logWrite k l).atomq = s.atomq := by
  unfold State.logWrite; extract_lets; split <;> rfl
@[simp] theorem State.logRec_atomq (s : State) (k : Nat) (l : List Nat) : (s.logRec k l).atomq = s.atomq := by
  unfold State.logRec; extract_lets; split
  · rfl
  · exact State.logWrite_atomq s k l
@[simp] theorem State.logWrite_power (s : State) (k : Nat) (l : List Nat) : (s.logWrite k l).power = s.power := by
  unfold State.logWrite; extract_lets; split <;> rfl
@[simp] theorem State.logRec_power (s : State) (k : Nat) (l : List Nat) : (s.logRec k l).power = s.power := by
  unfold State.logRec; extract_lets; split
  · rfl
  · exact State.logWrite_power s k l
@[simp] theorem State.logWrite_mgmt (s : State) (k : Nat) (l : List Nat) : (s.logWrite k l).mgmt = s.mgmt := by
  unfold State.logWrite; extract_lets; split <;> rfl
@[simp] theorem State.logRec_mgmt (s : State) (k : Nat) (l : List Nat) : (s.logRec k l).mgmt = s.mgmt := by
  unfold State.logRec; extract_lets; split
  · rfl
  · exact State.logWrite_mgmt s k l
@[simp] theorem State.logWrite_start (s : State) (k : Nat) (l : List Nat) : (s.logWrite k l).start = s.start := by
  unfold State.logWrite; extract_lets; split <;> rfl
@[simp] theorem State.logRec_start (s : State) (k : Nat) (l : List Nat) : (s.logRec k l).start = s.start := by
  unfold State.logRec; extract_lets; split
  · rfl
  · exact State.logWrite_start s k l
@[simp] theorem State.logWrite_hbm (s : State) (k : Nat) (l : List Nat) : (s.logWrite k l).hbm = s.hbm := by
  unfold State.logWrite; extract_lets; split <;> rfl
@[simp] theorem State.logRec_hbm (s : State) (k : Nat) (l : List Nat) : (s.logRec k l).hbm = s.hbm := by
  unfold State.logRec; extract_lets; split
  · rfl
  · exact State.logWrite_hbm s k l
@[simp] theorem State.logWrite_corrected (s : State) (k : Nat) (l : List Nat) : (s.logWrite k l).corrected = s.corrected := by
  unfold State.logWrite; extract_lets; split <;> rfl
@[simp] theorem State.logRec_corrected (s : State) (k : Nat) (l : List Nat) : (s.logRec k l).corrected = s.corrected := by
  unfold State.logRec; extract_lets; split
  · rfl
  · exact State.logWrite_corrected s k l
@[simp] theorem State.logWrite_time (s : State) (k : Nat) (l : List Nat) : (s.logWrite k l).time = s.time := by
  unfold State.logWrite; extract_lets; split <;> rfl
@[simp] theorem State.logRec_time (s : State) (k : Nat) (l : List Nat) : (s.logRec k l).time = s.time := by
  unfold State.logRec; extract_lets; split
  · rfl
  · exact State.logWrite_time s k l
@[simp] theorem State.logWrite_sel (s : State) (k : Nat) (l : List Nat) : (s.logWrite k l).sel = s.sel := by
  unfold State.logWrite; extract_lets; split <;> rfl
@[simp] theorem State.logRec_sel (s : State) (k : Nat) (l : List Nat) : (s.logRec k l).sel = s.sel := by
  unfold State.logRec; extract_lets; split
  · rfl
  · exact State.logWrite_sel s k l
@[simp] theorem State.logWrite_schedule (s : State) (k : Nat) (l : List Nat) : (s.logWrite k l).schedule = s.schedule := by
  unfold State.logWrite; extract_lets; split <;> rfl
@[simp] theorem State.logRec_schedule (s : State) (k : Nat) (l : List Nat) : (s.logRec k l).schedule = s.schedule := by
  unfold State.logRec; extract_lets; split
  · rfl
  · exact State.logWrite_schedule s k l
@[simp] theorem State.logWrite_agenda (s : State) (k : Nat) (l : List Nat) : (s.logWrite k l).agenda = s.agenda := by
  unfold State.logWrite; extract_lets; split <;> rfl
@[simp] theorem State.logRec_agenda (s : State) (k : Nat) (l : List Nat) : (s.logRec k l).agenda = s.agenda := by
  unfold State.logRec; extract_lets; split
  · rfl
  · exact State.logWrite_agenda s k l
@[simp] theorem State.logWrite_free (s : State) (k : Nat) (l : List Nat) : (s.logWrite k l).free = s.free := by
  unfold State.logWrite; extract_lets; split <;> rfl
@[simp] theorem State.logRec_free (s : State) (k : Nat) (l : List Nat) : (s.logRec k l).free = s.free := by
  unfold State.logRec; extract_lets; split
  · rfl
  · exact State.logWrite_free s k l

/-! `Team.setCtl`, `Team.setS`, `Team.setK`, `Team.setX`, `Team.setM`, `Team.setChan`. -/

@[simp] theorem Team.setCtl_slot (t : Team) (e : Engine) (k : EngCtl) : (t.setCtl e k).slot = t.slot := by cases e <;> rfl
@[simp] theorem Team.setCtl_tid (t : Team) (e : Engine) (k : EngCtl) : (t.setCtl e k).tid = t.tid := by cases e <;> rfl
@[simp] theorem Team.setCtl_teamix (t : Team) (e : Engine) (k : EngCtl) : (t.setCtl e k).teamix = t.teamix := by cases e <;> rfl
@[simp] theorem Team.setCtl_gangix (t : Team) (e : Engine) (k : EngCtl) : (t.setCtl e k).gangix = t.gangix := by cases e <;> rfl
@[simp] theorem Team.setCtl_wid (t : Team) (e : Engine) (k : EngCtl) : (t.setCtl e k).wid = t.wid := by cases e <;> rfl
@[simp] theorem Team.setCtl_gang (t : Team) (e : Engine) (k : EngCtl) : (t.setCtl e k).gang = t.gang := by cases e <;> rfl
@[simp] theorem Team.setCtl_gather (t : Team) (e : Engine) (k : EngCtl) : (t.setCtl e k).gather = t.gather := by cases e <;> rfl
@[simp] theorem Team.setCtl_asid (t : Team) (e : Engine) (k : EngCtl) : (t.setCtl e k).asid = t.asid := by cases e <;> rfl
@[simp] theorem Team.setCtl_queue (t : Team) (e : Engine) (k : EngCtl) : (t.setCtl e k).queue = t.queue := by cases e <;> rfl
@[simp] theorem Team.setCtl_tag (t : Team) (e : Engine) (k : EngCtl) : (t.setCtl e k).tag = t.tag := by cases e <;> rfl
@[simp] theorem Team.setCtl_k (t : Team) (e : Engine) (k : EngCtl) : (t.setCtl e k).k = t.k := by cases e <;> rfl
@[simp] theorem Team.setCtl_res (t : Team) (e : Engine) (k : EngCtl) : (t.setCtl e k).res = t.res := by cases e <;> rfl
@[simp] theorem Team.setCtl_banksReady (t : Team) (e : Engine) (k : EngCtl) : (t.setCtl e k).banksReady = t.banksReady := by cases e <;> rfl
@[simp] theorem Team.setCtl_park (t : Team) (e : Engine) (k : EngCtl) : (t.setCtl e k).park = t.park := by cases e <;> rfl
@[simp] theorem Team.setCtl_woke (t : Team) (e : Engine) (k : EngCtl) : (t.setCtl e k).woke = t.woke := by cases e <;> rfl
@[simp] theorem Team.setCtl_aside (t : Team) (e : Engine) (k : EngCtl) : (t.setCtl e k).aside = t.aside := by cases e <;> rfl
@[simp] theorem Team.setCtl_leaving (t : Team) (e : Engine) (k : EngCtl) : (t.setCtl e k).leaving = t.leaving := by cases e <;> rfl
@[simp] theorem Team.setCtl_image (t : Team) (e : Engine) (k : EngCtl) : (t.setCtl e k).image = t.image := by cases e <;> rfl
@[simp] theorem Team.setCtl_halted (t : Team) (e : Engine) (k : EngCtl) : (t.setCtl e k).halted = t.halted := by cases e <;> rfl
@[simp] theorem Team.setCtl_preempt (t : Team) (e : Engine) (k : EngCtl) : (t.setCtl e k).preempt = t.preempt := by cases e <;> rfl
@[simp] theorem Team.setCtl_kill (t : Team) (e : Engine) (k : EngCtl) : (t.setCtl e k).kill = t.kill := by cases e <;> rfl
@[simp] theorem Team.setCtl_cycle (t : Team) (e : Engine) (k : EngCtl) : (t.setCtl e k).cycle = t.cycle := by cases e <;> rfl
@[simp] theorem Team.setCtl_status (t : Team) (e : Engine) (k : EngCtl) : (t.setCtl e k).status = t.status := by cases e <;> rfl
@[simp] theorem Team.setCtl_faults (t : Team) (e : Engine) (k : EngCtl) : (t.setCtl e k).faults = t.faults := by cases e <;> rfl
@[simp] theorem Team.setCtl_variant (t : Team) (e : Engine) (k : EngCtl) : (t.setCtl e k).variant = t.variant := by cases e <;> rfl
@[simp] theorem Team.setCtl_swptVar (t : Team) (e : Engine) (k : EngCtl) : (t.setCtl e k).swptVar = t.swptVar := by cases e <;> rfl
@[simp] theorem Team.setCtl_boost (t : Team) (e : Engine) (k : EngCtl) : (t.setCtl e k).boost = t.boost := by cases e <;> rfl
@[simp] theorem Team.setCtl_epc (t : Team) (e : Engine) (k : EngCtl) : (t.setCtl e k).epc = t.epc := by cases e <;> rfl
@[simp] theorem Team.setCtl_inHandler (t : Team) (e : Engine) (k : EngCtl) : (t.setCtl e k).inHandler = t.inHandler := by cases e <;> rfl
@[simp] theorem Team.setCtl_errored (t : Team) (e : Engine) (k : EngCtl) : (t.setCtl e k).errored = t.errored := by cases e <;> rfl
@[simp] theorem Team.setCtl_halting (t : Team) (e : Engine) (k : EngCtl) : (t.setCtl e k).halting = t.halting := by cases e <;> rfl
@[simp] theorem Team.setCtl_pend (t : Team) (e : Engine) (k : EngCtl) : (t.setCtl e k).pend = t.pend := by cases e <;> rfl
@[simp] theorem Team.setCtl_chans (t : Team) (e : Engine) (k : EngCtl) : (t.setCtl e k).chans = t.chans := by cases e <;> rfl
@[simp] theorem Team.setCtl_barSteps (t : Team) (e : Engine) (k : EngCtl) : (t.setCtl e k).barSteps = t.barSteps := by cases e <;> rfl
@[simp] theorem Team.setCtl_sp (t : Team) (e : Engine) (k : EngCtl) : (t.setCtl e k).sp = t.sp := by cases e <;> rfl
@[simp] theorem Team.setCtl_spMarks (t : Team) (e : Engine) (k : EngCtl) : (t.setCtl e k).spMarks = t.spMarks := by cases e <;> rfl
@[simp] theorem Team.setCtl_fmts (t : Team) (e : Engine) (k : EngCtl) : (t.setCtl e k).fmts = t.fmts := by cases e <;> rfl
@[simp] theorem Team.setCtl_dirs (t : Team) (e : Engine) (k : EngCtl) : (t.setCtl e k).dirs = t.dirs := by cases e <;> rfl
@[simp] theorem Team.setCtl_covers (t : Team) (e : Engine) (k : EngCtl) : (t.setCtl e k).covers = t.covers := by cases e <;> rfl
@[simp] theorem Team.setCtl_wIssued (t : Team) (e : Engine) (k : EngCtl) : (t.setCtl e k).wIssued = t.wIssued := by cases e <;> rfl
@[simp] theorem Team.setCtl_posted (t : Team) (e : Engine) (k : EngCtl) : (t.setCtl e k).posted = t.posted := by cases e <;> rfl
@[simp] theorem Team.setCtl_flushing (t : Team) (e : Engine) (k : EngCtl) : (t.setCtl e k).flushing = t.flushing := by cases e <;> rfl
@[simp] theorem Team.setCtl_flushSent (t : Team) (e : Engine) (k : EngCtl) : (t.setCtl e k).flushSent = t.flushSent := by cases e <;> rfl
@[simp] theorem Team.setCtl_waitDrain (t : Team) (e : Engine) (k : EngCtl) : (t.setCtl e k).waitDrain = t.waitDrain := by cases e <;> rfl
@[simp] theorem Team.setCtl_blocks (t : Team) (e : Engine) (k : EngCtl) : (t.setCtl e k).blocks = t.blocks := by cases e <;> rfl
@[simp] theorem Team.setCtl_pstarted (t : Team) (e : Engine) (k : EngCtl) : (t.setCtl e k).pstarted = t.pstarted := by cases e <;> rfl
@[simp] theorem Team.setCtl_pwaited (t : Team) (e : Engine) (k : EngCtl) : (t.setCtl e k).pwaited = t.pwaited := by cases e <;> rfl
@[simp] theorem Team.setCtl_scanDt (t : Team) (e : Engine) (k : EngCtl) : (t.setCtl e k).scanDt = t.scanDt := by cases e <;> rfl
@[simp] theorem Team.setCtl_scan (t : Team) (e : Engine) (k : EngCtl) : (t.setCtl e k).scan = t.scan := by cases e <;> rfl
@[simp] theorem Team.setCtl_exiting (t : Team) (e : Engine) (k : EngCtl) : (t.setCtl e k).exiting = t.exiting := by cases e <;> rfl
@[simp] theorem Team.setCtl_issueTime (t : Team) (e : Engine) (k : EngCtl) : (t.setCtl e k).issueTime = t.issueTime := by cases e <;> rfl
@[simp] theorem Team.setCtl_since (t : Team) (e : Engine) (k : EngCtl) : (t.setCtl e k).since = t.since := by cases e <;> rfl
@[simp] theorem Team.setCtl_issuedAt (t : Team) (e : Engine) (k : EngCtl) : (t.setCtl e k).issuedAt = t.issuedAt := by cases e <;> rfl
@[simp] theorem Team.setCtl_lastCharge (t : Team) (e : Engine) (k : EngCtl) : (t.setCtl e k).lastCharge = t.lastCharge := by cases e <;> rfl
@[simp] theorem Team.setCtl_dropping (t : Team) (e : Engine) (k : EngCtl) : (t.setCtl e k).dropping = t.dropping := by cases e <;> rfl
@[simp] theorem Team.setCtl_dropRg (t : Team) (e : Engine) (k : EngCtl) : (t.setCtl e k).dropRg = t.dropRg := by cases e <;> rfl
@[simp] theorem Team.setCtl_ports (t : Team) (e : Engine) (k : EngCtl) : (t.setCtl e k).ports = t.ports := by cases e <;> rfl
@[simp] theorem Team.setCtl_tdSlot (t : Team) (e : Engine) (k : EngCtl) : (t.setCtl e k).tdSlot = t.tdSlot := by cases e <;> rfl
@[simp] theorem Team.setS_slot (t : Team) (r : BitVec 6) (v : DWord) : (t.setS r v).slot = t.slot := by unfold Team.setS; split <;> rfl
@[simp] theorem Team.setS_tid (t : Team) (r : BitVec 6) (v : DWord) : (t.setS r v).tid = t.tid := by unfold Team.setS; split <;> rfl
@[simp] theorem Team.setS_teamix (t : Team) (r : BitVec 6) (v : DWord) : (t.setS r v).teamix = t.teamix := by unfold Team.setS; split <;> rfl
@[simp] theorem Team.setS_gangix (t : Team) (r : BitVec 6) (v : DWord) : (t.setS r v).gangix = t.gangix := by unfold Team.setS; split <;> rfl
@[simp] theorem Team.setS_wid (t : Team) (r : BitVec 6) (v : DWord) : (t.setS r v).wid = t.wid := by unfold Team.setS; split <;> rfl
@[simp] theorem Team.setS_gang (t : Team) (r : BitVec 6) (v : DWord) : (t.setS r v).gang = t.gang := by unfold Team.setS; split <;> rfl
@[simp] theorem Team.setS_gather (t : Team) (r : BitVec 6) (v : DWord) : (t.setS r v).gather = t.gather := by unfold Team.setS; split <;> rfl
@[simp] theorem Team.setS_asid (t : Team) (r : BitVec 6) (v : DWord) : (t.setS r v).asid = t.asid := by unfold Team.setS; split <;> rfl
@[simp] theorem Team.setS_queue (t : Team) (r : BitVec 6) (v : DWord) : (t.setS r v).queue = t.queue := by unfold Team.setS; split <;> rfl
@[simp] theorem Team.setS_tag (t : Team) (r : BitVec 6) (v : DWord) : (t.setS r v).tag = t.tag := by unfold Team.setS; split <;> rfl
@[simp] theorem Team.setS_k (t : Team) (r : BitVec 6) (v : DWord) : (t.setS r v).k = t.k := by unfold Team.setS; split <;> rfl
@[simp] theorem Team.setS_res (t : Team) (r : BitVec 6) (v : DWord) : (t.setS r v).res = t.res := by unfold Team.setS; split <;> rfl
@[simp] theorem Team.setS_banksReady (t : Team) (r : BitVec 6) (v : DWord) : (t.setS r v).banksReady = t.banksReady := by unfold Team.setS; split <;> rfl
@[simp] theorem Team.setS_park (t : Team) (r : BitVec 6) (v : DWord) : (t.setS r v).park = t.park := by unfold Team.setS; split <;> rfl
@[simp] theorem Team.setS_woke (t : Team) (r : BitVec 6) (v : DWord) : (t.setS r v).woke = t.woke := by unfold Team.setS; split <;> rfl
@[simp] theorem Team.setS_aside (t : Team) (r : BitVec 6) (v : DWord) : (t.setS r v).aside = t.aside := by unfold Team.setS; split <;> rfl
@[simp] theorem Team.setS_leaving (t : Team) (r : BitVec 6) (v : DWord) : (t.setS r v).leaving = t.leaving := by unfold Team.setS; split <;> rfl
@[simp] theorem Team.setS_image (t : Team) (r : BitVec 6) (v : DWord) : (t.setS r v).image = t.image := by unfold Team.setS; split <;> rfl
@[simp] theorem Team.setS_halted (t : Team) (r : BitVec 6) (v : DWord) : (t.setS r v).halted = t.halted := by unfold Team.setS; split <;> rfl
@[simp] theorem Team.setS_preempt (t : Team) (r : BitVec 6) (v : DWord) : (t.setS r v).preempt = t.preempt := by unfold Team.setS; split <;> rfl
@[simp] theorem Team.setS_kill (t : Team) (r : BitVec 6) (v : DWord) : (t.setS r v).kill = t.kill := by unfold Team.setS; split <;> rfl
@[simp] theorem Team.setS_cycle (t : Team) (r : BitVec 6) (v : DWord) : (t.setS r v).cycle = t.cycle := by unfold Team.setS; split <;> rfl
@[simp] theorem Team.setS_status (t : Team) (r : BitVec 6) (v : DWord) : (t.setS r v).status = t.status := by unfold Team.setS; split <;> rfl
@[simp] theorem Team.setS_faults (t : Team) (r : BitVec 6) (v : DWord) : (t.setS r v).faults = t.faults := by unfold Team.setS; split <;> rfl
@[simp] theorem Team.setS_variant (t : Team) (r : BitVec 6) (v : DWord) : (t.setS r v).variant = t.variant := by unfold Team.setS; split <;> rfl
@[simp] theorem Team.setS_swptVar (t : Team) (r : BitVec 6) (v : DWord) : (t.setS r v).swptVar = t.swptVar := by unfold Team.setS; split <;> rfl
@[simp] theorem Team.setS_boost (t : Team) (r : BitVec 6) (v : DWord) : (t.setS r v).boost = t.boost := by unfold Team.setS; split <;> rfl
@[simp] theorem Team.setS_epc (t : Team) (r : BitVec 6) (v : DWord) : (t.setS r v).epc = t.epc := by unfold Team.setS; split <;> rfl
@[simp] theorem Team.setS_inHandler (t : Team) (r : BitVec 6) (v : DWord) : (t.setS r v).inHandler = t.inHandler := by unfold Team.setS; split <;> rfl
@[simp] theorem Team.setS_errored (t : Team) (r : BitVec 6) (v : DWord) : (t.setS r v).errored = t.errored := by unfold Team.setS; split <;> rfl
@[simp] theorem Team.setS_halting (t : Team) (r : BitVec 6) (v : DWord) : (t.setS r v).halting = t.halting := by unfold Team.setS; split <;> rfl
@[simp] theorem Team.setS_pend (t : Team) (r : BitVec 6) (v : DWord) : (t.setS r v).pend = t.pend := by unfold Team.setS; split <;> rfl
@[simp] theorem Team.setS_chans (t : Team) (r : BitVec 6) (v : DWord) : (t.setS r v).chans = t.chans := by unfold Team.setS; split <;> rfl
@[simp] theorem Team.setS_barSteps (t : Team) (r : BitVec 6) (v : DWord) : (t.setS r v).barSteps = t.barSteps := by unfold Team.setS; split <;> rfl
@[simp] theorem Team.setS_sp (t : Team) (r : BitVec 6) (v : DWord) : (t.setS r v).sp = t.sp := by unfold Team.setS; split <;> rfl
@[simp] theorem Team.setS_spMarks (t : Team) (r : BitVec 6) (v : DWord) : (t.setS r v).spMarks = t.spMarks := by unfold Team.setS; split <;> rfl
@[simp] theorem Team.setS_fmts (t : Team) (r : BitVec 6) (v : DWord) : (t.setS r v).fmts = t.fmts := by unfold Team.setS; split <;> rfl
@[simp] theorem Team.setS_dirs (t : Team) (r : BitVec 6) (v : DWord) : (t.setS r v).dirs = t.dirs := by unfold Team.setS; split <;> rfl
@[simp] theorem Team.setS_covers (t : Team) (r : BitVec 6) (v : DWord) : (t.setS r v).covers = t.covers := by unfold Team.setS; split <;> rfl
@[simp] theorem Team.setS_wIssued (t : Team) (r : BitVec 6) (v : DWord) : (t.setS r v).wIssued = t.wIssued := by unfold Team.setS; split <;> rfl
@[simp] theorem Team.setS_posted (t : Team) (r : BitVec 6) (v : DWord) : (t.setS r v).posted = t.posted := by unfold Team.setS; split <;> rfl
@[simp] theorem Team.setS_flushing (t : Team) (r : BitVec 6) (v : DWord) : (t.setS r v).flushing = t.flushing := by unfold Team.setS; split <;> rfl
@[simp] theorem Team.setS_flushSent (t : Team) (r : BitVec 6) (v : DWord) : (t.setS r v).flushSent = t.flushSent := by unfold Team.setS; split <;> rfl
@[simp] theorem Team.setS_waitDrain (t : Team) (r : BitVec 6) (v : DWord) : (t.setS r v).waitDrain = t.waitDrain := by unfold Team.setS; split <;> rfl
@[simp] theorem Team.setS_blocks (t : Team) (r : BitVec 6) (v : DWord) : (t.setS r v).blocks = t.blocks := by unfold Team.setS; split <;> rfl
@[simp] theorem Team.setS_pstarted (t : Team) (r : BitVec 6) (v : DWord) : (t.setS r v).pstarted = t.pstarted := by unfold Team.setS; split <;> rfl
@[simp] theorem Team.setS_pwaited (t : Team) (r : BitVec 6) (v : DWord) : (t.setS r v).pwaited = t.pwaited := by unfold Team.setS; split <;> rfl
@[simp] theorem Team.setS_scanDt (t : Team) (r : BitVec 6) (v : DWord) : (t.setS r v).scanDt = t.scanDt := by unfold Team.setS; split <;> rfl
@[simp] theorem Team.setS_scan (t : Team) (r : BitVec 6) (v : DWord) : (t.setS r v).scan = t.scan := by unfold Team.setS; split <;> rfl
@[simp] theorem Team.setS_exiting (t : Team) (r : BitVec 6) (v : DWord) : (t.setS r v).exiting = t.exiting := by unfold Team.setS; split <;> rfl
@[simp] theorem Team.setS_issueTime (t : Team) (r : BitVec 6) (v : DWord) : (t.setS r v).issueTime = t.issueTime := by unfold Team.setS; split <;> rfl
@[simp] theorem Team.setS_since (t : Team) (r : BitVec 6) (v : DWord) : (t.setS r v).since = t.since := by unfold Team.setS; split <;> rfl
@[simp] theorem Team.setS_issuedAt (t : Team) (r : BitVec 6) (v : DWord) : (t.setS r v).issuedAt = t.issuedAt := by unfold Team.setS; split <;> rfl
@[simp] theorem Team.setS_lastCharge (t : Team) (r : BitVec 6) (v : DWord) : (t.setS r v).lastCharge = t.lastCharge := by unfold Team.setS; split <;> rfl
@[simp] theorem Team.setS_dropping (t : Team) (r : BitVec 6) (v : DWord) : (t.setS r v).dropping = t.dropping := by unfold Team.setS; split <;> rfl
@[simp] theorem Team.setS_dropRg (t : Team) (r : BitVec 6) (v : DWord) : (t.setS r v).dropRg = t.dropRg := by unfold Team.setS; split <;> rfl
@[simp] theorem Team.setS_ports (t : Team) (r : BitVec 6) (v : DWord) : (t.setS r v).ports = t.ports := by unfold Team.setS; split <;> rfl
@[simp] theorem Team.setS_tdSlot (t : Team) (r : BitVec 6) (v : DWord) : (t.setS r v).tdSlot = t.tdSlot := by unfold Team.setS; split <;> rfl
@[simp] theorem Team.setS_ve (t : Team) (r : BitVec 6) (v : DWord) : (t.setS r v).ve = t.ve := by unfold Team.setS; split <;> rfl
@[simp] theorem Team.setS_me (t : Team) (r : BitVec 6) (v : DWord) : (t.setS r v).me = t.me := by unfold Team.setS; split <;> rfl
@[simp] theorem Team.setS_tu0 (t : Team) (r : BitVec 6) (v : DWord) : (t.setS r v).tu0 = t.tu0 := by unfold Team.setS; split <;> rfl
@[simp] theorem Team.setS_tu1 (t : Team) (r : BitVec 6) (v : DWord) : (t.setS r v).tu1 = t.tu1 := by unfold Team.setS; split <;> rfl
@[simp] theorem Team.setS_gq (t : Team) (r : BitVec 6) (v : DWord) : (t.setS r v).gq = t.gq := by unfold Team.setS; split <;> rfl
@[simp] theorem Team.setK_slot (t : Team) (r : BitVec 4) (v : DWord) : (t.setK r v).slot = t.slot := rfl
@[simp] theorem Team.setX_slot (t : Team) (r : BitVec 4) (v : BitVec 23) : (t.setX r v).slot = t.slot := rfl
@[simp] theorem Team.setM_slot (t : Team) (r : BitVec 3) (v : BitVec 1024) : (t.setM r v).slot = t.slot := by unfold Team.setM; split <;> rfl
@[simp] theorem Team.setK_tid (t : Team) (r : BitVec 4) (v : DWord) : (t.setK r v).tid = t.tid := rfl
@[simp] theorem Team.setX_tid (t : Team) (r : BitVec 4) (v : BitVec 23) : (t.setX r v).tid = t.tid := rfl
@[simp] theorem Team.setM_tid (t : Team) (r : BitVec 3) (v : BitVec 1024) : (t.setM r v).tid = t.tid := by unfold Team.setM; split <;> rfl
@[simp] theorem Team.setK_teamix (t : Team) (r : BitVec 4) (v : DWord) : (t.setK r v).teamix = t.teamix := rfl
@[simp] theorem Team.setX_teamix (t : Team) (r : BitVec 4) (v : BitVec 23) : (t.setX r v).teamix = t.teamix := rfl
@[simp] theorem Team.setM_teamix (t : Team) (r : BitVec 3) (v : BitVec 1024) : (t.setM r v).teamix = t.teamix := by unfold Team.setM; split <;> rfl
@[simp] theorem Team.setK_gangix (t : Team) (r : BitVec 4) (v : DWord) : (t.setK r v).gangix = t.gangix := rfl
@[simp] theorem Team.setX_gangix (t : Team) (r : BitVec 4) (v : BitVec 23) : (t.setX r v).gangix = t.gangix := rfl
@[simp] theorem Team.setM_gangix (t : Team) (r : BitVec 3) (v : BitVec 1024) : (t.setM r v).gangix = t.gangix := by unfold Team.setM; split <;> rfl
@[simp] theorem Team.setK_wid (t : Team) (r : BitVec 4) (v : DWord) : (t.setK r v).wid = t.wid := rfl
@[simp] theorem Team.setX_wid (t : Team) (r : BitVec 4) (v : BitVec 23) : (t.setX r v).wid = t.wid := rfl
@[simp] theorem Team.setM_wid (t : Team) (r : BitVec 3) (v : BitVec 1024) : (t.setM r v).wid = t.wid := by unfold Team.setM; split <;> rfl
@[simp] theorem Team.setK_gang (t : Team) (r : BitVec 4) (v : DWord) : (t.setK r v).gang = t.gang := rfl
@[simp] theorem Team.setX_gang (t : Team) (r : BitVec 4) (v : BitVec 23) : (t.setX r v).gang = t.gang := rfl
@[simp] theorem Team.setM_gang (t : Team) (r : BitVec 3) (v : BitVec 1024) : (t.setM r v).gang = t.gang := by unfold Team.setM; split <;> rfl
@[simp] theorem Team.setK_gather (t : Team) (r : BitVec 4) (v : DWord) : (t.setK r v).gather = t.gather := rfl
@[simp] theorem Team.setX_gather (t : Team) (r : BitVec 4) (v : BitVec 23) : (t.setX r v).gather = t.gather := rfl
@[simp] theorem Team.setM_gather (t : Team) (r : BitVec 3) (v : BitVec 1024) : (t.setM r v).gather = t.gather := by unfold Team.setM; split <;> rfl
@[simp] theorem Team.setK_asid (t : Team) (r : BitVec 4) (v : DWord) : (t.setK r v).asid = t.asid := rfl
@[simp] theorem Team.setX_asid (t : Team) (r : BitVec 4) (v : BitVec 23) : (t.setX r v).asid = t.asid := rfl
@[simp] theorem Team.setM_asid (t : Team) (r : BitVec 3) (v : BitVec 1024) : (t.setM r v).asid = t.asid := by unfold Team.setM; split <;> rfl
@[simp] theorem Team.setK_queue (t : Team) (r : BitVec 4) (v : DWord) : (t.setK r v).queue = t.queue := rfl
@[simp] theorem Team.setX_queue (t : Team) (r : BitVec 4) (v : BitVec 23) : (t.setX r v).queue = t.queue := rfl
@[simp] theorem Team.setM_queue (t : Team) (r : BitVec 3) (v : BitVec 1024) : (t.setM r v).queue = t.queue := by unfold Team.setM; split <;> rfl
@[simp] theorem Team.setK_tag (t : Team) (r : BitVec 4) (v : DWord) : (t.setK r v).tag = t.tag := rfl
@[simp] theorem Team.setX_tag (t : Team) (r : BitVec 4) (v : BitVec 23) : (t.setX r v).tag = t.tag := rfl
@[simp] theorem Team.setM_tag (t : Team) (r : BitVec 3) (v : BitVec 1024) : (t.setM r v).tag = t.tag := by unfold Team.setM; split <;> rfl
@[simp] theorem Team.setK_k (t : Team) (r : BitVec 4) (v : DWord) : (t.setK r v).k = t.k := rfl
@[simp] theorem Team.setX_k (t : Team) (r : BitVec 4) (v : BitVec 23) : (t.setX r v).k = t.k := rfl
@[simp] theorem Team.setM_k (t : Team) (r : BitVec 3) (v : BitVec 1024) : (t.setM r v).k = t.k := by unfold Team.setM; split <;> rfl
@[simp] theorem Team.setK_res (t : Team) (r : BitVec 4) (v : DWord) : (t.setK r v).res = t.res := rfl
@[simp] theorem Team.setX_res (t : Team) (r : BitVec 4) (v : BitVec 23) : (t.setX r v).res = t.res := rfl
@[simp] theorem Team.setM_res (t : Team) (r : BitVec 3) (v : BitVec 1024) : (t.setM r v).res = t.res := by unfold Team.setM; split <;> rfl
@[simp] theorem Team.setK_banksReady (t : Team) (r : BitVec 4) (v : DWord) : (t.setK r v).banksReady = t.banksReady := rfl
@[simp] theorem Team.setX_banksReady (t : Team) (r : BitVec 4) (v : BitVec 23) : (t.setX r v).banksReady = t.banksReady := rfl
@[simp] theorem Team.setM_banksReady (t : Team) (r : BitVec 3) (v : BitVec 1024) : (t.setM r v).banksReady = t.banksReady := by unfold Team.setM; split <;> rfl
@[simp] theorem Team.setK_park (t : Team) (r : BitVec 4) (v : DWord) : (t.setK r v).park = t.park := rfl
@[simp] theorem Team.setX_park (t : Team) (r : BitVec 4) (v : BitVec 23) : (t.setX r v).park = t.park := rfl
@[simp] theorem Team.setM_park (t : Team) (r : BitVec 3) (v : BitVec 1024) : (t.setM r v).park = t.park := by unfold Team.setM; split <;> rfl
@[simp] theorem Team.setK_woke (t : Team) (r : BitVec 4) (v : DWord) : (t.setK r v).woke = t.woke := rfl
@[simp] theorem Team.setX_woke (t : Team) (r : BitVec 4) (v : BitVec 23) : (t.setX r v).woke = t.woke := rfl
@[simp] theorem Team.setM_woke (t : Team) (r : BitVec 3) (v : BitVec 1024) : (t.setM r v).woke = t.woke := by unfold Team.setM; split <;> rfl
@[simp] theorem Team.setK_aside (t : Team) (r : BitVec 4) (v : DWord) : (t.setK r v).aside = t.aside := rfl
@[simp] theorem Team.setX_aside (t : Team) (r : BitVec 4) (v : BitVec 23) : (t.setX r v).aside = t.aside := rfl
@[simp] theorem Team.setM_aside (t : Team) (r : BitVec 3) (v : BitVec 1024) : (t.setM r v).aside = t.aside := by unfold Team.setM; split <;> rfl
@[simp] theorem Team.setK_leaving (t : Team) (r : BitVec 4) (v : DWord) : (t.setK r v).leaving = t.leaving := rfl
@[simp] theorem Team.setX_leaving (t : Team) (r : BitVec 4) (v : BitVec 23) : (t.setX r v).leaving = t.leaving := rfl
@[simp] theorem Team.setM_leaving (t : Team) (r : BitVec 3) (v : BitVec 1024) : (t.setM r v).leaving = t.leaving := by unfold Team.setM; split <;> rfl
@[simp] theorem Team.setK_image (t : Team) (r : BitVec 4) (v : DWord) : (t.setK r v).image = t.image := rfl
@[simp] theorem Team.setX_image (t : Team) (r : BitVec 4) (v : BitVec 23) : (t.setX r v).image = t.image := rfl
@[simp] theorem Team.setM_image (t : Team) (r : BitVec 3) (v : BitVec 1024) : (t.setM r v).image = t.image := by unfold Team.setM; split <;> rfl
@[simp] theorem Team.setK_halted (t : Team) (r : BitVec 4) (v : DWord) : (t.setK r v).halted = t.halted := rfl
@[simp] theorem Team.setX_halted (t : Team) (r : BitVec 4) (v : BitVec 23) : (t.setX r v).halted = t.halted := rfl
@[simp] theorem Team.setM_halted (t : Team) (r : BitVec 3) (v : BitVec 1024) : (t.setM r v).halted = t.halted := by unfold Team.setM; split <;> rfl
@[simp] theorem Team.setK_preempt (t : Team) (r : BitVec 4) (v : DWord) : (t.setK r v).preempt = t.preempt := rfl
@[simp] theorem Team.setX_preempt (t : Team) (r : BitVec 4) (v : BitVec 23) : (t.setX r v).preempt = t.preempt := rfl
@[simp] theorem Team.setM_preempt (t : Team) (r : BitVec 3) (v : BitVec 1024) : (t.setM r v).preempt = t.preempt := by unfold Team.setM; split <;> rfl
@[simp] theorem Team.setK_kill (t : Team) (r : BitVec 4) (v : DWord) : (t.setK r v).kill = t.kill := rfl
@[simp] theorem Team.setX_kill (t : Team) (r : BitVec 4) (v : BitVec 23) : (t.setX r v).kill = t.kill := rfl
@[simp] theorem Team.setM_kill (t : Team) (r : BitVec 3) (v : BitVec 1024) : (t.setM r v).kill = t.kill := by unfold Team.setM; split <;> rfl
@[simp] theorem Team.setK_cycle (t : Team) (r : BitVec 4) (v : DWord) : (t.setK r v).cycle = t.cycle := rfl
@[simp] theorem Team.setX_cycle (t : Team) (r : BitVec 4) (v : BitVec 23) : (t.setX r v).cycle = t.cycle := rfl
@[simp] theorem Team.setM_cycle (t : Team) (r : BitVec 3) (v : BitVec 1024) : (t.setM r v).cycle = t.cycle := by unfold Team.setM; split <;> rfl
@[simp] theorem Team.setK_status (t : Team) (r : BitVec 4) (v : DWord) : (t.setK r v).status = t.status := rfl
@[simp] theorem Team.setX_status (t : Team) (r : BitVec 4) (v : BitVec 23) : (t.setX r v).status = t.status := rfl
@[simp] theorem Team.setM_status (t : Team) (r : BitVec 3) (v : BitVec 1024) : (t.setM r v).status = t.status := by unfold Team.setM; split <;> rfl
@[simp] theorem Team.setK_faults (t : Team) (r : BitVec 4) (v : DWord) : (t.setK r v).faults = t.faults := rfl
@[simp] theorem Team.setX_faults (t : Team) (r : BitVec 4) (v : BitVec 23) : (t.setX r v).faults = t.faults := rfl
@[simp] theorem Team.setM_faults (t : Team) (r : BitVec 3) (v : BitVec 1024) : (t.setM r v).faults = t.faults := by unfold Team.setM; split <;> rfl
@[simp] theorem Team.setK_variant (t : Team) (r : BitVec 4) (v : DWord) : (t.setK r v).variant = t.variant := rfl
@[simp] theorem Team.setX_variant (t : Team) (r : BitVec 4) (v : BitVec 23) : (t.setX r v).variant = t.variant := rfl
@[simp] theorem Team.setM_variant (t : Team) (r : BitVec 3) (v : BitVec 1024) : (t.setM r v).variant = t.variant := by unfold Team.setM; split <;> rfl
@[simp] theorem Team.setK_swptVar (t : Team) (r : BitVec 4) (v : DWord) : (t.setK r v).swptVar = t.swptVar := rfl
@[simp] theorem Team.setX_swptVar (t : Team) (r : BitVec 4) (v : BitVec 23) : (t.setX r v).swptVar = t.swptVar := rfl
@[simp] theorem Team.setM_swptVar (t : Team) (r : BitVec 3) (v : BitVec 1024) : (t.setM r v).swptVar = t.swptVar := by unfold Team.setM; split <;> rfl
@[simp] theorem Team.setK_boost (t : Team) (r : BitVec 4) (v : DWord) : (t.setK r v).boost = t.boost := rfl
@[simp] theorem Team.setX_boost (t : Team) (r : BitVec 4) (v : BitVec 23) : (t.setX r v).boost = t.boost := rfl
@[simp] theorem Team.setM_boost (t : Team) (r : BitVec 3) (v : BitVec 1024) : (t.setM r v).boost = t.boost := by unfold Team.setM; split <;> rfl
@[simp] theorem Team.setK_epc (t : Team) (r : BitVec 4) (v : DWord) : (t.setK r v).epc = t.epc := rfl
@[simp] theorem Team.setX_epc (t : Team) (r : BitVec 4) (v : BitVec 23) : (t.setX r v).epc = t.epc := rfl
@[simp] theorem Team.setM_epc (t : Team) (r : BitVec 3) (v : BitVec 1024) : (t.setM r v).epc = t.epc := by unfold Team.setM; split <;> rfl
@[simp] theorem Team.setK_inHandler (t : Team) (r : BitVec 4) (v : DWord) : (t.setK r v).inHandler = t.inHandler := rfl
@[simp] theorem Team.setX_inHandler (t : Team) (r : BitVec 4) (v : BitVec 23) : (t.setX r v).inHandler = t.inHandler := rfl
@[simp] theorem Team.setM_inHandler (t : Team) (r : BitVec 3) (v : BitVec 1024) : (t.setM r v).inHandler = t.inHandler := by unfold Team.setM; split <;> rfl
@[simp] theorem Team.setK_errored (t : Team) (r : BitVec 4) (v : DWord) : (t.setK r v).errored = t.errored := rfl
@[simp] theorem Team.setX_errored (t : Team) (r : BitVec 4) (v : BitVec 23) : (t.setX r v).errored = t.errored := rfl
@[simp] theorem Team.setM_errored (t : Team) (r : BitVec 3) (v : BitVec 1024) : (t.setM r v).errored = t.errored := by unfold Team.setM; split <;> rfl
@[simp] theorem Team.setK_halting (t : Team) (r : BitVec 4) (v : DWord) : (t.setK r v).halting = t.halting := rfl
@[simp] theorem Team.setX_halting (t : Team) (r : BitVec 4) (v : BitVec 23) : (t.setX r v).halting = t.halting := rfl
@[simp] theorem Team.setM_halting (t : Team) (r : BitVec 3) (v : BitVec 1024) : (t.setM r v).halting = t.halting := by unfold Team.setM; split <;> rfl
@[simp] theorem Team.setK_pend (t : Team) (r : BitVec 4) (v : DWord) : (t.setK r v).pend = t.pend := rfl
@[simp] theorem Team.setX_pend (t : Team) (r : BitVec 4) (v : BitVec 23) : (t.setX r v).pend = t.pend := rfl
@[simp] theorem Team.setM_pend (t : Team) (r : BitVec 3) (v : BitVec 1024) : (t.setM r v).pend = t.pend := by unfold Team.setM; split <;> rfl
@[simp] theorem Team.setK_chans (t : Team) (r : BitVec 4) (v : DWord) : (t.setK r v).chans = t.chans := rfl
@[simp] theorem Team.setX_chans (t : Team) (r : BitVec 4) (v : BitVec 23) : (t.setX r v).chans = t.chans := rfl
@[simp] theorem Team.setM_chans (t : Team) (r : BitVec 3) (v : BitVec 1024) : (t.setM r v).chans = t.chans := by unfold Team.setM; split <;> rfl
@[simp] theorem Team.setK_barSteps (t : Team) (r : BitVec 4) (v : DWord) : (t.setK r v).barSteps = t.barSteps := rfl
@[simp] theorem Team.setX_barSteps (t : Team) (r : BitVec 4) (v : BitVec 23) : (t.setX r v).barSteps = t.barSteps := rfl
@[simp] theorem Team.setM_barSteps (t : Team) (r : BitVec 3) (v : BitVec 1024) : (t.setM r v).barSteps = t.barSteps := by unfold Team.setM; split <;> rfl
@[simp] theorem Team.setK_sp (t : Team) (r : BitVec 4) (v : DWord) : (t.setK r v).sp = t.sp := rfl
@[simp] theorem Team.setX_sp (t : Team) (r : BitVec 4) (v : BitVec 23) : (t.setX r v).sp = t.sp := rfl
@[simp] theorem Team.setM_sp (t : Team) (r : BitVec 3) (v : BitVec 1024) : (t.setM r v).sp = t.sp := by unfold Team.setM; split <;> rfl
@[simp] theorem Team.setK_spMarks (t : Team) (r : BitVec 4) (v : DWord) : (t.setK r v).spMarks = t.spMarks := rfl
@[simp] theorem Team.setX_spMarks (t : Team) (r : BitVec 4) (v : BitVec 23) : (t.setX r v).spMarks = t.spMarks := rfl
@[simp] theorem Team.setM_spMarks (t : Team) (r : BitVec 3) (v : BitVec 1024) : (t.setM r v).spMarks = t.spMarks := by unfold Team.setM; split <;> rfl
@[simp] theorem Team.setK_fmts (t : Team) (r : BitVec 4) (v : DWord) : (t.setK r v).fmts = t.fmts := rfl
@[simp] theorem Team.setX_fmts (t : Team) (r : BitVec 4) (v : BitVec 23) : (t.setX r v).fmts = t.fmts := rfl
@[simp] theorem Team.setM_fmts (t : Team) (r : BitVec 3) (v : BitVec 1024) : (t.setM r v).fmts = t.fmts := by unfold Team.setM; split <;> rfl
@[simp] theorem Team.setK_dirs (t : Team) (r : BitVec 4) (v : DWord) : (t.setK r v).dirs = t.dirs := rfl
@[simp] theorem Team.setX_dirs (t : Team) (r : BitVec 4) (v : BitVec 23) : (t.setX r v).dirs = t.dirs := rfl
@[simp] theorem Team.setM_dirs (t : Team) (r : BitVec 3) (v : BitVec 1024) : (t.setM r v).dirs = t.dirs := by unfold Team.setM; split <;> rfl
@[simp] theorem Team.setK_covers (t : Team) (r : BitVec 4) (v : DWord) : (t.setK r v).covers = t.covers := rfl
@[simp] theorem Team.setX_covers (t : Team) (r : BitVec 4) (v : BitVec 23) : (t.setX r v).covers = t.covers := rfl
@[simp] theorem Team.setM_covers (t : Team) (r : BitVec 3) (v : BitVec 1024) : (t.setM r v).covers = t.covers := by unfold Team.setM; split <;> rfl
@[simp] theorem Team.setK_wIssued (t : Team) (r : BitVec 4) (v : DWord) : (t.setK r v).wIssued = t.wIssued := rfl
@[simp] theorem Team.setX_wIssued (t : Team) (r : BitVec 4) (v : BitVec 23) : (t.setX r v).wIssued = t.wIssued := rfl
@[simp] theorem Team.setM_wIssued (t : Team) (r : BitVec 3) (v : BitVec 1024) : (t.setM r v).wIssued = t.wIssued := by unfold Team.setM; split <;> rfl
@[simp] theorem Team.setK_posted (t : Team) (r : BitVec 4) (v : DWord) : (t.setK r v).posted = t.posted := rfl
@[simp] theorem Team.setX_posted (t : Team) (r : BitVec 4) (v : BitVec 23) : (t.setX r v).posted = t.posted := rfl
@[simp] theorem Team.setM_posted (t : Team) (r : BitVec 3) (v : BitVec 1024) : (t.setM r v).posted = t.posted := by unfold Team.setM; split <;> rfl
@[simp] theorem Team.setK_flushing (t : Team) (r : BitVec 4) (v : DWord) : (t.setK r v).flushing = t.flushing := rfl
@[simp] theorem Team.setX_flushing (t : Team) (r : BitVec 4) (v : BitVec 23) : (t.setX r v).flushing = t.flushing := rfl
@[simp] theorem Team.setM_flushing (t : Team) (r : BitVec 3) (v : BitVec 1024) : (t.setM r v).flushing = t.flushing := by unfold Team.setM; split <;> rfl
@[simp] theorem Team.setK_flushSent (t : Team) (r : BitVec 4) (v : DWord) : (t.setK r v).flushSent = t.flushSent := rfl
@[simp] theorem Team.setX_flushSent (t : Team) (r : BitVec 4) (v : BitVec 23) : (t.setX r v).flushSent = t.flushSent := rfl
@[simp] theorem Team.setM_flushSent (t : Team) (r : BitVec 3) (v : BitVec 1024) : (t.setM r v).flushSent = t.flushSent := by unfold Team.setM; split <;> rfl
@[simp] theorem Team.setK_waitDrain (t : Team) (r : BitVec 4) (v : DWord) : (t.setK r v).waitDrain = t.waitDrain := rfl
@[simp] theorem Team.setX_waitDrain (t : Team) (r : BitVec 4) (v : BitVec 23) : (t.setX r v).waitDrain = t.waitDrain := rfl
@[simp] theorem Team.setM_waitDrain (t : Team) (r : BitVec 3) (v : BitVec 1024) : (t.setM r v).waitDrain = t.waitDrain := by unfold Team.setM; split <;> rfl
@[simp] theorem Team.setK_blocks (t : Team) (r : BitVec 4) (v : DWord) : (t.setK r v).blocks = t.blocks := rfl
@[simp] theorem Team.setX_blocks (t : Team) (r : BitVec 4) (v : BitVec 23) : (t.setX r v).blocks = t.blocks := rfl
@[simp] theorem Team.setM_blocks (t : Team) (r : BitVec 3) (v : BitVec 1024) : (t.setM r v).blocks = t.blocks := by unfold Team.setM; split <;> rfl
@[simp] theorem Team.setK_pstarted (t : Team) (r : BitVec 4) (v : DWord) : (t.setK r v).pstarted = t.pstarted := rfl
@[simp] theorem Team.setX_pstarted (t : Team) (r : BitVec 4) (v : BitVec 23) : (t.setX r v).pstarted = t.pstarted := rfl
@[simp] theorem Team.setM_pstarted (t : Team) (r : BitVec 3) (v : BitVec 1024) : (t.setM r v).pstarted = t.pstarted := by unfold Team.setM; split <;> rfl
@[simp] theorem Team.setK_pwaited (t : Team) (r : BitVec 4) (v : DWord) : (t.setK r v).pwaited = t.pwaited := rfl
@[simp] theorem Team.setX_pwaited (t : Team) (r : BitVec 4) (v : BitVec 23) : (t.setX r v).pwaited = t.pwaited := rfl
@[simp] theorem Team.setM_pwaited (t : Team) (r : BitVec 3) (v : BitVec 1024) : (t.setM r v).pwaited = t.pwaited := by unfold Team.setM; split <;> rfl
@[simp] theorem Team.setK_scanDt (t : Team) (r : BitVec 4) (v : DWord) : (t.setK r v).scanDt = t.scanDt := rfl
@[simp] theorem Team.setX_scanDt (t : Team) (r : BitVec 4) (v : BitVec 23) : (t.setX r v).scanDt = t.scanDt := rfl
@[simp] theorem Team.setM_scanDt (t : Team) (r : BitVec 3) (v : BitVec 1024) : (t.setM r v).scanDt = t.scanDt := by unfold Team.setM; split <;> rfl
@[simp] theorem Team.setK_scan (t : Team) (r : BitVec 4) (v : DWord) : (t.setK r v).scan = t.scan := rfl
@[simp] theorem Team.setX_scan (t : Team) (r : BitVec 4) (v : BitVec 23) : (t.setX r v).scan = t.scan := rfl
@[simp] theorem Team.setM_scan (t : Team) (r : BitVec 3) (v : BitVec 1024) : (t.setM r v).scan = t.scan := by unfold Team.setM; split <;> rfl
@[simp] theorem Team.setK_exiting (t : Team) (r : BitVec 4) (v : DWord) : (t.setK r v).exiting = t.exiting := rfl
@[simp] theorem Team.setX_exiting (t : Team) (r : BitVec 4) (v : BitVec 23) : (t.setX r v).exiting = t.exiting := rfl
@[simp] theorem Team.setM_exiting (t : Team) (r : BitVec 3) (v : BitVec 1024) : (t.setM r v).exiting = t.exiting := by unfold Team.setM; split <;> rfl
@[simp] theorem Team.setK_issueTime (t : Team) (r : BitVec 4) (v : DWord) : (t.setK r v).issueTime = t.issueTime := rfl
@[simp] theorem Team.setX_issueTime (t : Team) (r : BitVec 4) (v : BitVec 23) : (t.setX r v).issueTime = t.issueTime := rfl
@[simp] theorem Team.setM_issueTime (t : Team) (r : BitVec 3) (v : BitVec 1024) : (t.setM r v).issueTime = t.issueTime := by unfold Team.setM; split <;> rfl
@[simp] theorem Team.setK_since (t : Team) (r : BitVec 4) (v : DWord) : (t.setK r v).since = t.since := rfl
@[simp] theorem Team.setX_since (t : Team) (r : BitVec 4) (v : BitVec 23) : (t.setX r v).since = t.since := rfl
@[simp] theorem Team.setM_since (t : Team) (r : BitVec 3) (v : BitVec 1024) : (t.setM r v).since = t.since := by unfold Team.setM; split <;> rfl
@[simp] theorem Team.setK_issuedAt (t : Team) (r : BitVec 4) (v : DWord) : (t.setK r v).issuedAt = t.issuedAt := rfl
@[simp] theorem Team.setX_issuedAt (t : Team) (r : BitVec 4) (v : BitVec 23) : (t.setX r v).issuedAt = t.issuedAt := rfl
@[simp] theorem Team.setM_issuedAt (t : Team) (r : BitVec 3) (v : BitVec 1024) : (t.setM r v).issuedAt = t.issuedAt := by unfold Team.setM; split <;> rfl
@[simp] theorem Team.setK_lastCharge (t : Team) (r : BitVec 4) (v : DWord) : (t.setK r v).lastCharge = t.lastCharge := rfl
@[simp] theorem Team.setX_lastCharge (t : Team) (r : BitVec 4) (v : BitVec 23) : (t.setX r v).lastCharge = t.lastCharge := rfl
@[simp] theorem Team.setM_lastCharge (t : Team) (r : BitVec 3) (v : BitVec 1024) : (t.setM r v).lastCharge = t.lastCharge := by unfold Team.setM; split <;> rfl
@[simp] theorem Team.setK_dropping (t : Team) (r : BitVec 4) (v : DWord) : (t.setK r v).dropping = t.dropping := rfl
@[simp] theorem Team.setX_dropping (t : Team) (r : BitVec 4) (v : BitVec 23) : (t.setX r v).dropping = t.dropping := rfl
@[simp] theorem Team.setM_dropping (t : Team) (r : BitVec 3) (v : BitVec 1024) : (t.setM r v).dropping = t.dropping := by unfold Team.setM; split <;> rfl
@[simp] theorem Team.setK_dropRg (t : Team) (r : BitVec 4) (v : DWord) : (t.setK r v).dropRg = t.dropRg := rfl
@[simp] theorem Team.setX_dropRg (t : Team) (r : BitVec 4) (v : BitVec 23) : (t.setX r v).dropRg = t.dropRg := rfl
@[simp] theorem Team.setM_dropRg (t : Team) (r : BitVec 3) (v : BitVec 1024) : (t.setM r v).dropRg = t.dropRg := by unfold Team.setM; split <;> rfl
@[simp] theorem Team.setK_ports (t : Team) (r : BitVec 4) (v : DWord) : (t.setK r v).ports = t.ports := rfl
@[simp] theorem Team.setX_ports (t : Team) (r : BitVec 4) (v : BitVec 23) : (t.setX r v).ports = t.ports := rfl
@[simp] theorem Team.setM_ports (t : Team) (r : BitVec 3) (v : BitVec 1024) : (t.setM r v).ports = t.ports := by unfold Team.setM; split <;> rfl
@[simp] theorem Team.setK_tdSlot (t : Team) (r : BitVec 4) (v : DWord) : (t.setK r v).tdSlot = t.tdSlot := rfl
@[simp] theorem Team.setX_tdSlot (t : Team) (r : BitVec 4) (v : BitVec 23) : (t.setX r v).tdSlot = t.tdSlot := rfl
@[simp] theorem Team.setM_tdSlot (t : Team) (r : BitVec 3) (v : BitVec 1024) : (t.setM r v).tdSlot = t.tdSlot := by unfold Team.setM; split <;> rfl
@[simp] theorem Team.setK_sq (t : Team) (r : BitVec 4) (v : DWord) : (t.setK r v).sq = t.sq := rfl
@[simp] theorem Team.setX_sq (t : Team) (r : BitVec 4) (v : BitVec 23) : (t.setX r v).sq = t.sq := rfl
@[simp] theorem Team.setM_sq (t : Team) (r : BitVec 3) (v : BitVec 1024) : (t.setM r v).sq = t.sq := by unfold Team.setM; split <;> rfl
@[simp] theorem Team.setK_me (t : Team) (r : BitVec 4) (v : DWord) : (t.setK r v).me = t.me := rfl
@[simp] theorem Team.setX_me (t : Team) (r : BitVec 4) (v : BitVec 23) : (t.setX r v).me = t.me := rfl
@[simp] theorem Team.setM_me (t : Team) (r : BitVec 3) (v : BitVec 1024) : (t.setM r v).me = t.me := by unfold Team.setM; split <;> rfl
@[simp] theorem Team.setK_tu0 (t : Team) (r : BitVec 4) (v : DWord) : (t.setK r v).tu0 = t.tu0 := rfl
@[simp] theorem Team.setX_tu0 (t : Team) (r : BitVec 4) (v : BitVec 23) : (t.setX r v).tu0 = t.tu0 := rfl
@[simp] theorem Team.setM_tu0 (t : Team) (r : BitVec 3) (v : BitVec 1024) : (t.setM r v).tu0 = t.tu0 := by unfold Team.setM; split <;> rfl
@[simp] theorem Team.setK_tu1 (t : Team) (r : BitVec 4) (v : DWord) : (t.setK r v).tu1 = t.tu1 := rfl
@[simp] theorem Team.setX_tu1 (t : Team) (r : BitVec 4) (v : BitVec 23) : (t.setX r v).tu1 = t.tu1 := rfl
@[simp] theorem Team.setM_tu1 (t : Team) (r : BitVec 3) (v : BitVec 1024) : (t.setM r v).tu1 = t.tu1 := by unfold Team.setM; split <;> rfl
@[simp] theorem Team.setK_gq (t : Team) (r : BitVec 4) (v : DWord) : (t.setK r v).gq = t.gq := rfl
@[simp] theorem Team.setX_gq (t : Team) (r : BitVec 4) (v : BitVec 23) : (t.setX r v).gq = t.gq := rfl
@[simp] theorem Team.setM_gq (t : Team) (r : BitVec 3) (v : BitVec 1024) : (t.setM r v).gq = t.gq := by unfold Team.setM; split <;> rfl
@[simp] theorem Team.setChan_slot (t : Team) (i : Nat) (c : Chan) : (t.setChan i c).slot = t.slot := rfl
@[simp] theorem Team.setChan_tid (t : Team) (i : Nat) (c : Chan) : (t.setChan i c).tid = t.tid := rfl
@[simp] theorem Team.setChan_teamix (t : Team) (i : Nat) (c : Chan) : (t.setChan i c).teamix = t.teamix := rfl
@[simp] theorem Team.setChan_gangix (t : Team) (i : Nat) (c : Chan) : (t.setChan i c).gangix = t.gangix := rfl
@[simp] theorem Team.setChan_wid (t : Team) (i : Nat) (c : Chan) : (t.setChan i c).wid = t.wid := rfl
@[simp] theorem Team.setChan_gang (t : Team) (i : Nat) (c : Chan) : (t.setChan i c).gang = t.gang := rfl
@[simp] theorem Team.setChan_gather (t : Team) (i : Nat) (c : Chan) : (t.setChan i c).gather = t.gather := rfl
@[simp] theorem Team.setChan_asid (t : Team) (i : Nat) (c : Chan) : (t.setChan i c).asid = t.asid := rfl
@[simp] theorem Team.setChan_queue (t : Team) (i : Nat) (c : Chan) : (t.setChan i c).queue = t.queue := rfl
@[simp] theorem Team.setChan_tag (t : Team) (i : Nat) (c : Chan) : (t.setChan i c).tag = t.tag := rfl
@[simp] theorem Team.setChan_k (t : Team) (i : Nat) (c : Chan) : (t.setChan i c).k = t.k := rfl
@[simp] theorem Team.setChan_res (t : Team) (i : Nat) (c : Chan) : (t.setChan i c).res = t.res := rfl
@[simp] theorem Team.setChan_banksReady (t : Team) (i : Nat) (c : Chan) : (t.setChan i c).banksReady = t.banksReady := rfl
@[simp] theorem Team.setChan_park (t : Team) (i : Nat) (c : Chan) : (t.setChan i c).park = t.park := rfl
@[simp] theorem Team.setChan_woke (t : Team) (i : Nat) (c : Chan) : (t.setChan i c).woke = t.woke := rfl
@[simp] theorem Team.setChan_aside (t : Team) (i : Nat) (c : Chan) : (t.setChan i c).aside = t.aside := rfl
@[simp] theorem Team.setChan_leaving (t : Team) (i : Nat) (c : Chan) : (t.setChan i c).leaving = t.leaving := rfl
@[simp] theorem Team.setChan_image (t : Team) (i : Nat) (c : Chan) : (t.setChan i c).image = t.image := rfl
@[simp] theorem Team.setChan_halted (t : Team) (i : Nat) (c : Chan) : (t.setChan i c).halted = t.halted := rfl
@[simp] theorem Team.setChan_preempt (t : Team) (i : Nat) (c : Chan) : (t.setChan i c).preempt = t.preempt := rfl
@[simp] theorem Team.setChan_kill (t : Team) (i : Nat) (c : Chan) : (t.setChan i c).kill = t.kill := rfl
@[simp] theorem Team.setChan_cycle (t : Team) (i : Nat) (c : Chan) : (t.setChan i c).cycle = t.cycle := rfl
@[simp] theorem Team.setChan_status (t : Team) (i : Nat) (c : Chan) : (t.setChan i c).status = t.status := rfl
@[simp] theorem Team.setChan_faults (t : Team) (i : Nat) (c : Chan) : (t.setChan i c).faults = t.faults := rfl
@[simp] theorem Team.setChan_variant (t : Team) (i : Nat) (c : Chan) : (t.setChan i c).variant = t.variant := rfl
@[simp] theorem Team.setChan_swptVar (t : Team) (i : Nat) (c : Chan) : (t.setChan i c).swptVar = t.swptVar := rfl
@[simp] theorem Team.setChan_boost (t : Team) (i : Nat) (c : Chan) : (t.setChan i c).boost = t.boost := rfl
@[simp] theorem Team.setChan_epc (t : Team) (i : Nat) (c : Chan) : (t.setChan i c).epc = t.epc := rfl
@[simp] theorem Team.setChan_inHandler (t : Team) (i : Nat) (c : Chan) : (t.setChan i c).inHandler = t.inHandler := rfl
@[simp] theorem Team.setChan_errored (t : Team) (i : Nat) (c : Chan) : (t.setChan i c).errored = t.errored := rfl
@[simp] theorem Team.setChan_halting (t : Team) (i : Nat) (c : Chan) : (t.setChan i c).halting = t.halting := rfl
@[simp] theorem Team.setChan_pend (t : Team) (i : Nat) (c : Chan) : (t.setChan i c).pend = t.pend := rfl
@[simp] theorem Team.setChan_barSteps (t : Team) (i : Nat) (c : Chan) : (t.setChan i c).barSteps = t.barSteps := rfl
@[simp] theorem Team.setChan_sp (t : Team) (i : Nat) (c : Chan) : (t.setChan i c).sp = t.sp := rfl
@[simp] theorem Team.setChan_spMarks (t : Team) (i : Nat) (c : Chan) : (t.setChan i c).spMarks = t.spMarks := rfl
@[simp] theorem Team.setChan_fmts (t : Team) (i : Nat) (c : Chan) : (t.setChan i c).fmts = t.fmts := rfl
@[simp] theorem Team.setChan_dirs (t : Team) (i : Nat) (c : Chan) : (t.setChan i c).dirs = t.dirs := rfl
@[simp] theorem Team.setChan_covers (t : Team) (i : Nat) (c : Chan) : (t.setChan i c).covers = t.covers := rfl
@[simp] theorem Team.setChan_wIssued (t : Team) (i : Nat) (c : Chan) : (t.setChan i c).wIssued = t.wIssued := rfl
@[simp] theorem Team.setChan_posted (t : Team) (i : Nat) (c : Chan) : (t.setChan i c).posted = t.posted := rfl
@[simp] theorem Team.setChan_flushing (t : Team) (i : Nat) (c : Chan) : (t.setChan i c).flushing = t.flushing := rfl
@[simp] theorem Team.setChan_flushSent (t : Team) (i : Nat) (c : Chan) : (t.setChan i c).flushSent = t.flushSent := rfl
@[simp] theorem Team.setChan_waitDrain (t : Team) (i : Nat) (c : Chan) : (t.setChan i c).waitDrain = t.waitDrain := rfl
@[simp] theorem Team.setChan_blocks (t : Team) (i : Nat) (c : Chan) : (t.setChan i c).blocks = t.blocks := rfl
@[simp] theorem Team.setChan_pstarted (t : Team) (i : Nat) (c : Chan) : (t.setChan i c).pstarted = t.pstarted := rfl
@[simp] theorem Team.setChan_pwaited (t : Team) (i : Nat) (c : Chan) : (t.setChan i c).pwaited = t.pwaited := rfl
@[simp] theorem Team.setChan_scanDt (t : Team) (i : Nat) (c : Chan) : (t.setChan i c).scanDt = t.scanDt := rfl
@[simp] theorem Team.setChan_scan (t : Team) (i : Nat) (c : Chan) : (t.setChan i c).scan = t.scan := rfl
@[simp] theorem Team.setChan_exiting (t : Team) (i : Nat) (c : Chan) : (t.setChan i c).exiting = t.exiting := rfl
@[simp] theorem Team.setChan_issueTime (t : Team) (i : Nat) (c : Chan) : (t.setChan i c).issueTime = t.issueTime := rfl
@[simp] theorem Team.setChan_since (t : Team) (i : Nat) (c : Chan) : (t.setChan i c).since = t.since := rfl
@[simp] theorem Team.setChan_issuedAt (t : Team) (i : Nat) (c : Chan) : (t.setChan i c).issuedAt = t.issuedAt := rfl
@[simp] theorem Team.setChan_lastCharge (t : Team) (i : Nat) (c : Chan) : (t.setChan i c).lastCharge = t.lastCharge := rfl
@[simp] theorem Team.setChan_dropping (t : Team) (i : Nat) (c : Chan) : (t.setChan i c).dropping = t.dropping := rfl
@[simp] theorem Team.setChan_dropRg (t : Team) (i : Nat) (c : Chan) : (t.setChan i c).dropRg = t.dropRg := rfl
@[simp] theorem Team.setChan_ports (t : Team) (i : Nat) (c : Chan) : (t.setChan i c).ports = t.ports := rfl
@[simp] theorem Team.setChan_tdSlot (t : Team) (i : Nat) (c : Chan) : (t.setChan i c).tdSlot = t.tdSlot := rfl
@[simp] theorem Team.setChan_sq (t : Team) (i : Nat) (c : Chan) : (t.setChan i c).sq = t.sq := rfl
@[simp] theorem Team.setChan_ve (t : Team) (i : Nat) (c : Chan) : (t.setChan i c).ve = t.ve := rfl
@[simp] theorem Team.setChan_me (t : Team) (i : Nat) (c : Chan) : (t.setChan i c).me = t.me := rfl
@[simp] theorem Team.setChan_tu0 (t : Team) (i : Nat) (c : Chan) : (t.setChan i c).tu0 = t.tu0 := rfl
@[simp] theorem Team.setChan_tu1 (t : Team) (i : Nat) (c : Chan) : (t.setChan i c).tu1 = t.tu1 := rfl
@[simp] theorem Team.setChan_gq (t : Team) (i : Nat) (c : Chan) : (t.setChan i c).gq = t.gq := rfl

@[simp] theorem Team.setCtl_ctl (t : Team) (e f : Engine) (k : EngCtl) : (t.setCtl e k).ctl f = if f = e then k else t.ctl f := by
  cases e <;> cases f <;> rfl

@[simp] theorem Team.setCtl_s (t : Team) (e : Engine) (k : EngCtl) (r : BitVec 6) : (t.setCtl e k).s r = t.s r := by
  cases e <;> rfl

@[simp] theorem Team.setS_ctl (t : Team) (r : BitVec 6) (v : DWord) (e : Engine) : (t.setS r v).ctl e = t.ctl e := by
  unfold Team.setS; split <;> cases e <;> rfl

@[simp] theorem Team.s_zero (t : Team) : t.s 0 = 0 := rfl

theorem Team.setChan_chan (t : Team) (i j : Nat) (c : Chan) : (t.setChan i c).chan j = if j = i then c else t.chan j :=
  SMap.get_put _ _ _ _ _

theorem Team.setK_kreg (t : Team) (r q : BitVec 4) (v : DWord) : (t.setK r v).kreg q = if q = r then v else t.kreg q := by
  unfold Team.setK Team.kreg
  rw [SMap.get_put]
  by_cases h : q = r
  · rw [if_pos h, if_pos (by rw [h])]
  · rw [if_neg h, if_neg (fun e => h (BitVec.eq_of_toNat_eq e))]

theorem Team.setX_x (t : Team) (r q : BitVec 4) (v : BitVec 23) : (t.setX r v).x q = if q = r then v else t.x q := by
  unfold Team.setX Team.x
  rw [SMap.get_put]
  by_cases h : q = r
  · rw [if_pos h, if_pos (by rw [h])]
  · rw [if_neg h, if_neg (fun e => h (BitVec.eq_of_toNat_eq e))]

theorem Team.step_eq_setCtl (t : Team) (e : Engine) (h : e ≠ .gq) (hv : e ≠ .ve ∨ t.ve.ctl.leaves = false) :
    t.step e = t.setCtl e (t.ctl e).next := by
  unfold Team.step
  rw [if_neg h, if_neg (by rcases hv with hv | hv <;> simp [hv])]
  rfl

/-- The exit of a VE loop costs a second cycle of issue (06 Table 6-3). -/
theorem Team.step_ve_leaves (t : Team) (hv : t.ve.ctl.leaves = true) :
    t.step .ve = t.setCtl .ve { t.ve.ctl.next with busy := t.cycle + 2 } := by
  unfold Team.step
  rw [if_neg (by decide), if_pos (by simp [hv])]
  rfl

end Sys2Proof.Machine
end

