-- ==== Sys2Proof/Laws/Memory.lean ====
section
/-!
SUPPORT. Sys2Proof/Laws/Memory.lean: reading memory after it was written, that memory in canonical form is determined by what it
reads as, and that the operations that write memory keep the canonical form.
-/
namespace Sys2Proof.Machine

/-! One byte of memory (Memory.wf and readByte stand for SMap.wf and SMap.get). -/

theorem readByte_writeBytes (m : List Host.Cell) (a b : Nat) (bs : List Byte) :
    readByte (writeBytes m a bs) b = if a ≤ b ∧ b < a + bs.length then bs.getD (b - a) 0 else readByte m b :=
  SMap.get_putList _ _ _ _ _

theorem writeBytes_wf (m : List Host.Cell) (a : Nat) (bs : List Byte) (h : Memory.wf m = true) :
    Memory.wf (writeBytes m a bs) = true := SMap.wf_putList _ _ _ _ h

theorem reset_mem_wf : Memory.wf State.reset.mem = true := rfl

/-! Operations that write memory keep its form. -/

theorem State.performBytes_wf (s : State) (pa : Nat) (bs : List Byte) (b : Bool) (h : Memory.wf s.mem = true) :
    Memory.wf (s.performBytes pa bs b).mem = true := writeBytes_wf _ _ _ h

/-- A fold over states keeps what each of its steps keeps. -/
theorem foldl_keeps {α : Type} (P : State → Prop) (f : State → α → State) (hf : ∀ s x, P s → P (f s x)) (l : List α)
    (s : State) (h : P s) : P (l.foldl f s) := by
  induction l generalizing s with
  | nil => exact h
  | cons x r ih => exact ih _ (hf s x h)

@[simp] theorem State.dropWrite_mem (s : State) (asid rg : Nat) (n : Option Nat) (f : PendFault) :
    (s.dropWrite asid rg n f).mem = s.mem := by
  unfold State.dropWrite; extract_lets g s1; split
  · rfl
  · rw [State.updTeam_mem]; rfl

@[simp] theorem State.restorerDone_mem (s : State) : s.restorerDone.mem = s.mem := by
  unfold State.restorerDone; split <;> rfl

@[simp] theorem restorersDone_mem (k : Nat) (s : State) : (restorersDone k s).mem = s.mem := by
  induction k generalizing s with
  | zero => rfl
  | succ k ih => rw [restorersDone, ih, State.restorerDone_mem]

theorem State.takeSlot_mem (s s' : State) (asid rg : Nat) (h : s.takeSlot asid rg = some s') : s'.mem = s.mem := by
  unfold State.takeSlot at h
  extract_lets g at h
  split at h
  · cases h; rfl
  · split at h
    · cases h; rfl
    · split at h
      · rw [← Option.some.inj h]; exact restorersDone_mem _ _
      · cases h

theorem State.saveLine_mem (s s' : State) (asid rg ln : Nat) (h : s.saveLine asid rg ln = some s') : s'.mem = s.mem := by
  unfold State.saveLine at h
  extract_lets g at h
  split at h
  · cases h; rfl
  · split at h
    · cases h; rfl
    · split at h
      · cases h
      · rename_i s1 h1
        extract_lets at h
        cases h
        exact State.takeSlot_mem s s1 asid rg h1

/-- Saving a line, or dropping a write, writes no memory. -/
@[simp] theorem State.tagLine_mem (s : State) (asid va ln : Nat) (tg : Bool) (n : Option Nat) (f : PendFault) :
    (s.tagLine asid va ln tg n f).1.mem = s.mem := by
  unfold State.tagLine
  split
  · rfl
  · split
    · rfl
    · split
      · exact State.dropWrite_mem ..
      · split
        · rename_i h; exact State.saveLine_mem _ _ _ _ _ h
        · exact State.dropWrite_mem ..

@[simp] theorem State.tagAll_mem (s : State) (ln : Nat) (tags : List (Nat × Nat)) (n : Option Nat) (f : PendFault) :
    (s.tagAll ln tags n f).1.mem = s.mem := by
  unfold State.tagAll
  suffices h : ∀ (l : List (Nat × Nat)) (p : State × Bool), p.1.mem = s.mem →
      (l.foldl (fun (acc : State × Bool) g =>
        let (s1, go) := acc.1.tagLine g.1 g.2 ln true n f
        (s1, acc.2 && go)) p).1.mem = s.mem from h tags (s, true) rfl
  intro l
  induction l with
  | nil => exact fun _ h => h
  | cons g r ih => exact fun p h => ih _ (by rw [← h]; exact State.tagLine_mem ..)

@[simp] theorem State.portFailed_mem (s : State) (p slot addr status : Nat) : (s.portFailed p slot addr status).mem = s.mem := by
  unfold State.portFailed; simp

theorem State.performWrite_wf (s : State) (w : PWrite) (h : Memory.wf s.mem = true) :
    Memory.wf (s.performWrite w).mem = true := by
  unfold State.performWrite
  split
  · extract_lets f
    have ht : Memory.wf (s.tagLine w.asid w.va (w.pa / 128) w.tagged (s.writer w.slot w.tid w.tix) f).1.mem = true := by
      rw [State.tagLine_mem]; exact h
    dsimp only
    split
    · exact State.performBytes_wf _ _ _ _ ht
    · exact ht
  · simpa using h
  · cases w.slot <;> dsimp only <;> repeat' split
    all_goals first | exact h | (rw [State.updTeam_mem]; exact h) | (rw [State.portFailed_mem]; exact h)

theorem State.performWrites_wf (s : State) (p : PWrite → Bool) (h : Memory.wf s.mem = true) :
    Memory.wf (s.performWrites p).mem = true :=
  foldl_keeps (fun s => Memory.wf s.mem = true) State.performWrite State.performWrite_wf _ _ h

theorem State.l1WriteBack_wf (s : State) (c ln : Nat) (h : Memory.wf s.mem = true) :
    Memory.wf (s.l1WriteBack c ln).mem = true := by
  unfold State.l1WriteBack
  split
  · exact h
  · rename_i l _
    split
    · exact h
    · extract_lets owner f s1 bs hit
      split
      · have ht : Memory.wf (s1.tagAll ln l.tags owner f).1.mem = true := by rw [State.tagAll_mem]; exact h
        dsimp only
        split
        · exact foldl_keeps (fun s => Memory.wf s.mem = true) _ (fun s r hs => State.performBytes_wf _ _ _ _ hs) _ _ ht
        · exact ht
      · exact foldl_keeps (fun s => Memory.wf s.mem = true) _ (fun s r hs => State.performWrite_wf _ _ hs) _ _
          (State.performWrites_wf s1 _ h)

@[simp] theorem State.l1Drop_mem (s : State) (c ln : Nat) : (s.l1Drop c ln).mem = s.mem := by
  unfold State.l1Drop
  exact foldl_keeps (fun t => t.mem = s.mem) _ (fun t n ht => by rw [State.updTeam_mem]; exact ht) _ _ rfl

theorem State.recallLine_wf (s : State) (ln : Nat) (h : Memory.wf s.mem = true) : Memory.wf (s.recallLine ln).mem = true :=
  foldl_keeps (fun s => Memory.wf s.mem = true) _
    (fun s c hs => by rw [State.l1Drop_mem]; exact State.l1WriteBack_wf s c ln hs) _ _ h

theorem State.rejectPoint_wf (s : State) (asid rg n : Nat) (h : Memory.wf s.mem = true) :
    Memory.wf (s.rejectPoint asid rg n).mem = true := by
  unfold State.rejectPoint
  extract_lets g
  split
  · exact h
  · exact foldl_keeps (fun s => Memory.wf s.mem = true) _ (fun s p hs => by
      split
      · exact hs
      · exact writeBytes_wf _ _ _ hs) _ _ h

@[simp] theorem State.acceptPoint_mem (s : State) (asid rg n : Nat) : (s.acceptPoint asid rg n).mem = s.mem := by
  unfold State.acceptPoint; extract_lets; split <;> rfl

end Sys2Proof.Machine
end

