-- ==== Sys2Proof/Laws/Sq.lean ====
section
/-!
SUPPORT. Sys2Proof/Laws/Sq.lean: what the shared operations of the words of the SQ answer: a word whose sources carry no poison mark,
one that reads a marked register, a branch, a jump, a loop; and what the counting functions of the integer words give.
-/
namespace Sys2Proof.Machine

open Sys2Proof.Claims

/-! Words and events. -/

theorem State.onTeam_cur {s : State} {n : Nat} {t : Team} (f : Nat → Team → State) (h : s.cur? = some (n, t)) :
    s.onTeam f = .next (f n t) := by
  simp [State.onTeam, h]

theorem State.onTeam_none {s : State} (f : Nat → Team → State) (h : s.cur? = none) : s.onTeam f = .fault .noTeam := by
  simp [State.onTeam, h]

theorem State.event_powered {s : State} (f : State → State) (h : s.start.powered = true) : s.event f = .next (f s) := by
  simp [State.event, h]

theorem State.event_unpowered {s : State} (f : State → State) (h : s.start.powered = false) : s.event f = .fault .noPower := by
  simp [State.event, h]

theorem State.sqWord_ready {s : State} {n : Nat} {t : Team} {l : List (BitVec 6)} {f : Nat → Team → State}
    (h : s.cur? = some (n, t)) (hm : ∀ r ∈ l, ¬Marked t r) : s.sqWord l f = .next (f n t) := by
  simp only [State.sqWord, State.onTeam, h]
  have hf : l.find? (fun r => r ≠ 0 && (SMap.get? t.sq.marks r.toNat).isSome) = none := by
    simp only [List.find?_eq_none]
    intro r hr hc
    exact hm r hr (by simpa [Marked] using hc)
  rw [hf]

theorem State.sqWord_marked {s : State} {n : Nat} {t : Team} {l : List (BitVec 6)} {f : Nat → Team → State}
    (h : s.cur? = some (n, t)) (hm : ∃ r ∈ l, Marked t r) :
    ∃ r ∈ l, Marked t r ∧ s.sqWord l f = .next (s.raise n
      { cause := .poison, eng := 0, pc := t.sq.ctl.pc, info := (SMap.get? t.sq.marks r.toNat).getD 0 }) := by
  cases hf : l.find? (fun r => r ≠ 0 && (SMap.get? t.sq.marks r.toNat).isSome) with
  | none =>
    obtain ⟨r, hr, h1, h2⟩ := hm
    have := List.find?_eq_none.1 hf r hr
    simp_all
  | some r =>
    have h1 := List.find?_some hf
    refine ⟨r, List.mem_of_find?_eq_some hf, by simpa [Marked] using h1, ?_⟩
    simp only [State.sqWord, State.onTeam, h, hf]
    rfl

theorem State.sqStep_ready {s : State} {n : Nat} {t : Team} {l : List (BitVec 6)} {f : Team → Team}
    (h : s.cur? = some (n, t)) (hm : ∀ r ∈ l, ¬Marked t r) : s.sqStep l f = .next (s.setTeam n ((f t).step .sq)) := by
  simp [State.sqStep, State.sqWord_ready h hm]

/-- Every word of the SQ that has sources is one `sqWord` over them. -/
theorem exec_eq_sqWord (i : Instr) (l : List (BitVec 6)) (h : sqSources i = some l) :
    ∃ f : State → Nat → Team → State, ∀ s : State, exec i s = s.sqWord l (f s) := by
  cases i
  all_goals first
    | (cases h; done)
    | (obtain rfl : _ = l := Option.some.inj h; exact ⟨_, fun s => rfl⟩)

theorem ready_iff {s : State} {n : Nat} {t : Team} {i : Instr} {l : List (BitVec 6)} (hl : sqSources i = some l) :
    SqReady s n t i ↔ s.cur? = some (n, t) ∧ ∀ r ∈ l, ¬Marked t r := by
  unfold SqReady
  rw [hl]
  simp

/-! Registers of the SQ. -/

theorem Team.setS_s_other {t : Team} {d r : BitVec 6} {v : DWord} (h : r ≠ d) : (t.setS d v).s r = t.s r := by
  by_cases hd : d = 0
  · rw [Team.setS, if_pos hd]
  · rw [Team.setS, if_neg hd]
    unfold Team.s
    split
    · rfl
    · exact (SMap.get_put _ _ _ _ _).trans (if_neg (by simpa [BitVec.toNat_inj] using h))

theorem Team.setS_s_self {t : Team} {d : BitVec 6} {v : DWord} (h : d ≠ 0) : (t.setS d v).s d = v := by
  rw [Team.setS, if_neg h]
  unfold Team.s
  rw [if_neg h]
  exact (SMap.get_put _ _ _ _ _).trans (if_pos rfl)

theorem Team.setS_marks_other {t : Team} {d r : BitVec 6} {v : DWord} (h : r ≠ d) :
    SMap.get? (t.setS d v).sq.marks r.toNat = SMap.get? t.sq.marks r.toNat := by
  unfold Team.setS
  split
  · rfl
  · rw [SMap.get?_erase, if_neg (by simpa [BitVec.toNat_inj] using h)]

theorem Team.setS_marks_self {t : Team} {d : BitVec 6} {v : DWord} (h : d ≠ 0) :
    SMap.get? (t.setS d v).sq.marks d.toNat = none := by
  unfold Team.setS
  rw [if_neg h, SMap.get?_erase, if_pos rfl]

/-! Control flow. -/

theorem popLoops_eq (p : Nat) (l : List Loop) : popLoops p l = loopsAround p l := by
  induction l with
  | nil => rfl
  | cons x r ih =>
    simp only [popLoops, loopsAround, List.dropWhile_cons]
    rw [← loopsAround, ih]
    cases h : (decide (x.start ≤ p) && decide (p ≤ x.stop)) <;> simp

theorem Team.target_inside {t : Team} {e : Engine} {o : Int} (h : InSection t e o) :
    t.target e o = some ((t.ctl e).pc + o).toNat := by
  unfold Team.target; rw [if_pos]; simpa [InSection] using h

theorem Team.target_outside {t : Team} {e : Engine} {o : Int} (h : ¬InSection t e o) : t.target e o = none := by
  unfold Team.target; rw [if_neg]; simpa [InSection] using h

theorem State.jumpWord_inside {s : State} {n : Nat} {t : Team} {e : Engine} {o : Int} (h : InSection t e o) :
    s.jumpWord n t e o = jumpTo s n t e o := by
  unfold State.jumpWord jumpTo
  rw [Team.target_inside h]
  simp only
  split
  · rfl
  · simp [Team.taken, Team.updCtl, EngCtl.jump, popLoops_eq]; split <;> rfl

theorem State.jumpWord_outside {s : State} {n : Nat} {t : Team} {e : Engine} {o : Int} (h : ¬InSection t e o) :
    s.jumpWord n t e o = s.illop n t e := by
  unfold State.jumpWord; rw [Team.target_outside h]

theorem State.loopWord_opens {s : State} {n : Nat} {t : Team} {e : Engine} {count len : Nat} (h : MayLoop t e count len) :
    s.loopWord n t e count len = s.setTeam n (t.setCtl e (
      if count = 0 then { t.ctl e with pc := (t.ctl e).pc + len + 1, busy := if e = .ve then t.cycle + 2 else (t.ctl e).busy }
      else { t.ctl e with pc := (t.ctl e).pc + 1, loopMark := (t.ctl e).loopMark && !(t.ctl e).loops.isEmpty,
                          loops := { start := (t.ctl e).pc + 1, stop := (t.ctl e).pc + len, count := count } :: (t.ctl e).loops })) := by
  obtain ⟨h1, h2, h3⟩ := h
  unfold State.loopWord
  simp only
  rw [if_neg, if_neg, if_neg (by omega)]
  · split <;> rfl
  · split
    · simp
    · rename_i l r hl; have := h3 l r hl; simp; omega
  · simp; omega

/-- `next` moves the place in the program and the loop stack alone. -/
theorem EngCtl.next_frame (k : EngCtl) : k.next = { k with pc := k.next.pc, loops := k.next.loops } := by
  unfold EngCtl.next; split
  · rfl
  · split
    · split <;> rfl
    · rfl

/-! Counting bits. -/

theorem bool64_eq (b : Bool) (p : Prop) [Decidable p] (h : b = decide p) : bool64 b = if p then 1 else 0 := by
  subst h; unfold bool64; by_cases hp : p <;> simp [hp]

theorem bitLen_eq : ∀ (k v : Nat), v < 2 ^ k → bitLen v k = if v = 0 then 0 else v.log2 + 1
  | 0, v, h => by
    have : v = 0 := by simpa using h
    simp [bitLen, this]
  | k + 1, v, h => by
    unfold bitLen bitAt
    by_cases hb : v < 2 ^ k
    · rw [Nat.div_eq_of_lt hb]; simp; rw [bitLen_eq k v hb]
    · have h1 : v / 2 ^ k = 1 := by
        rw [Nat.pow_succ] at h
        exact Nat.div_eq_of_lt_le (by omega) (by omega)
      have hv : v ≠ 0 := by have := Nat.two_pow_pos k; omega
      have : v.log2 = k := (Nat.log2_eq_iff hv).2 ⟨by omega, h⟩
      simp [h1, hv, this]

theorem trailZeros_eq : ∀ (k v : Nat), trailZeros v k = ((List.range k).find? fun i => v.testBit i).getD k
  | 0, v => by simp [trailZeros]
  | k + 1, v => by
    unfold trailZeros
    rw [List.range_succ_eq_map, List.find?_cons]
    by_cases h : v % 2 = 1
    · simp [h, Nat.testBit_zero]
    · have h0 : v.testBit 0 = false := by simp [Nat.testBit_zero, h]
      rw [h0, trailZeros_eq k (v / 2)]
      simp only [h, if_false, List.find?_map, Function.comp_def, Nat.testBit_div_two]
      simp [Nat.testBit_succ]

theorem popCount_eq : ∀ (k v : Nat), popCount v k = ((List.range k).filter fun i => v.testBit i).length
  | 0, v => by simp [popCount]
  | k + 1, v => by
    unfold popCount
    rw [List.range_succ_eq_map, List.filter_cons, popCount_eq k (v / 2), List.filter_map]
    simp only [Function.comp_def, Nat.testBit_succ, Nat.testBit_zero]
    rcases Nat.mod_two_eq_zero_or_one v with h | h <;> simp [h]; omega

end Sys2Proof.Machine
end

