-- ==== Sys2Proof/Laws/Access.lean ====
section
/-!
SUPPORT. Sys2Proof/Laws/Access.lean: what the shared operations of the accesses of the SQ answer when one entry of the
translation table grants the access and no write of the team is on its way: lookups, loads and stores that bypass the L1,
atomics, and the actions of a release; and what bytes and numbers say of each other.
-/
namespace Sys2Proof.Machine

open Claims

theorem kttLookup_covers {ks : KSlot} {va : Nat} {a : Acc} {e : KttEntry} (h : kttLookup ks va a = .ok e) :
    e.va ≤ va ∧ va < e.va + 2 ^ e.log2 := by
  unfold kttLookup at h
  split at h
  · cases h
  · rename_i i hi
    split at h
    · cases h
    · rename_i e' he
      have := List.findIdx?_eq_some_iff_getElem.mp hi
      obtain ⟨hlt, hc, _⟩ := this
      have he2 : ks.ktt[i] = e' := by
        rw [List.getElem?_eq_getElem hlt] at he; exact Option.some.inj he
      rw [he2] at hc
      split at h
      · cases h
      · split at h
        · cases h
        · split at h
          · cases h; simpa [KttEntry.covers] using hc
          · cases h

theorem kttParts_one {ks : KSlot} {va size : Nat} {a : Acc} {e : KttEntry} (hs : 0 < size) (h : kttLookup ks va a = .ok e)
    (hc : va + size ≤ e.va + 2 ^ e.log2) :
    kttParts ks a (size + 1) va size = .ok [⟨e.pa + (va - e.va), va, size, e⟩] := by
  have hm : min size (e.va + 2 ^ e.log2 - va) = size := by omega
  obtain ⟨k, rfl⟩ : ∃ k, size = k + 1 := ⟨size - 1, by omega⟩
  rw [kttParts, if_neg (by omega)]
  simp only [h, hm, Nat.sub_self]
  simp [kttParts]

theorem kttParts_error {ks : KSlot} {va size : Nat} {a : Acc} {f : KttFail} (hs : 0 < size) (h : kttLookup ks va a = .error f) :
    kttParts ks a (size + 1) va size = .error f := by
  rw [kttParts, if_neg (by omega)]; simp [h]

theorem destOf_hbm {pa : Nat} (h : pa < 0x6000000000) : destOf pa = .hbm := by simp [destOf, h]

theorem performWrites_none {s : State} {p : PWrite → Bool} (h : ∀ w ∈ s.fabric, p w = false) : s.performWrites p = s := by
  have h1 : s.fabric.filter p = [] := by simp only [List.filter_eq_nil_iff]; intro w hw; simp [h w hw]
  have h2 : s.fabric.filter (fun w => !p w) = s.fabric := by simp only [List.filter_eq_self]; intro w hw; simp [h w hw]
  simp [State.performWrites, h1, h2]

theorem applyAtoms_none {s : State} {p : PAtom → Bool} (h : ∀ w ∈ s.atomq, p w = false) : s.applyAtoms p = s := by
  have h1 : s.atomq.filter p = [] := by simp only [List.filter_eq_nil_iff]; intro w hw; simp [h w hw]
  have h2 : s.atomq.filter (fun w => !p w) = s.atomq := by simp only [List.filter_eq_self]; intro w hw; simp [h w hw]
  simp [State.applyAtoms, h1, h2]

theorem settleLine_settled {s : State} {n ln : Nat} (h : Settled s n) : s.settleLine n ln = s := by
  unfold State.settleLine
  rw [performWrites_none, applyAtoms_none]
  · intro a ha; simp [h.2.1 a ha]
  · intro w hw; have := h.1 w hw; by_cases h1 : w.slot = some n <;> simp_all

/-- A team with nothing under way has no acquire to wait for and no read to wait for. -/
theorem acqPending_calm {s : State} {n : Nat} (h : Calm s n) : s.acqPending n = false := by
  simp only [State.acqPending, Bool.or_eq_false_iff, List.any_eq_false]
  exact ⟨fun a ha => by simp [h.1 a ha], fun q hq => by simp [h.2 q hq]⟩

theorem readsOut_calm {s : State} {n : Nat} (h : Calm s n) : s.readsOut n = false := by
  simp only [State.readsOut, List.any_eq_false]
  exact fun q hq => by simp [h.2 q hq]

/-- An access of a team with nothing under way that touches no SO page is not held back. -/
theorem ordered_calm {s : State} {n : Nat} {t : Team} {ords : List Nat} {act} (h : Calm s n) (h2 : ords.contains 2 = false) :
    s.ordered n t ords act = act s t := by
  rw [State.ordered, acqPending_calm h, h2]; simp

theorem atPortFull_hbm {s : State} {pa : Nat} (h : pa < 0x6000000000) : s.atPortFull pa = false := by
  simp [State.atPortFull, destOf_hbm h]

theorem getList_append {α : Type} (d : α) (m : SMap α) (a n k : Nat) :
    SMap.getList d m a n ++ SMap.getList d m (a + n) k = SMap.getList d m a (n + k) := by
  simp only [SMap.getList, List.range_add, List.map_append, List.map_map]
  congr 1
  apply List.map_congr_left; intro i _; simp [Nat.add_assoc]

theorem markedRange_append (g : Nat) (m : List Nat) (a n k : Nat) (hg : 0 < g) (ha : (a + n) % g = 0) (hn : 0 < n) :
    (markedRange g m a n || markedRange g m (a + n) k) = markedRange g m a (n + k) := by
  by_cases hk : k = 0
  · subst hk; simp [markedRange, unitsOf]
  have h1 : (a + n - 1) / g + 1 = (a + n) / g := by
    obtain ⟨q, hq⟩ := Nat.dvd_of_mod_eq_zero ha
    have hq0 : 0 < q := by rcases Nat.eq_zero_or_pos q with h | h; · subst h; omega
                           · exact h
    rw [hq, Nat.mul_div_cancel_left _ hg]
    obtain ⟨q, rfl⟩ : ∃ r, q = r + 1 := ⟨q - 1, by omega⟩
    have : g * (q + 1) - 1 = g * q + (g - 1) := by rw [Nat.mul_add]; omega
    rw [this, Nat.mul_add_div hg, Nat.div_eq_of_lt (by omega)]
  have h2 : a / g ≤ (a + n - 1) / g := Nat.div_le_div_right (by omega)
  have h3 : (a + n) / g ≤ (a + n + k - 1) / g := Nat.div_le_div_right (by omega)
  simp only [markedRange, unitsOf, hk, if_false, show n ≠ 0 by omega, show n + k ≠ 0 by omega, ← List.any_append]
  congr 1
  have e1 : (a + n - 1) / g - a / g + 1 + ((a + n + k - 1) / g - (a + n) / g + 1) = (a + (n + k) - 1) / g - a / g + 1 := by
    have : a + (n + k) - 1 = a + n + k - 1 := by omega
    rw [this]; omega
  have e2 : a / g + ((a + n - 1) / g - a / g + 1) = (a + n) / g := by
    generalize (a + n) / g = x at *
    generalize (a + n - 1) / g = y at *
    generalize a / g = z at *
    omega
  rw [← e1, ← e2]
  exact List.range'_append_1

theorem lineSpans_small {pa len : Nat} (h : 0 < len) (h8 : len ≤ 8) :
    lineSpans 3 pa len = if pa % 128 + len ≤ 128 then [(pa, len)]
      else [(pa, 128 - pa % 128), (pa + (128 - pa % 128), len - (128 - pa % 128))] := by
  have hl : pa % 128 < 128 := Nat.mod_lt _ (by decide)
  split
  · rename_i hs
    have : min len (128 - pa % 128) = len := by omega
    simp only [lineSpans, this, Nat.sub_self, if_true]; simp; omega
  · rename_i hs
    have h1 : min len (128 - pa % 128) = 128 - pa % 128 := by omega
    have h2 : (pa + (128 - pa % 128)) % 128 = 0 := by omega
    have h3 : min (len - (128 - pa % 128)) 128 = len - (128 - pa % 128) := by omega
    have h4 : len - (128 - pa % 128) ≠ 0 := by omega
    simp [lineSpans, h1, h2, h3, h4, show len ≠ 0 by omega]

theorem readPart_bypass {s : State} {n : Nat} {t : Team} {p : Part} {home : Bool} (hs : Settled s n) (hh : p.pa + p.len ≤ 0x6000000000)
    (h0 : 0 < p.len) (h8 : p.len ≤ 8) (hc : cacheable p.e.order p.e.l1c (coreOfSlot n) = false) :
    s.readPart n t p home = (s, { bytes := readBytes s.mem p.pa p.len, mark := markedRange 64 s.marks p.pa p.len,
                                  va := p.va, ln := p.pa / 128 }) := by
  by_cases hx : p.pa % 128 + p.len ≤ 128
  · simp [State.readPart, destOf_hbm (show p.pa < _ by omega), lineSpans_small h0 h8, hc, hx, settleLine_settled hs, State.readHbm, State.hbmMarked]
  · have hl : p.pa % 128 < 128 := Nat.mod_lt _ (by decide)
    have e : 128 - p.pa % 128 + (p.len - (128 - p.pa % 128)) = p.len := by omega
    have hm := markedRange_append 64 s.marks p.pa (128 - p.pa % 128) (p.len - (128 - p.pa % 128)) (by decide) (by omega) (by omega)
    have hb := getList_append (0 : Byte) s.mem p.pa (128 - p.pa % 128) (p.len - (128 - p.pa % 128))
    rw [e] at hm hb
    simp [State.readPart, destOf_hbm (show p.pa < _ by omega), lineSpans_small h0 h8, hc, hx, settleLine_settled hs, State.readHbm, State.hbmMarked, readBytes, hm]
    exact hb

theorem cur_team {s : State} {n : Nat} {t : Team} (h : s.cur? = some (n, t)) : s.team? n = some t := by
  unfold State.cur? at h
  split at h
  · cases h
  · rename_i m hm
    cases hq : s.team? m with
    | none => simp [hq] at h
    | some u => simp [hq] at h; obtain ⟨rfl, rfl⟩ := h; exact hq

/-- A load that bypasses the L1, of a team with nothing under way: its bytes stand in the landing buffer. -/
theorem sqLoad_bypass {s : State} {n : Nat} {t : Team} {d : BitVec 6} {ea size arr : Nat} {sgn : Bool} {e : KttEntry} {pa : Nat}
    (ht : s.team? n = some t) (hl : t.sq.landing.length < 16) (h0 : 0 < size) (h8 : size ≤ 8)
    (hr : Reaches s n t .r ea size e pa) (hb : Bypasses n e) (hs : Settled s n) :
    s.sqLoad n t d ea size sgn arr false =
      loading s n t d size sgn (if arr = 0 ∨ t.inHandler then none else some (t.cycle + max arr 4)) ea pa := by
  obtain ⟨hg, hc, rfl, hh⟩ := hr
  rw [State.sqLoad, if_neg (by omega), kttParts_one h0 hg hc]
  have hp := readPart_bypass (s := s) (n := n) (t := t) (home := false) (p := ⟨e.pa + (ea - e.va), ea, size, e⟩) hs hh h0 h8 hb.2
  have hit : s.l1Hit n [⟨e.pa + (ea - e.va), ea, size, e⟩] = false := by simp [State.l1Hit, hb.2]
  have hf : s.portsFull n false [⟨e.pa + (ea - e.va), ea, size, e⟩] = false := by
    simp [State.portsFull, hb.2, atPortFull_hbm (show e.pa + (ea - e.va) < _ by omega)]
  simp only [hf, Bool.false_eq_true, if_false]
  rw [ordered_calm hs.2 (by simpa using hb.1.symm)]
  cases hi : t.inHandler <;> by_cases ha : arr = 0 <;>
    simp [State.loadIssue, State.readParts, hb.1, hp, hit, State.updTeam, ht, loading, addLoad, loadOf, hi, ha]

/-- The load of an acquire (LDA) that bypasses the L1: once it has read, the clean RC lines of the core are invalid. -/
theorem sqLoad_acquire {s : State} {n : Nat} {t : Team} {d : BitVec 6} {ea size : Nat} {sgn : Bool} {e : KttEntry} {pa : Nat}
    (hl : t.sq.landing.length < 16) (h0 : 0 < size) (h8 : size ≤ 8)
    (hr : Reaches s n t .r ea size e pa) (hb : Bypasses n e) (hs : Settled s n) :
    s.sqLoad n t d ea size sgn 0 true = (s.invalidateKinds n [1]).updTeam n (addLoad (loadOf s t d size sgn none ea pa)) := by
  obtain ⟨hg, hc, rfl, hh⟩ := hr
  rw [State.sqLoad, if_neg (by omega), kttParts_one h0 hg hc]
  have hp := readPart_bypass (s := s) (n := n) (t := t) (home := true) (p := ⟨e.pa + (ea - e.va), ea, size, e⟩) hs hh h0 h8 hb.2
  have hf : s.portsFull n true [⟨e.pa + (ea - e.va), ea, size, e⟩] = false := by
    simp [State.portsFull, atPortFull_hbm (show e.pa + (ea - e.va) < _ by omega)]
  simp only [hf, Bool.false_eq_true, if_false]
  rw [ordered_calm hs.2 (by simpa using hb.1.symm)]
  simp [State.loadIssue, State.readParts, hb.1, hp, State.acquireActions, loadOf]; rfl

theorem eaM_addressM (t : Team) (b : BitVec 6) (p : BitVec 8) (size : Nat) : t.eaM b p size = addressM t b p size := by
  simp only [Team.eaM, addressM, BitVec.toNat_add, BitVec.toNat_ofInt]
  omega

theorem bitAt_eq (v i : Nat) : bitAt v i = v.testBit i := by
  simp [bitAt, Nat.testBit_eq_decide_div_mod_eq]

theorem toBytes_slice (k v off len : Nat) (h : off + len ≤ k) :
    ((toBytes k v).drop off).take len = toBytes len (v / 2 ^ (8 * off)) := by
  apply List.ext_getElem
  · simp [toBytes]; omega
  · intro i h1 h2
    simp only [toBytes, List.getElem_take, List.getElem_drop, List.getElem_map, List.getElem_range, byteAt]
    rw [Nat.div_div_eq_div_mul, ← Nat.pow_add, Nat.mul_add]

theorem ofBytes_toBytes (n v : Nat) : ofBytes (toBytes n v) = v % 2 ^ (8 * n) := by
  induction n generalizing v with
  | zero => simp [toBytes, ofBytes, Nat.mod_one]
  | succ n ih =>
    have : toBytes (n + 1) v = byteAt v 0 :: toBytes n (v / 256) := by
      simp only [toBytes, List.range_succ_eq_map, List.map_cons, List.map_map]
      congr 1
      apply List.map_congr_left; intro i _
      simp only [Function.comp, byteAt, Nat.div_div_eq_div_mul]
      congr 2
      rw [show 8 * (i + 1) = 8 + 8 * i by omega, Nat.pow_add]
    rw [this, ofBytes, ih]
    simp only [byteAt, Nat.mul_zero, Nat.pow_zero, Nat.div_one, BitVec.toNat_ofNat]
    rw [show 8 * (n + 1) = 8 + 8 * n by omega, Nat.pow_add, Nat.mod_mul]

theorem loaded_eq (size : Nat) (sgn : Bool) (v : Nat) (h0 : 0 < size) (h8 : size ≤ 8) :
    (if sgn then BitVec.ofInt 64 (signExt (v % 2 ^ (8 * size)) (8 * size)) else BitVec.ofNat 64 (v % 2 ^ (8 * size))) = loaded size sgn v := by
  cases sgn
  · simp only [loaded, Bool.false_eq_true, if_false]
    apply BitVec.eq_of_toNat_eq; simp
  · simp only [loaded, if_true]
    apply BitVec.eq_of_toInt_eq
    rw [BitVec.toInt_signExtend_of_le (by omega), BitVec.toInt_ofInt]
    have hv : v % 2 ^ (8 * size) < 2 ^ (8 * size) := Nat.mod_lt _ (Nat.two_pow_pos _)
    have hx : signExt (v % 2 ^ (8 * size)) (8 * size) = (BitVec.ofNat (8 * size) v).toInt := by
      rw [BitVec.toInt_eq_toNat_cond, BitVec.toNat_ofNat]
      generalize v % 2 ^ (8 * size) = u at *
      have h2 : 2 * 2 ^ (8 * size - 1) = 2 ^ (8 * size) := by rw [← Nat.pow_succ']; congr 1; omega
      have h3 : ((u : Int) % 2 ^ (8 * size)) = u := Int.emod_eq_of_lt (by omega) (by exact_mod_cast hv)
      simp only [signExt, Nat.mod_eq_of_lt hv, h3]
      split <;> split <;> push_cast <;> omega
    rw [hx]
    have hb := (BitVec.ofNat (8 * size) v).toInt_lt
    have ha := (BitVec.ofNat (8 * size) v).le_toInt
    have hp : (2:Int) ^ (8 * size - 1) ≤ 2 ^ 63 := by
      exact_mod_cast Nat.pow_le_pow_right (by decide) (by omega)
    apply Int.bmod_eq_of_le <;> omega

theorem toBytes_length (n v : Nat) : (toBytes n v).length = n := by simp [toBytes]

theorem kttLookup_order {ks : KSlot} {va : Nat} {a : Acc} {e : KttEntry} (h : kttLookup ks va a = .ok e) : pageOrder ks va = e.order := by
  unfold kttLookup at h
  split at h
  · cases h
  · rename_i i hi
    split at h
    · cases h
    · rename_i e' he
      obtain ⟨hlt, hc, hn⟩ := List.findIdx?_eq_some_iff_getElem.mp hi
      have he2 : ks.ktt[i] = e' := by rw [List.getElem?_eq_getElem hlt] at he; exact Option.some.inj he
      have hf : ks.ktt.find? (·.covers va) = some e' := by
        rw [List.find?_eq_some_iff_getElem]
        exact ⟨he2 ▸ hc, i, hlt, he2, fun j hj => by simpa using hn j hj⟩
      split at h
      · cases h
      · split at h
        · cases h
        · split at h
          · cases h; simp [pageOrder, hf]
          · cases h

theorem unitsOf_applyAtoms {s : State} {n : Nat} (h : Calm s n) (l : List Nat) :
    l.foldl (fun (s : State) ln => s.applyAtoms fun a => a.slot = n && a.pa / 128 = ln) s = s := by
  induction l with
  | nil => rfl
  | cons x r ih => rw [List.foldl_cons, applyAtoms_none (fun a ha => by simp [h.1 a ha]), ih]

/-- A store that bypasses the L1, of a team with no atomic and no request under way: its bytes are on their way. -/
theorem sqStore_bypass {s : State} {n : Nat} {t : Team} {ea size : Nat} {e : KttEntry} {pa : Nat} {v : Nat} {home : Bool}
    (ht : s.team? n = some t) (h0 : 0 < size) (hr : Reaches s n t .w ea size e pa) (hb : Bypasses n e) (hc : Calm s n) :
    s.sqStore n t ea (toBytes size v) home = storing s n t ea e pa (toBytes size v) := by
  obtain ⟨hg, hc', rfl, hh⟩ := hr
  rw [State.sqStore, toBytes_length, kttParts_one h0 hg hc']
  simp only [List.map_cons, List.map_nil]
  rw [ordered_calm hc (by simpa using hb.1.symm)]
  have h3 : List.take size (toBytes size v) = toBytes size v := List.take_of_length_le (by simp [toBytes])
  have ht' : SMap.get? s.teams n = some t := ht
  simp [State.writeParts, State.writePart, hb.1, hb.2, State.updTeam, storing, State.sendWrite, State.team?,
    unitsOf_applyAtoms hc, ht', State.setTeam, h3]

theorem writeBackTeam_quiet {s : State} {n : Nat} {t : Team} (h : Quiet s n t) (ords) : s.writeBackTeam n ords = s := by
  have : (s.core (coreOfSlot n)).l1.filter (fun e => e.2.owners.contains n && ords.contains e.2.order) = [] := by
    simp only [List.filter_eq_nil_iff]; intro l hl; have := (h.lines l hl).1; simp [this]
  simp only [State.writeBackTeam, State.l1WriteBackAll, this, List.foldl_nil]

theorem releaseActions_quiet {s : State} {n : Nat} {t : Team} (h : Quiet s n t) (k ords) : s.releaseActions n k ords = s := by
  simp only [State.releaseActions]
  rw [performWrites_none, applyAtoms_none, writeBackTeam_quiet h]; simp
  · intro a ha; simp [h.atoms a ha]
  · intro a ha; simp [h.writes a ha]

theorem undrained_quiet {s : State} {n : Nat} {t : Team} (h : Quiet s n t) (k : Nat) : s.undrained n k = false := by
  simp only [State.undrained, Bool.or_eq_false_iff, List.any_eq_false]
  refine ⟨⟨fun w hw => by simp [h.writes w hw], fun w hw => by simp [h.atoms w hw]⟩, fun l hl hx => ?_⟩
  obtain ⟨w, hw, hc⟩ := List.any_eq_true.mp hx
  simp [(h.lines l hl).2 w hw] at hc

theorem sqAtom_misaligned {s : State} {n : Nat} {t : Team} {op size ea order scope d a b} (h : ea % size ≠ 0) :
    s.sqAtom n t op size ea order scope d a b = s.trap n t .sq .align 0 ea 0 := by simp [State.sqAtom, h]

/-- What an atomic or reduction of the SQ on a page that is not SO adds to the write queue of its home slice. -/
theorem sqAtom_sends {s : State} {n : Nat} {t : Team} {op size ea order scope : Nat} {d : Option (BitVec 6)} {a b : DWord} {e : KttEntry}
    {pa : Nat} (ht : s.team? n = some t) (h : ea % size = 0) (hR : Reaches s n t .rw ea size e pa) (h2 : e.order ≠ 2) (hs : 0 < size)
    (hq : (order < 2 ∨ e.order = 0) ∧ Settled s n ∨ e.order = 1 ∧ Quiet s n t) :
    s.sqAtom n t op size ea order scope d a b = atomizing s n t
      { slot := n, tid := 0, pc := 0, seq := 0, asid := 0, op := op, a := a, b := b, d := d.map (·.toNat),
        va := ea, pa := pa, size := size, tagged := e.sreg.isSome, acq := (orderAct order e.order).1, scope := scope } := by
  obtain ⟨hg, hc, rfl, hh⟩ := hR
  have hd := destOf_hbm (show e.pa + (ea - e.va) < _ by omega)
  have hf : s.atPortFull (e.pa + (ea - e.va)) = false := atPortFull_hbm (show e.pa + (ea - e.va) < _ by omega)
  have hcalm : Calm s n := hq.elim (fun hq => hq.2.2) fun hq => ⟨hq.2.atoms, hq.2.requests⟩
  have hp : ∀ w ∈ s.fabric, (decide (w.slot = some n) && decide (w.eng = 0)) = false := by
    rcases hq with hq | hq
    · intro w hw; have := hq.2.1 w hw; by_cases h1 : w.slot = some n <;> simp_all
    · intro w hw; simp [hq.2.writes w hw]
  have hw (q : Nat) : s.performWrites (fun w => decide (w.slot = some n) && decide (w.eng = 0) && decide (w.pa / 128 = q)) = s :=
    performWrites_none fun w hw => by rw [hp w hw]; rfl
  have ht' : SMap.get? s.teams n = some t := ht
  have ha := acqPending_calm hcalm
  have key (hrel : (orderAct order e.order).2 = true → Quiet s n t) :
      s.sqAtom n t op size ea order scope d a b = atomizing s n t
        { slot := n, tid := 0, pc := 0, seq := 0, asid := 0, op := op, a := a, b := b, d := d.map (·.toNat),
          va := ea, pa := e.pa + (ea - e.va), size := size, tagged := e.sreg.isSome, acq := (orderAct order e.order).1, scope := scope } := by
    cases hr : (orderAct order e.order).2
    · simp [State.sqAtom, h, hg, hr, hd, hf, ha, h2, hw, State.updTeam, State.team?, ht', atomizing, State.setTeam]
    · have hQ := hrel hr
      have h0 : e.order ≠ 0 := by intro h0; simp [orderAct, h0] at hr
      simp [State.sqAtom, h, hg, hr, hd, hf, ha, h2, h0, hw, State.updTeam, State.team?, ht', atomizing, State.setTeam, State.release,
        readsOut_calm hcalm, releaseActions_quiet hQ, State.flushed, hQ.ports]
  apply key
  intro hr
  rcases hq with ⟨hq | hq, _⟩ | hq
  · unfold orderAct at hr; exfalso; repeat' split at hr
    all_goals simp_all; try omega
  · simp [orderAct, hq] at hr
  · exact hq.2

end Sys2Proof.Machine
end

