-- ==== Sys2Proof/Laws/PerInstr.lean ====
section
/-!
SUPPORT. Sys2Proof/Laws/PerInstr.lean: what holds of every instruction as syntax, one lemma per constructor: an instruction word of an
engine has an encoding, an operation or event of the device has none, and an encoding is a word of 32 bits that is not zero.
-/
namespace Sys2Proof.Laws

/-- The instruction is encoded exactly when some engine issues it, in a word that is not zero and has 32 bits (07 R139, R140). -/
def Words.Statement (i : Instr) : Prop :=
  (encode i).isSome = !i.streams.isEmpty ∧ ∀ w, encode i = some w → 0 < w ∧ w < 2 ^ 32

theorem Words.none_of {i : Instr} (h : encode i = none) (hs : i.streams = []) : Words.Statement i := by
  refine ⟨by rw [h, hs]; rfl, fun w hw => ?_⟩
  rw [h] at hw
  cases hw

theorem Words.of_bounds {i : Instr} {w : Nat} (h : encode i = some w) (hs : i.streams.isEmpty = false) (hw : 0 < w ∧ w < 2 ^ 32) :
    Words.Statement i := by
  refine ⟨by rw [h, hs]; rfl, fun v hv => ?_⟩
  rw [h] at hv
  cases hv
  exact hw

/-- A field takes no more than its largest value in its place. -/
theorem Words.field_le {n : Nat} (x : BitVec n) (l : Nat) : x.toNat * 2 ^ l ≤ (2 ^ n - 1) * 2 ^ l :=
  Nat.mul_le_mul_right _ (Nat.le_sub_one_of_lt x.isLt)

theorem Words.bounds0 (m : Nat)  (hm : 0 < m) (h : m < 2 ^ 32) :
    0 < enc0 m  ∧ enc0 m  < 2 ^ 32 := by
  unfold enc0
  omega

theorem Words.bounds1 (m : Nat) {n0 : Nat} (x0 : BitVec n0) (l0 : Nat) (hm : 0 < m) (h : m + (2 ^ n0 - 1) * 2 ^ l0 < 2 ^ 32) :
    0 < enc1 m x0 l0 ∧ enc1 m x0 l0 < 2 ^ 32 := by
  have h0 := Words.field_le x0 l0
  unfold enc1
  omega

theorem Words.bounds2 (m : Nat) {n0 : Nat} (x0 : BitVec n0) (l0 : Nat) {n1 : Nat} (x1 : BitVec n1) (l1 : Nat) (hm : 0 < m) (h : m + (2 ^ n0 - 1) * 2 ^ l0 + (2 ^ n1 - 1) * 2 ^ l1 < 2 ^ 32) :
    0 < enc2 m x0 l0 x1 l1 ∧ enc2 m x0 l0 x1 l1 < 2 ^ 32 := by
  have h0 := Words.field_le x0 l0
  have h1 := Words.field_le x1 l1
  unfold enc2
  omega

theorem Words.bounds3 (m : Nat) {n0 : Nat} (x0 : BitVec n0) (l0 : Nat) {n1 : Nat} (x1 : BitVec n1) (l1 : Nat) {n2 : Nat} (x2 : BitVec n2) (l2 : Nat) (hm : 0 < m) (h : m + (2 ^ n0 - 1) * 2 ^ l0 + (2 ^ n1 - 1) * 2 ^ l1 + (2 ^ n2 - 1) * 2 ^ l2 < 2 ^ 32) :
    0 < enc3 m x0 l0 x1 l1 x2 l2 ∧ enc3 m x0 l0 x1 l1 x2 l2 < 2 ^ 32 := by
  have h0 := Words.field_le x0 l0
  have h1 := Words.field_le x1 l1
  have h2 := Words.field_le x2 l2
  unfold enc3
  omega

theorem Words.bounds4 (m : Nat) {n0 : Nat} (x0 : BitVec n0) (l0 : Nat) {n1 : Nat} (x1 : BitVec n1) (l1 : Nat) {n2 : Nat} (x2 : BitVec n2) (l2 : Nat) {n3 : Nat} (x3 : BitVec n3) (l3 : Nat) (hm : 0 < m) (h : m + (2 ^ n0 - 1) * 2 ^ l0 + (2 ^ n1 - 1) * 2 ^ l1 + (2 ^ n2 - 1) * 2 ^ l2 + (2 ^ n3 - 1) * 2 ^ l3 < 2 ^ 32) :
    0 < enc4 m x0 l0 x1 l1 x2 l2 x3 l3 ∧ enc4 m x0 l0 x1 l1 x2 l2 x3 l3 < 2 ^ 32 := by
  have h0 := Words.field_le x0 l0
  have h1 := Words.field_le x1 l1
  have h2 := Words.field_le x2 l2
  have h3 := Words.field_le x3 l3
  unfold enc4
  omega

theorem Words.bounds5 (m : Nat) {n0 : Nat} (x0 : BitVec n0) (l0 : Nat) {n1 : Nat} (x1 : BitVec n1) (l1 : Nat) {n2 : Nat} (x2 : BitVec n2) (l2 : Nat) {n3 : Nat} (x3 : BitVec n3) (l3 : Nat) {n4 : Nat} (x4 : BitVec n4) (l4 : Nat) (hm : 0 < m) (h : m + (2 ^ n0 - 1) * 2 ^ l0 + (2 ^ n1 - 1) * 2 ^ l1 + (2 ^ n2 - 1) * 2 ^ l2 + (2 ^ n3 - 1) * 2 ^ l3 + (2 ^ n4 - 1) * 2 ^ l4 < 2 ^ 32) :
    0 < enc5 m x0 l0 x1 l1 x2 l2 x3 l3 x4 l4 ∧ enc5 m x0 l0 x1 l1 x2 l2 x3 l3 x4 l4 < 2 ^ 32 := by
  have h0 := Words.field_le x0 l0
  have h1 := Words.field_le x1 l1
  have h2 := Words.field_le x2 l2
  have h3 := Words.field_le x3 l3
  have h4 := Words.field_le x4 l4
  unfold enc5
  omega

theorem Words.add (d : BitVec 6) (a : BitVec 6) (b : BitVec 6) : Words.Statement (.add d a b) :=
  Words.of_bounds rfl rfl (Words.bounds3 _ _ _ _ _ _ _ (by decide) (by decide))
theorem Words.sub (d : BitVec 6) (a : BitVec 6) (b : BitVec 6) : Words.Statement (.sub d a b) :=
  Words.of_bounds rfl rfl (Words.bounds3 _ _ _ _ _ _ _ (by decide) (by decide))
theorem Words.and (d : BitVec 6) (a : BitVec 6) (b : BitVec 6) : Words.Statement (.and d a b) :=
  Words.of_bounds rfl rfl (Words.bounds3 _ _ _ _ _ _ _ (by decide) (by decide))
theorem Words.or (d : BitVec 6) (a : BitVec 6) (b : BitVec 6) : Words.Statement (.or d a b) :=
  Words.of_bounds rfl rfl (Words.bounds3 _ _ _ _ _ _ _ (by decide) (by decide))
theorem Words.xor (d : BitVec 6) (a : BitVec 6) (b : BitVec 6) : Words.Statement (.xor d a b) :=
  Words.of_bounds rfl rfl (Words.bounds3 _ _ _ _ _ _ _ (by decide) (by decide))
theorem Words.shl (d : BitVec 6) (a : BitVec 6) (b : BitVec 6) : Words.Statement (.shl d a b) :=
  Words.of_bounds rfl rfl (Words.bounds3 _ _ _ _ _ _ _ (by decide) (by decide))
theorem Words.shr (d : BitVec 6) (a : BitVec 6) (b : BitVec 6) : Words.Statement (.shr d a b) :=
  Words.of_bounds rfl rfl (Words.bounds3 _ _ _ _ _ _ _ (by decide) (by decide))
theorem Words.sar (d : BitVec 6) (a : BitVec 6) (b : BitVec 6) : Words.Statement (.sar d a b) :=
  Words.of_bounds rfl rfl (Words.bounds3 _ _ _ _ _ _ _ (by decide) (by decide))
theorem Words.slt (d : BitVec 6) (a : BitVec 6) (b : BitVec 6) : Words.Statement (.slt d a b) :=
  Words.of_bounds rfl rfl (Words.bounds3 _ _ _ _ _ _ _ (by decide) (by decide))
theorem Words.sltu (d : BitVec 6) (a : BitVec 6) (b : BitVec 6) : Words.Statement (.sltu d a b) :=
  Words.of_bounds rfl rfl (Words.bounds3 _ _ _ _ _ _ _ (by decide) (by decide))
theorem Words.min (d : BitVec 6) (a : BitVec 6) (b : BitVec 6) : Words.Statement (.min d a b) :=
  Words.of_bounds rfl rfl (Words.bounds3 _ _ _ _ _ _ _ (by decide) (by decide))
theorem Words.max (d : BitVec 6) (a : BitVec 6) (b : BitVec 6) : Words.Statement (.max d a b) :=
  Words.of_bounds rfl rfl (Words.bounds3 _ _ _ _ _ _ _ (by decide) (by decide))
theorem Words.minu (d : BitVec 6) (a : BitVec 6) (b : BitVec 6) : Words.Statement (.minu d a b) :=
  Words.of_bounds rfl rfl (Words.bounds3 _ _ _ _ _ _ _ (by decide) (by decide))
theorem Words.maxu (d : BitVec 6) (a : BitVec 6) (b : BitVec 6) : Words.Statement (.maxu d a b) :=
  Words.of_bounds rfl rfl (Words.bounds3 _ _ _ _ _ _ _ (by decide) (by decide))
theorem Words.cmov (d : BitVec 6) (a : BitVec 6) (b : BitVec 6) : Words.Statement (.cmov d a b) :=
  Words.of_bounds rfl rfl (Words.bounds3 _ _ _ _ _ _ _ (by decide) (by decide))
theorem Words.andn (d : BitVec 6) (a : BitVec 6) (b : BitVec 6) : Words.Statement (.andn d a b) :=
  Words.of_bounds rfl rfl (Words.bounds3 _ _ _ _ _ _ _ (by decide) (by decide))
theorem Words.mul (d : BitVec 6) (a : BitVec 6) (b : BitVec 6) : Words.Statement (.mul d a b) :=
  Words.of_bounds rfl rfl (Words.bounds3 _ _ _ _ _ _ _ (by decide) (by decide))
theorem Words.mulh (d : BitVec 6) (a : BitVec 6) (b : BitVec 6) : Words.Statement (.mulh d a b) :=
  Words.of_bounds rfl rfl (Words.bounds3 _ _ _ _ _ _ _ (by decide) (by decide))
theorem Words.mulhu (d : BitVec 6) (a : BitVec 6) (b : BitVec 6) : Words.Statement (.mulhu d a b) :=
  Words.of_bounds rfl rfl (Words.bounds3 _ _ _ _ _ _ _ (by decide) (by decide))
theorem Words.div (d : BitVec 6) (a : BitVec 6) (b : BitVec 6) : Words.Statement (.div d a b) :=
  Words.of_bounds rfl rfl (Words.bounds3 _ _ _ _ _ _ _ (by decide) (by decide))
theorem Words.divu (d : BitVec 6) (a : BitVec 6) (b : BitVec 6) : Words.Statement (.divu d a b) :=
  Words.of_bounds rfl rfl (Words.bounds3 _ _ _ _ _ _ _ (by decide) (by decide))
theorem Words.rem (d : BitVec 6) (a : BitVec 6) (b : BitVec 6) : Words.Statement (.rem d a b) :=
  Words.of_bounds rfl rfl (Words.bounds3 _ _ _ _ _ _ _ (by decide) (by decide))
theorem Words.remu (d : BitVec 6) (a : BitVec 6) (b : BitVec 6) : Words.Statement (.remu d a b) :=
  Words.of_bounds rfl rfl (Words.bounds3 _ _ _ _ _ _ _ (by decide) (by decide))
theorem Words.clz (d : BitVec 6) (a : BitVec 6) : Words.Statement (.clz d a) :=
  Words.of_bounds rfl rfl (Words.bounds2 _ _ _ _ _ (by decide) (by decide))
theorem Words.ctz (d : BitVec 6) (a : BitVec 6) : Words.Statement (.ctz d a) :=
  Words.of_bounds rfl rfl (Words.bounds2 _ _ _ _ _ (by decide) (by decide))
theorem Words.popc (d : BitVec 6) (a : BitVec 6) : Words.Statement (.popc d a) :=
  Words.of_bounds rfl rfl (Words.bounds2 _ _ _ _ _ (by decide) (by decide))
theorem Words.bfx (d : BitVec 6) (a : BitVec 6) (b : BitVec 6) : Words.Statement (.bfx d a b) :=
  Words.of_bounds rfl rfl (Words.bounds3 _ _ _ _ _ _ _ (by decide) (by decide))
theorem Words.bfxs (d : BitVec 6) (a : BitVec 6) (b : BitVec 6) : Words.Statement (.bfxs d a b) :=
  Words.of_bounds rfl rfl (Words.bounds3 _ _ _ _ _ _ _ (by decide) (by decide))
theorem Words.bfi (d : BitVec 6) (a : BitVec 6) (b : BitVec 6) : Words.Statement (.bfi d a b) :=
  Words.of_bounds rfl rfl (Words.bounds3 _ _ _ _ _ _ _ (by decide) (by decide))
theorem Words.addi (d : BitVec 6) (a : BitVec 6) (i : BitVec 14) : Words.Statement (.addi d a i) :=
  Words.of_bounds rfl rfl (Words.bounds3 _ _ _ _ _ _ _ (by decide) (by decide))
theorem Words.andi (d : BitVec 6) (a : BitVec 6) (i : BitVec 14) : Words.Statement (.andi d a i) :=
  Words.of_bounds rfl rfl (Words.bounds3 _ _ _ _ _ _ _ (by decide) (by decide))
theorem Words.ori (d : BitVec 6) (a : BitVec 6) (i : BitVec 14) : Words.Statement (.ori d a i) :=
  Words.of_bounds rfl rfl (Words.bounds3 _ _ _ _ _ _ _ (by decide) (by decide))
theorem Words.xori (d : BitVec 6) (a : BitVec 6) (i : BitVec 14) : Words.Statement (.xori d a i) :=
  Words.of_bounds rfl rfl (Words.bounds3 _ _ _ _ _ _ _ (by decide) (by decide))
theorem Words.slti (d : BitVec 6) (a : BitVec 6) (i : BitVec 14) : Words.Statement (.slti d a i) :=
  Words.of_bounds rfl rfl (Words.bounds3 _ _ _ _ _ _ _ (by decide) (by decide))
theorem Words.sltui (d : BitVec 6) (a : BitVec 6) (i : BitVec 14) : Words.Statement (.sltui d a i) :=
  Words.of_bounds rfl rfl (Words.bounds3 _ _ _ _ _ _ _ (by decide) (by decide))
theorem Words.shli (d : BitVec 6) (a : BitVec 6) (n : BitVec 6) : Words.Statement (.shli d a n) :=
  Words.of_bounds rfl rfl (Words.bounds3 _ _ _ _ _ _ _ (by decide) (by decide))
theorem Words.shri (d : BitVec 6) (a : BitVec 6) (n : BitVec 6) : Words.Statement (.shri d a n) :=
  Words.of_bounds rfl rfl (Words.bounds3 _ _ _ _ _ _ _ (by decide) (by decide))
theorem Words.sari (d : BitVec 6) (a : BitVec 6) (n : BitVec 6) : Words.Statement (.sari d a n) :=
  Words.of_bounds rfl rfl (Words.bounds3 _ _ _ _ _ _ _ (by decide) (by decide))
theorem Words.lui (d : BitVec 6) (i : BitVec 20) : Words.Statement (.lui d i) :=
  Words.of_bounds rfl rfl (Words.bounds2 _ _ _ _ _ (by decide) (by decide))
theorem Words.auipc (d : BitVec 6) (i : BitVec 20) : Words.Statement (.auipc d i) :=
  Words.of_bounds rfl rfl (Words.bounds2 _ _ _ _ _ (by decide) (by decide))
theorem Words.beq (a : BitVec 6) (b : BitVec 6) (o : BitVec 14) : Words.Statement (.beq a b o) :=
  Words.of_bounds rfl rfl (Words.bounds3 _ _ _ _ _ _ _ (by decide) (by decide))
theorem Words.bne (a : BitVec 6) (b : BitVec 6) (o : BitVec 14) : Words.Statement (.bne a b o) :=
  Words.of_bounds rfl rfl (Words.bounds3 _ _ _ _ _ _ _ (by decide) (by decide))
theorem Words.blt (a : BitVec 6) (b : BitVec 6) (o : BitVec 14) : Words.Statement (.blt a b o) :=
  Words.of_bounds rfl rfl (Words.bounds3 _ _ _ _ _ _ _ (by decide) (by decide))
theorem Words.bge (a : BitVec 6) (b : BitVec 6) (o : BitVec 14) : Words.Statement (.bge a b o) :=
  Words.of_bounds rfl rfl (Words.bounds3 _ _ _ _ _ _ _ (by decide) (by decide))
theorem Words.bltu (a : BitVec 6) (b : BitVec 6) (o : BitVec 14) : Words.Statement (.bltu a b o) :=
  Words.of_bounds rfl rfl (Words.bounds3 _ _ _ _ _ _ _ (by decide) (by decide))
theorem Words.bgeu (a : BitVec 6) (b : BitVec 6) (o : BitVec 14) : Words.Statement (.bgeu a b o) :=
  Words.of_bounds rfl rfl (Words.bounds3 _ _ _ _ _ _ _ (by decide) (by decide))
theorem Words.j (o : BitVec 26) : Words.Statement (.j o) :=
  Words.of_bounds rfl rfl (Words.bounds1 _ _ _ (by decide) (by decide))
theorem Words.jal (o : BitVec 26) : Words.Statement (.jal o) :=
  Words.of_bounds rfl rfl (Words.bounds1 _ _ _ (by decide) (by decide))
theorem Words.jalr (d : BitVec 6) (a : BitVec 6) (i : BitVec 14) : Words.Statement (.jalr d a i) :=
  Words.of_bounds rfl rfl (Words.bounds3 _ _ _ _ _ _ _ (by decide) (by decide))
theorem Words.loop (a : BitVec 6) (l : BitVec 13) : Words.Statement (.loop a l) :=
  Words.of_bounds rfl rfl (Words.bounds2 _ _ _ _ _ (by decide) (by decide))
theorem Words.ldb (d : BitVec 6) (b : BitVec 6) (r : BitVec 6) (p : BitVec 8) : Words.Statement (.ldb d b r p) :=
  Words.of_bounds rfl rfl (Words.bounds4 _ _ _ _ _ _ _ _ _ (by decide) (by decide))
theorem Words.ldbu (d : BitVec 6) (b : BitVec 6) (r : BitVec 6) (p : BitVec 8) : Words.Statement (.ldbu d b r p) :=
  Words.of_bounds rfl rfl (Words.bounds4 _ _ _ _ _ _ _ _ _ (by decide) (by decide))
theorem Words.ldh (d : BitVec 6) (b : BitVec 6) (r : BitVec 6) (p : BitVec 8) : Words.Statement (.ldh d b r p) :=
  Words.of_bounds rfl rfl (Words.bounds4 _ _ _ _ _ _ _ _ _ (by decide) (by decide))
theorem Words.ldhu (d : BitVec 6) (b : BitVec 6) (r : BitVec 6) (p : BitVec 8) : Words.Statement (.ldhu d b r p) :=
  Words.of_bounds rfl rfl (Words.bounds4 _ _ _ _ _ _ _ _ _ (by decide) (by decide))
theorem Words.ldw (d : BitVec 6) (b : BitVec 6) (r : BitVec 6) (p : BitVec 8) : Words.Statement (.ldw d b r p) :=
  Words.of_bounds rfl rfl (Words.bounds4 _ _ _ _ _ _ _ _ _ (by decide) (by decide))
theorem Words.ldwu (d : BitVec 6) (b : BitVec 6) (r : BitVec 6) (p : BitVec 8) : Words.Statement (.ldwu d b r p) :=
  Words.of_bounds rfl rfl (Words.bounds4 _ _ _ _ _ _ _ _ _ (by decide) (by decide))
theorem Words.ldd (d : BitVec 6) (b : BitVec 6) (r : BitVec 6) (p : BitVec 8) : Words.Statement (.ldd d b r p) :=
  Words.of_bounds rfl rfl (Words.bounds4 _ _ _ _ _ _ _ _ _ (by decide) (by decide))
theorem Words.stb (d : BitVec 6) (b : BitVec 6) (p : BitVec 8) : Words.Statement (.stb d b p) :=
  Words.of_bounds rfl rfl (Words.bounds3 _ _ _ _ _ _ _ (by decide) (by decide))
theorem Words.sth (d : BitVec 6) (b : BitVec 6) (p : BitVec 8) : Words.Statement (.sth d b p) :=
  Words.of_bounds rfl rfl (Words.bounds3 _ _ _ _ _ _ _ (by decide) (by decide))
theorem Words.stw (d : BitVec 6) (b : BitVec 6) (p : BitVec 8) : Words.Statement (.stw d b p) :=
  Words.of_bounds rfl rfl (Words.bounds3 _ _ _ _ _ _ _ (by decide) (by decide))
theorem Words.std (d : BitVec 6) (b : BitVec 6) (p : BitVec 8) : Words.Statement (.std d b p) :=
  Words.of_bounds rfl rfl (Words.bounds3 _ _ _ _ _ _ _ (by decide) (by decide))
theorem Words.lds (d : BitVec 6) (a : BitVec 6) (z : BitVec 2) (o : BitVec 12) : Words.Statement (.lds d a z o) :=
  Words.of_bounds rfl rfl (Words.bounds4 _ _ _ _ _ _ _ _ _ (by decide) (by decide))
theorem Words.sts (d : BitVec 6) (a : BitVec 6) (z : BitVec 2) (o : BitVec 12) : Words.Statement (.sts d a z o) :=
  Words.of_bounds rfl rfl (Words.bounds4 _ _ _ _ _ _ _ _ _ (by decide) (by decide))
theorem Words.ldp (d : BitVec 6) (a : BitVec 6) (w : BitVec 3) (o : BitVec 11) : Words.Statement (.ldp d a w o) :=
  Words.of_bounds rfl rfl (Words.bounds4 _ _ _ _ _ _ _ _ _ (by decide) (by decide))
theorem Words.atomSwap (d : BitVec 6) (a : BitVec 6) (b : BitVec 6) (o : BitVec 2) (c : BitVec 2) : Words.Statement (.atomSwap d a b o c) :=
  Words.of_bounds rfl rfl (Words.bounds5 _ _ _ _ _ _ _ _ _ _ _ (by decide) (by decide))
theorem Words.atomAdd (d : BitVec 6) (a : BitVec 6) (b : BitVec 6) (o : BitVec 2) (c : BitVec 2) : Words.Statement (.atomAdd d a b o c) :=
  Words.of_bounds rfl rfl (Words.bounds5 _ _ _ _ _ _ _ _ _ _ _ (by decide) (by decide))
theorem Words.atomAnd (d : BitVec 6) (a : BitVec 6) (b : BitVec 6) (o : BitVec 2) (c : BitVec 2) : Words.Statement (.atomAnd d a b o c) :=
  Words.of_bounds rfl rfl (Words.bounds5 _ _ _ _ _ _ _ _ _ _ _ (by decide) (by decide))
theorem Words.atomOr (d : BitVec 6) (a : BitVec 6) (b : BitVec 6) (o : BitVec 2) (c : BitVec 2) : Words.Statement (.atomOr d a b o c) :=
  Words.of_bounds rfl rfl (Words.bounds5 _ _ _ _ _ _ _ _ _ _ _ (by decide) (by decide))
theorem Words.atomXor (d : BitVec 6) (a : BitVec 6) (b : BitVec 6) (o : BitVec 2) (c : BitVec 2) : Words.Statement (.atomXor d a b o c) :=
  Words.of_bounds rfl rfl (Words.bounds5 _ _ _ _ _ _ _ _ _ _ _ (by decide) (by decide))
theorem Words.atomMin (d : BitVec 6) (a : BitVec 6) (b : BitVec 6) (o : BitVec 2) (c : BitVec 2) : Words.Statement (.atomMin d a b o c) :=
  Words.of_bounds rfl rfl (Words.bounds5 _ _ _ _ _ _ _ _ _ _ _ (by decide) (by decide))
theorem Words.atomMax (d : BitVec 6) (a : BitVec 6) (b : BitVec 6) (o : BitVec 2) (c : BitVec 2) : Words.Statement (.atomMax d a b o c) :=
  Words.of_bounds rfl rfl (Words.bounds5 _ _ _ _ _ _ _ _ _ _ _ (by decide) (by decide))
theorem Words.atomMinu (d : BitVec 6) (a : BitVec 6) (b : BitVec 6) (o : BitVec 2) (c : BitVec 2) : Words.Statement (.atomMinu d a b o c) :=
  Words.of_bounds rfl rfl (Words.bounds5 _ _ _ _ _ _ _ _ _ _ _ (by decide) (by decide))
theorem Words.atomMaxu (d : BitVec 6) (a : BitVec 6) (b : BitVec 6) (o : BitVec 2) (c : BitVec 2) : Words.Statement (.atomMaxu d a b o c) :=
  Words.of_bounds rfl rfl (Words.bounds5 _ _ _ _ _ _ _ _ _ _ _ (by decide) (by decide))
theorem Words.cas (d : BitVec 6) (a : BitVec 6) (b : BitVec 6) (o : BitVec 2) (c : BitVec 2) : Words.Statement (.cas d a b o c) :=
  Words.of_bounds rfl rfl (Words.bounds5 _ _ _ _ _ _ _ _ _ _ _ (by decide) (by decide))
theorem Words.redAdd (s : BitVec 1) (a : BitVec 6) (b : BitVec 6) (o : BitVec 1) (c : BitVec 2) : Words.Statement (.redAdd s a b o c) :=
  Words.of_bounds rfl rfl (Words.bounds5 _ _ _ _ _ _ _ _ _ _ _ (by decide) (by decide))
theorem Words.redAnd (s : BitVec 1) (a : BitVec 6) (b : BitVec 6) (o : BitVec 1) (c : BitVec 2) : Words.Statement (.redAnd s a b o c) :=
  Words.of_bounds rfl rfl (Words.bounds5 _ _ _ _ _ _ _ _ _ _ _ (by decide) (by decide))
theorem Words.redOr (s : BitVec 1) (a : BitVec 6) (b : BitVec 6) (o : BitVec 1) (c : BitVec 2) : Words.Statement (.redOr s a b o c) :=
  Words.of_bounds rfl rfl (Words.bounds5 _ _ _ _ _ _ _ _ _ _ _ (by decide) (by decide))
theorem Words.redXor (s : BitVec 1) (a : BitVec 6) (b : BitVec 6) (o : BitVec 1) (c : BitVec 2) : Words.Statement (.redXor s a b o c) :=
  Words.of_bounds rfl rfl (Words.bounds5 _ _ _ _ _ _ _ _ _ _ _ (by decide) (by decide))
theorem Words.redMin (s : BitVec 1) (a : BitVec 6) (b : BitVec 6) (o : BitVec 1) (c : BitVec 2) : Words.Statement (.redMin s a b o c) :=
  Words.of_bounds rfl rfl (Words.bounds5 _ _ _ _ _ _ _ _ _ _ _ (by decide) (by decide))
theorem Words.redMax (s : BitVec 1) (a : BitVec 6) (b : BitVec 6) (o : BitVec 1) (c : BitVec 2) : Words.Statement (.redMax s a b o c) :=
  Words.of_bounds rfl rfl (Words.bounds5 _ _ _ _ _ _ _ _ _ _ _ (by decide) (by decide))
theorem Words.redMinu (s : BitVec 1) (a : BitVec 6) (b : BitVec 6) (o : BitVec 1) (c : BitVec 2) : Words.Statement (.redMinu s a b o c) :=
  Words.of_bounds rfl rfl (Words.bounds5 _ _ _ _ _ _ _ _ _ _ _ (by decide) (by decide))
theorem Words.redMaxu (s : BitVec 1) (a : BitVec 6) (b : BitVec 6) (o : BitVec 1) (c : BitVec 2) : Words.Statement (.redMaxu s a b o c) :=
  Words.of_bounds rfl rfl (Words.bounds5 _ _ _ _ _ _ _ _ _ _ _ (by decide) (by decide))
theorem Words.redFadd32 (a : BitVec 6) (b : BitVec 6) (o : BitVec 1) (c : BitVec 2) : Words.Statement (.redFadd32 a b o c) :=
  Words.of_bounds rfl rfl (Words.bounds4 _ _ _ _ _ _ _ _ _ (by decide) (by decide))
theorem Words.redFadd64 (a : BitVec 6) (b : BitVec 6) (o : BitVec 1) (c : BitVec 2) : Words.Statement (.redFadd64 a b o c) :=
  Words.of_bounds rfl rfl (Words.bounds4 _ _ _ _ _ _ _ _ _ (by decide) (by decide))
theorem Words.lda (d : BitVec 6) (a : BitVec 6) (u : BitVec 1) (z : BitVec 2) (c : BitVec 2) : Words.Statement (.lda d a u z c) :=
  Words.of_bounds rfl rfl (Words.bounds5 _ _ _ _ _ _ _ _ _ _ _ (by decide) (by decide))
theorem Words.stl (d : BitVec 6) (a : BitVec 6) (z : BitVec 2) (c : BitVec 2) : Words.Statement (.stl d a z c) :=
  Words.of_bounds rfl rfl (Words.bounds4 _ _ _ _ _ _ _ _ _ (by decide) (by decide))
theorem Words.fenceAcq (c : BitVec 2) : Words.Statement (.fenceAcq c) :=
  Words.of_bounds rfl rfl (Words.bounds1 _ _ _ (by decide) (by decide))
theorem Words.fenceRel (c : BitVec 2) : Words.Statement (.fenceRel c) :=
  Words.of_bounds rfl rfl (Words.bounds1 _ _ _ (by decide) (by decide))
theorem Words.ldblk (f : BitVec 6) (a : BitVec 6) (n : BitVec 6) : Words.Statement (.ldblk f a n) :=
  Words.of_bounds rfl rfl (Words.bounds3 _ _ _ _ _ _ _ (by decide) (by decide))
theorem Words.blkwait (f : BitVec 6) : Words.Statement (.blkwait f) :=
  Words.of_bounds rfl rfl (Words.bounds1 _ _ _ (by decide) (by decide))
theorem Words.blkfree (f : BitVec 6) : Words.Statement (.blkfree f) :=
  Words.of_bounds rfl rfl (Words.bounds1 _ _ _ (by decide) (by decide))
theorem Words.chwf (n : BitVec 6) (c : BitVec 4) : Words.Statement (.chwf n c) :=
  Words.of_bounds rfl rfl (Words.bounds2 _ _ _ _ _ (by decide) (by decide))
theorem Words.chwe (n : BitVec 6) (c : BitVec 4) : Words.Statement (.chwe n c) :=
  Words.of_bounds rfl rfl (Words.bounds2 _ _ _ _ _ (by decide) (by decide))
theorem Words.chap (n : BitVec 6) (c : BitVec 4) : Words.Statement (.chap n c) :=
  Words.of_bounds rfl rfl (Words.bounds2 _ _ _ _ _ (by decide) (by decide))
theorem Words.chac (n : BitVec 6) (c : BitVec 4) : Words.Statement (.chac n c) :=
  Words.of_bounds rfl rfl (Words.bounds2 _ _ _ _ _ (by decide) (by decide))
theorem Words.chst (d : BitVec 6) (c : BitVec 4) : Words.Statement (.chst d c) :=
  Words.of_bounds rfl rfl (Words.bounds2 _ _ _ _ _ (by decide) (by decide))
theorem Words.binit (b : BitVec 5) : Words.Statement (.binit b) :=
  Words.of_bounds rfl rfl (Words.bounds1 _ _ _ (by decide) (by decide))
theorem Words.barr (b : BitVec 5) : Words.Statement (.barr b) :=
  Words.of_bounds rfl rfl (Words.bounds1 _ _ _ (by decide) (by decide))
theorem Words.bexp (a : BitVec 6) (b : BitVec 5) : Words.Statement (.bexp a b) :=
  Words.of_bounds rfl rfl (Words.bounds2 _ _ _ _ _ (by decide) (by decide))
theorem Words.bwait (a : BitVec 6) (b : BitVec 5) : Words.Statement (.bwait a b) :=
  Words.of_bounds rfl rfl (Words.bounds2 _ _ _ _ _ (by decide) (by decide))
theorem Words.estart (m : BitVec 5) : Words.Statement (.estart m) :=
  Words.of_bounds rfl rfl (Words.bounds1 _ _ _ (by decide) (by decide))
theorem Words.ewait (m : BitVec 5) : Words.Statement (.ewait m) :=
  Words.of_bounds rfl rfl (Words.bounds1 _ _ _ (by decide) (by decide))
theorem Words.estop (m : BitVec 5) : Words.Statement (.estop m) :=
  Words.of_bounds rfl rfl (Words.bounds1 _ _ _ (by decide) (by decide))
theorem Words.mfs (d : BitVec 6) (n : BitVec 10) : Words.Statement (.mfs d n) :=
  Words.of_bounds rfl rfl (Words.bounds2 _ _ _ _ _ (by decide) (by decide))
theorem Words.mts (a : BitVec 6) (n : BitVec 10) : Words.Statement (.mts a n) :=
  Words.of_bounds rfl rfl (Words.bounds2 _ _ _ _ _ (by decide) (by decide))
theorem Words.swpt (n : BitVec 8) : Words.Statement (.swpt n) :=
  Words.of_bounds rfl rfl (Words.bounds1 _ _ _ (by decide) (by decide))
theorem Words.falloc (d : BitVec 6) : Words.Statement (.falloc d) :=
  Words.of_bounds rfl rfl (Words.bounds1 _ _ _ (by decide) (by decide))
theorem Words.fresResolve (d : BitVec 6) (a : BitVec 6) (b : BitVec 6) : Words.Statement (.fresResolve d a b) :=
  Words.of_bounds rfl rfl (Words.bounds3 _ _ _ _ _ _ _ (by decide) (by decide))
theorem Words.fresFail (d : BitVec 6) (a : BitVec 6) (b : BitVec 6) : Words.Statement (.fresFail d a b) :=
  Words.of_bounds rfl rfl (Words.bounds3 _ _ _ _ _ _ _ (by decide) (by decide))
theorem Words.fresCancel (d : BitVec 6) (a : BitVec 6) : Words.Statement (.fresCancel d a) :=
  Words.of_bounds rfl rfl (Words.bounds2 _ _ _ _ _ (by decide) (by decide))
theorem Words.fresFree (d : BitVec 6) (a : BitVec 6) : Words.Statement (.fresFree d a) :=
  Words.of_bounds rfl rfl (Words.bounds2 _ _ _ _ _ (by decide) (by decide))
theorem Words.fresReset (d : BitVec 6) (a : BitVec 6) : Words.Statement (.fresReset d a) :=
  Words.of_bounds rfl rfl (Words.bounds2 _ _ _ _ _ (by decide) (by decide))
theorem Words.fwait (d : BitVec 6) (a : BitVec 6) : Words.Statement (.fwait d a) :=
  Words.of_bounds rfl rfl (Words.bounds2 _ _ _ _ _ (by decide) (by decide))
theorem Words.fpoll (d : BitVec 6) (a : BitVec 6) : Words.Statement (.fpoll d a) :=
  Words.of_bounds rfl rfl (Words.bounds2 _ _ _ _ _ (by decide) (by decide))
theorem Words.tktake (d : BitVec 6) (a : BitVec 6) : Words.Statement (.tktake d a) :=
  Words.of_bounds rfl rfl (Words.bounds2 _ _ _ _ _ (by decide) (by decide))
theorem Words.tkwait (a : BitVec 6) (b : BitVec 6) : Words.Statement (.tkwait a b) :=
  Words.of_bounds rfl rfl (Words.bounds2 _ _ _ _ _ (by decide) (by decide))
theorem Words.tkserve (a : BitVec 6) : Words.Statement (.tkserve a) :=
  Words.of_bounds rfl rfl (Words.bounds1 _ _ _ (by decide) (by decide))
theorem Words.qenq (d : BitVec 6) (a : BitVec 6) (b : BitVec 6) : Words.Statement (.qenq d a b) :=
  Words.of_bounds rfl rfl (Words.bounds3 _ _ _ _ _ _ _ (by decide) (by decide))
theorem Words.qdeq (d : BitVec 6) (a : BitVec 6) (b : BitVec 6) : Words.Statement (.qdeq d a b) :=
  Words.of_bounds rfl rfl (Words.bounds3 _ _ _ _ _ _ _ (by decide) (by decide))
theorem Words.tsub (d : BitVec 6) (a : BitVec 6) (b : BitVec 6) : Words.Statement (.tsub d a b) :=
  Words.of_bounds rfl rfl (Words.bounds3 _ _ _ _ _ _ _ (by decide) (by decide))
theorem Words.snap (d : BitVec 6) (a : BitVec 6) (b : BitVec 6) : Words.Statement (.snap d a b) :=
  Words.of_bounds rfl rfl (Words.bounds3 _ _ _ _ _ _ _ (by decide) (by decide))
theorem Words.sresv (d : BitVec 6) (a : BitVec 6) (b : BitVec 6) : Words.Statement (.sresv d a b) :=
  Words.of_bounds rfl rfl (Words.bounds3 _ _ _ _ _ _ _ (by decide) (by decide))
theorem Words.sacc (a : BitVec 6) : Words.Statement (.sacc a) :=
  Words.of_bounds rfl rfl (Words.bounds1 _ _ _ (by decide) (by decide))
theorem Words.srej (a : BitVec 6) : Words.Statement (.srej a) :=
  Words.of_bounds rfl rfl (Words.bounds1 _ _ _ (by decide) (by decide))
theorem Words.sqry (d : BitVec 6) (a : BitVec 6) : Words.Statement (.sqry d a) :=
  Words.of_bounds rfl rfl (Words.bounds2 _ _ _ _ _ (by decide) (by decide))
theorem Words.ldv (d : BitVec 6) (a : BitVec 6) (b : BitVec 6) : Words.Statement (.ldv d a b) :=
  Words.of_bounds rfl rfl (Words.bounds3 _ _ _ _ _ _ _ (by decide) (by decide))
theorem Words.tdcls (d : BitVec 6) (a : BitVec 6) : Words.Statement (.tdcls d a) :=
  Words.of_bounds rfl rfl (Words.bounds2 _ _ _ _ _ (by decide) (by decide))
theorem Words.tdscan (a : BitVec 6) (n : BitVec 10) : Words.Statement (.tdscan a n) :=
  Words.of_bounds rfl rfl (Words.bounds2 _ _ _ _ _ (by decide) (by decide))
theorem Words.cwb (a : BitVec 6) (n : BitVec 10) : Words.Statement (.cwb a n) :=
  Words.of_bounds rfl rfl (Words.bounds2 _ _ _ _ _ (by decide) (by decide))
theorem Words.cinv (a : BitVec 6) (n : BitVec 10) : Words.Statement (.cinv a n) :=
  Words.of_bounds rfl rfl (Words.bounds2 _ _ _ _ _ (by decide) (by decide))
theorem Words.cwbi (a : BitVec 6) (n : BitVec 10) : Words.Statement (.cwbi a n) :=
  Words.of_bounds rfl rfl (Words.bounds2 _ _ _ _ _ (by decide) (by decide))
theorem Words.trap (n : BitVec 10) : Words.Statement (.trap n) :=
  Words.of_bounds rfl rfl (Words.bounds1 _ _ _ (by decide) (by decide))
theorem Words.brk (n : BitVec 10) : Words.Statement (.brk n) :=
  Words.of_bounds rfl rfl (Words.bounds1 _ _ _ (by decide) (by decide))
theorem Words.vsetsh (p : BitVec 2) (r : BitVec 2) (m : BitVec 3) (t : BitVec 4) : Words.Statement (.vsetsh p r m t) :=
  Words.of_bounds rfl rfl (Words.bounds4 _ _ _ _ _ _ _ _ _ (by decide) (by decide))
theorem Words.vchmap (p : BitVec 1) (j : BitVec 3) (c : BitVec 4) : Words.Statement (.vchmap p j c) :=
  Words.of_bounds rfl rfl (Words.bounds3 _ _ _ _ _ _ _ (by decide) (by decide))
theorem Words.vsetpat (k : BitVec 4) (s : BitVec 1) (w : BitVec 5) (o : BitVec 7) : Words.Statement (.vsetpat k s w o) :=
  Words.of_bounds rfl rfl (Words.bounds4 _ _ _ _ _ _ _ _ _ (by decide) (by decide))
theorem Words.vsetpatHdr (f : BitVec 4) (p : BitVec 7) : Words.Statement (.vsetpatHdr f p) :=
  Words.of_bounds rfl rfl (Words.bounds2 _ _ _ _ _ (by decide) (by decide))
theorem Words.vloop (k : BitVec 4) (l : BitVec 20) : Words.Statement (.vloop k l) :=
  Words.of_bounds rfl rfl (Words.bounds2 _ _ _ _ _ (by decide) (by decide))
theorem Words.vjmp (o : BitVec 20) : Words.Statement (.vjmp o) :=
  Words.of_bounds rfl rfl (Words.bounds1 _ _ _ (by decide) (by decide))
theorem Words.vswpt (n : BitVec 8) : Words.Statement (.vswpt n) :=
  Words.of_bounds rfl rfl (Words.bounds1 _ _ _ (by decide) (by decide))
theorem Words.vadvc (c : BitVec 4) : Words.Statement (.vadvc c) :=
  Words.of_bounds rfl rfl (Words.bounds1 _ _ _ (by decide) (by decide))
theorem Words.vadvp (c : BitVec 4) : Words.Statement (.vadvp c) :=
  Words.of_bounds rfl rfl (Words.bounds1 _ _ _ (by decide) (by decide))
theorem Words.vwaitb (k : BitVec 4) (b : BitVec 5) : Words.Statement (.vwaitb k b) :=
  Words.of_bounds rfl rfl (Words.bounds2 _ _ _ _ _ (by decide) (by decide))
theorem Words.vadd (d : BitVec 8) (a : BitVec 8) (b : BitVec 8) : Words.Statement (.vadd d a b) :=
  Words.of_bounds rfl rfl (Words.bounds3 _ _ _ _ _ _ _ (by decide) (by decide))
theorem Words.vsub (d : BitVec 8) (a : BitVec 8) (b : BitVec 8) : Words.Statement (.vsub d a b) :=
  Words.of_bounds rfl rfl (Words.bounds3 _ _ _ _ _ _ _ (by decide) (by decide))
theorem Words.vmul (d : BitVec 8) (a : BitVec 8) (b : BitVec 8) : Words.Statement (.vmul d a b) :=
  Words.of_bounds rfl rfl (Words.bounds3 _ _ _ _ _ _ _ (by decide) (by decide))
theorem Words.vmulh (d : BitVec 8) (a : BitVec 8) (b : BitVec 8) : Words.Statement (.vmulh d a b) :=
  Words.of_bounds rfl rfl (Words.bounds3 _ _ _ _ _ _ _ (by decide) (by decide))
theorem Words.vfma (d : BitVec 8) (a : BitVec 8) (b : BitVec 8) : Words.Statement (.vfma d a b) :=
  Words.of_bounds rfl rfl (Words.bounds3 _ _ _ _ _ _ _ (by decide) (by decide))
theorem Words.vfms (d : BitVec 8) (a : BitVec 8) (b : BitVec 8) : Words.Statement (.vfms d a b) :=
  Words.of_bounds rfl rfl (Words.bounds3 _ _ _ _ _ _ _ (by decide) (by decide))
theorem Words.vmin (d : BitVec 8) (a : BitVec 8) (b : BitVec 8) : Words.Statement (.vmin d a b) :=
  Words.of_bounds rfl rfl (Words.bounds3 _ _ _ _ _ _ _ (by decide) (by decide))
theorem Words.vmax (d : BitVec 8) (a : BitVec 8) (b : BitVec 8) : Words.Statement (.vmax d a b) :=
  Words.of_bounds rfl rfl (Words.bounds3 _ _ _ _ _ _ _ (by decide) (by decide))
theorem Words.vabs (d : BitVec 8) (a : BitVec 8) : Words.Statement (.vabs d a) :=
  Words.of_bounds rfl rfl (Words.bounds2 _ _ _ _ _ (by decide) (by decide))
theorem Words.vneg (d : BitVec 8) (a : BitVec 8) : Words.Statement (.vneg d a) :=
  Words.of_bounds rfl rfl (Words.bounds2 _ _ _ _ _ (by decide) (by decide))
theorem Words.vadds (d : BitVec 8) (a : BitVec 8) (b : BitVec 8) : Words.Statement (.vadds d a b) :=
  Words.of_bounds rfl rfl (Words.bounds3 _ _ _ _ _ _ _ (by decide) (by decide))
theorem Words.vsubs (d : BitVec 8) (a : BitVec 8) (b : BitVec 8) : Words.Statement (.vsubs d a b) :=
  Words.of_bounds rfl rfl (Words.bounds3 _ _ _ _ _ _ _ (by decide) (by decide))
theorem Words.vavg (d : BitVec 8) (a : BitVec 8) (b : BitVec 8) : Words.Statement (.vavg d a b) :=
  Words.of_bounds rfl rfl (Words.bounds3 _ _ _ _ _ _ _ (by decide) (by decide))
theorem Words.vabd (d : BitVec 8) (a : BitVec 8) (b : BitVec 8) : Words.Statement (.vabd d a b) :=
  Words.of_bounds rfl rfl (Words.bounds3 _ _ _ _ _ _ _ (by decide) (by decide))
theorem Words.vand (d : BitVec 8) (a : BitVec 8) (b : BitVec 8) : Words.Statement (.vand d a b) :=
  Words.of_bounds rfl rfl (Words.bounds3 _ _ _ _ _ _ _ (by decide) (by decide))
theorem Words.vor (d : BitVec 8) (a : BitVec 8) (b : BitVec 8) : Words.Statement (.vor d a b) :=
  Words.of_bounds rfl rfl (Words.bounds3 _ _ _ _ _ _ _ (by decide) (by decide))
theorem Words.vxor (d : BitVec 8) (a : BitVec 8) (b : BitVec 8) : Words.Statement (.vxor d a b) :=
  Words.of_bounds rfl rfl (Words.bounds3 _ _ _ _ _ _ _ (by decide) (by decide))
theorem Words.vnot (d : BitVec 8) (a : BitVec 8) : Words.Statement (.vnot d a) :=
  Words.of_bounds rfl rfl (Words.bounds2 _ _ _ _ _ (by decide) (by decide))
theorem Words.vshl (d : BitVec 8) (a : BitVec 8) (b : BitVec 8) : Words.Statement (.vshl d a b) :=
  Words.of_bounds rfl rfl (Words.bounds3 _ _ _ _ _ _ _ (by decide) (by decide))
theorem Words.vshr (d : BitVec 8) (a : BitVec 8) (b : BitVec 8) : Words.Statement (.vshr d a b) :=
  Words.of_bounds rfl rfl (Words.bounds3 _ _ _ _ _ _ _ (by decide) (by decide))
theorem Words.vsar (d : BitVec 8) (a : BitVec 8) (b : BitVec 8) : Words.Statement (.vsar d a b) :=
  Words.of_bounds rfl rfl (Words.bounds3 _ _ _ _ _ _ _ (by decide) (by decide))
theorem Words.vshli (d : BitVec 8) (a : BitVec 8) (n : BitVec 5) : Words.Statement (.vshli d a n) :=
  Words.of_bounds rfl rfl (Words.bounds3 _ _ _ _ _ _ _ (by decide) (by decide))
theorem Words.vshri (d : BitVec 8) (a : BitVec 8) (n : BitVec 5) : Words.Statement (.vshri d a n) :=
  Words.of_bounds rfl rfl (Words.bounds3 _ _ _ _ _ _ _ (by decide) (by decide))
theorem Words.vsari (d : BitVec 8) (a : BitVec 8) (n : BitVec 5) : Words.Statement (.vsari d a n) :=
  Words.of_bounds rfl rfl (Words.bounds3 _ _ _ _ _ _ _ (by decide) (by decide))
theorem Words.vclz (d : BitVec 8) (a : BitVec 8) : Words.Statement (.vclz d a) :=
  Words.of_bounds rfl rfl (Words.bounds2 _ _ _ _ _ (by decide) (by decide))
theorem Words.vpopc (d : BitVec 8) (a : BitVec 8) : Words.Statement (.vpopc d a) :=
  Words.of_bounds rfl rfl (Words.bounds2 _ _ _ _ _ (by decide) (by decide))
theorem Words.vdiv (d : BitVec 8) (a : BitVec 8) (b : BitVec 8) : Words.Statement (.vdiv d a b) :=
  Words.of_bounds rfl rfl (Words.bounds3 _ _ _ _ _ _ _ (by decide) (by decide))
theorem Words.vsqrt (d : BitVec 8) (a : BitVec 8) : Words.Statement (.vsqrt d a) :=
  Words.of_bounds rfl rfl (Words.bounds2 _ _ _ _ _ (by decide) (by decide))
theorem Words.vrcp (d : BitVec 8) (a : BitVec 8) : Words.Statement (.vrcp d a) :=
  Words.of_bounds rfl rfl (Words.bounds2 _ _ _ _ _ (by decide) (by decide))
theorem Words.vrsq (d : BitVec 8) (a : BitVec 8) : Words.Statement (.vrsq d a) :=
  Words.of_bounds rfl rfl (Words.bounds2 _ _ _ _ _ (by decide) (by decide))
theorem Words.vexp2 (d : BitVec 8) (a : BitVec 8) : Words.Statement (.vexp2 d a) :=
  Words.of_bounds rfl rfl (Words.bounds2 _ _ _ _ _ (by decide) (by decide))
theorem Words.vlog2 (d : BitVec 8) (a : BitVec 8) : Words.Statement (.vlog2 d a) :=
  Words.of_bounds rfl rfl (Words.bounds2 _ _ _ _ _ (by decide) (by decide))
theorem Words.vclass (d : BitVec 8) (a : BitVec 8) : Words.Statement (.vclass d a) :=
  Words.of_bounds rfl rfl (Words.bounds2 _ _ _ _ _ (by decide) (by decide))
theorem Words.vcmp (c : BitVec 4) (m : BitVec 3) (a : BitVec 8) (b : BitVec 8) : Words.Statement (.vcmp c m a b) :=
  Words.of_bounds rfl rfl (Words.bounds4 _ _ _ _ _ _ _ _ _ (by decide) (by decide))
theorem Words.vsel (d : BitVec 8) (a : BitVec 8) (b : BitVec 8) : Words.Statement (.vsel d a b) :=
  Words.of_bounds rfl rfl (Words.bounds3 _ _ _ _ _ _ _ (by decide) (by decide))
theorem Words.mand (d : BitVec 3) (a : BitVec 3) (b : BitVec 3) : Words.Statement (.mand d a b) :=
  Words.of_bounds rfl rfl (Words.bounds3 _ _ _ _ _ _ _ (by decide) (by decide))
theorem Words.mor (d : BitVec 3) (a : BitVec 3) (b : BitVec 3) : Words.Statement (.mor d a b) :=
  Words.of_bounds rfl rfl (Words.bounds3 _ _ _ _ _ _ _ (by decide) (by decide))
theorem Words.mxor (d : BitVec 3) (a : BitVec 3) (b : BitVec 3) : Words.Statement (.mxor d a b) :=
  Words.of_bounds rfl rfl (Words.bounds3 _ _ _ _ _ _ _ (by decide) (by decide))
theorem Words.mnot (d : BitVec 3) (a : BitVec 3) : Words.Statement (.mnot d a) :=
  Words.of_bounds rfl rfl (Words.bounds2 _ _ _ _ _ (by decide) (by decide))
theorem Words.mpopc (d : BitVec 4) (a : BitVec 3) : Words.Statement (.mpopc d a) :=
  Words.of_bounds rfl rfl (Words.bounds2 _ _ _ _ _ (by decide) (by decide))
theorem Words.mfirst (d : BitVec 4) (a : BitVec 3) : Words.Statement (.mfirst d a) :=
  Words.of_bounds rfl rfl (Words.bounds2 _ _ _ _ _ (by decide) (by decide))
theorem Words.vcvt (d : BitVec 8) (a : BitVec 8) (t : BitVec 4) : Words.Statement (.vcvt d a t) :=
  Words.of_bounds rfl rfl (Words.bounds3 _ _ _ _ _ _ _ (by decide) (by decide))
theorem Words.vwiden (d : BitVec 8) (a : BitVec 8) (t : BitVec 4) : Words.Statement (.vwiden d a t) :=
  Words.of_bounds rfl rfl (Words.bounds3 _ _ _ _ _ _ _ (by decide) (by decide))
theorem Words.vnarrow (d : BitVec 8) (a : BitVec 8) (t : BitVec 4) : Words.Statement (.vnarrow d a t) :=
  Words.of_bounds rfl rfl (Words.bounds3 _ _ _ _ _ _ _ (by decide) (by decide))
theorem Words.vquant (d : BitVec 8) (a : BitVec 8) (b : BitVec 8) : Words.Statement (.vquant d a b) :=
  Words.of_bounds rfl rfl (Words.bounds3 _ _ _ _ _ _ _ (by decide) (by decide))
theorem Words.vdeq (d : BitVec 8) (a : BitVec 8) (b : BitVec 8) : Words.Statement (.vdeq d a b) :=
  Words.of_bounds rfl rfl (Words.bounds3 _ _ _ _ _ _ _ (by decide) (by decide))
theorem Words.vrsum (d : BitVec 8) (a : BitVec 8) : Words.Statement (.vrsum d a) :=
  Words.of_bounds rfl rfl (Words.bounds2 _ _ _ _ _ (by decide) (by decide))
theorem Words.vrmax (d : BitVec 8) (a : BitVec 8) : Words.Statement (.vrmax d a) :=
  Words.of_bounds rfl rfl (Words.bounds2 _ _ _ _ _ (by decide) (by decide))
theorem Words.vrmin (d : BitVec 8) (a : BitVec 8) : Words.Statement (.vrmin d a) :=
  Words.of_bounds rfl rfl (Words.bounds2 _ _ _ _ _ (by decide) (by decide))
theorem Words.vscan (d : BitVec 8) (a : BitVec 8) : Words.Statement (.vscan d a) :=
  Words.of_bounds rfl rfl (Words.bounds2 _ _ _ _ _ (by decide) (by decide))
theorem Words.vperm (d : BitVec 8) (a : BitVec 8) (b : BitVec 8) : Words.Statement (.vperm d a b) :=
  Words.of_bounds rfl rfl (Words.bounds3 _ _ _ _ _ _ _ (by decide) (by decide))
theorem Words.vslide (d : BitVec 8) (a : BitVec 8) (s : BitVec 8) : Words.Statement (.vslide d a s) :=
  Words.of_bounds rfl rfl (Words.bounds3 _ _ _ _ _ _ _ (by decide) (by decide))
theorem Words.vbcast (d : BitVec 8) (a : BitVec 8) (k : BitVec 4) : Words.Statement (.vbcast d a k) :=
  Words.of_bounds rfl rfl (Words.bounds3 _ _ _ _ _ _ _ (by decide) (by decide))
theorem Words.vcomp (d : BitVec 8) (a : BitVec 8) : Words.Statement (.vcomp d a) :=
  Words.of_bounds rfl rfl (Words.bounds2 _ _ _ _ _ (by decide) (by decide))
theorem Words.vexpd (d : BitVec 8) (a : BitVec 8) : Words.Statement (.vexpd d a) :=
  Words.of_bounds rfl rfl (Words.bounds2 _ _ _ _ _ (by decide) (by decide))
theorem Words.kli (k : BitVec 4) (i : BitVec 20) : Words.Statement (.kli k i) :=
  Words.of_bounds rfl rfl (Words.bounds2 _ _ _ _ _ (by decide) (by decide))
theorem Words.kadd (d : BitVec 4) (a : BitVec 4) (b : BitVec 4) : Words.Statement (.kadd d a b) :=
  Words.of_bounds rfl rfl (Words.bounds3 _ _ _ _ _ _ _ (by decide) (by decide))
theorem Words.kmul (d : BitVec 4) (a : BitVec 4) (b : BitVec 4) : Words.Statement (.kmul d a b) :=
  Words.of_bounds rfl rfl (Words.bounds3 _ _ _ _ _ _ _ (by decide) (by decide))
theorem Words.kfadd (d : BitVec 4) (a : BitVec 4) (b : BitVec 4) : Words.Statement (.kfadd d a b) :=
  Words.of_bounds rfl rfl (Words.bounds3 _ _ _ _ _ _ _ (by decide) (by decide))
theorem Words.kget (d : BitVec 4) (a : BitVec 8) (b : BitVec 4) : Words.Statement (.kget d a b) :=
  Words.of_bounds rfl rfl (Words.bounds3 _ _ _ _ _ _ _ (by decide) (by decide))
theorem Words.vins (d : BitVec 8) (a : BitVec 4) (b : BitVec 4) : Words.Statement (.vins d a b) :=
  Words.of_bounds rfl rfl (Words.bounds3 _ _ _ _ _ _ _ (by decide) (by decide))
theorem Words.kmfs (k : BitVec 4) (n : BitVec 10) : Words.Statement (.kmfs k n) :=
  Words.of_bounds rfl rfl (Words.bounds2 _ _ _ _ _ (by decide) (by decide))
theorem Words.xsetXreg (d : BitVec 4) (a : BitVec 4) : Words.Statement (.xsetXreg d a) :=
  Words.of_bounds rfl rfl (Words.bounds2 _ _ _ _ _ (by decide) (by decide))
theorem Words.xaddi (x : BitVec 4) (i : BitVec 20) : Words.Statement (.xaddi x i) :=
  Words.of_bounds rfl rfl (Words.bounds2 _ _ _ _ _ (by decide) (by decide))
theorem Words.vld (d : BitVec 8) (x : BitVec 4) (o : BitVec 12) : Words.Statement (.vld d x o) :=
  Words.of_bounds rfl rfl (Words.bounds3 _ _ _ _ _ _ _ (by decide) (by decide))
theorem Words.vst (d : BitVec 8) (x : BitVec 4) (o : BitVec 12) : Words.Statement (.vst d x o) :=
  Words.of_bounds rfl rfl (Words.bounds3 _ _ _ _ _ _ _ (by decide) (by decide))
theorem Words.vlds (d : BitVec 8) (x : BitVec 4) (k : BitVec 4) (o : BitVec 8) : Words.Statement (.vlds d x k o) :=
  Words.of_bounds rfl rfl (Words.bounds4 _ _ _ _ _ _ _ _ _ (by decide) (by decide))
theorem Words.vsts (d : BitVec 8) (x : BitVec 4) (k : BitVec 4) (o : BitVec 8) : Words.Statement (.vsts d x k o) :=
  Words.of_bounds rfl rfl (Words.bounds4 _ _ _ _ _ _ _ _ _ (by decide) (by decide))
theorem Words.vldx (d : BitVec 8) (x : BitVec 4) (a : BitVec 8) : Words.Statement (.vldx d x a) :=
  Words.of_bounds rfl rfl (Words.bounds3 _ _ _ _ _ _ _ (by decide) (by decide))
theorem Words.vstx (d : BitVec 8) (x : BitVec 4) (a : BitVec 8) : Words.Statement (.vstx d x a) :=
  Words.of_bounds rfl rfl (Words.bounds3 _ _ _ _ _ _ _ (by decide) (by decide))
theorem Words.vldp (d : BitVec 8) (x : BitVec 4) (o : BitVec 12) : Words.Statement (.vldp d x o) :=
  Words.of_bounds rfl rfl (Words.bounds3 _ _ _ _ _ _ _ (by decide) (by decide))
theorem Words.vldb (d : BitVec 8) (x : BitVec 4) (o : BitVec 12) : Words.Statement (.vldb d x o) :=
  Words.of_bounds rfl rfl (Words.bounds3 _ _ _ _ _ _ _ (by decide) (by decide))
theorem Words.nset (f : BitVec 8) (v : BitVec 20) : Words.Statement (.nset f v) :=
  Words.of_bounds rfl rfl (Words.bounds2 _ _ _ _ _ (by decide) (by decide))
theorem Words.nseth (f : BitVec 8) (v : BitVec 20) : Words.Statement (.nseth f v) :=
  Words.of_bounds rfl rfl (Words.bounds2 _ _ _ _ _ (by decide) (by decide))
theorem Words.nld (a : BitVec 16) : Words.Statement (.nld a) :=
  Words.of_bounds rfl rfl (Words.bounds1 _ _ _ (by decide) (by decide))
theorem Words.mgo (o : BitVec 8) (c : BitVec 1) (d : BitVec 16) : Words.Statement (.mgo o c d) :=
  Words.of_bounds rfl rfl (Words.bounds3 _ _ _ _ _ _ _ (by decide) (by decide))
theorem Words.mwait (n : BitVec 3) : Words.Statement (.mwait n) :=
  Words.of_bounds rfl rfl (Words.bounds1 _ _ _ (by decide) (by decide))
theorem Words.mloop (c : BitVec 12) (l : BitVec 16) : Words.Statement (.mloop c l) :=
  Words.of_bounds rfl rfl (Words.bounds2 _ _ _ _ _ (by decide) (by decide))
theorem Words.mjmp (o : BitVec 28) : Words.Statement (.mjmp o) :=
  Words.of_bounds rfl rfl (Words.bounds1 _ _ _ (by decide) (by decide))
theorem Words.mswpt (n : BitVec 8) : Words.Statement (.mswpt n) :=
  Words.of_bounds rfl rfl (Words.bounds1 _ _ _ (by decide) (by decide))
theorem Words.mwaitb (b : BitVec 5) (p : BitVec 1) (t : BitVec 1) : Words.Statement (.mwaitb b p t) :=
  Words.of_bounds rfl rfl (Words.bounds3 _ _ _ _ _ _ _ (by decide) (by decide))
theorem Words.xld (a : BitVec 17) : Words.Statement (.xld a) :=
  Words.of_bounds rfl rfl (Words.bounds1 _ _ _ (by decide) (by decide))
theorem Words.xset (f : BitVec 6) (p : BitVec 2) (v : BitVec 19) : Words.Statement (.xset f p v) :=
  Words.of_bounds rfl rfl (Words.bounds3 _ _ _ _ _ _ _ (by decide) (by decide))
theorem Words.xgo (o : BitVec 8) (d : BitVec 16) : Words.Statement (.xgo o d) :=
  Words.of_bounds rfl rfl (Words.bounds2 _ _ _ _ _ (by decide) (by decide))
theorem Words.xwait (n : BitVec 3) : Words.Statement (.xwait n) :=
  Words.of_bounds rfl rfl (Words.bounds1 _ _ _ (by decide) (by decide))
theorem Words.xmc (o : BitVec 8) (d : BitVec 16) : Words.Statement (.xmc o d) :=
  Words.of_bounds rfl rfl (Words.bounds2 _ _ _ _ _ (by decide) (by decide))
theorem Words.xconv (o : BitVec 8) (d : BitVec 16) : Words.Statement (.xconv o d) :=
  Words.of_bounds rfl rfl (Words.bounds2 _ _ _ _ _ (by decide) (by decide))
theorem Words.xdec (o : BitVec 8) (d : BitVec 16) : Words.Statement (.xdec o d) :=
  Words.of_bounds rfl rfl (Words.bounds2 _ _ _ _ _ (by decide) (by decide))
theorem Words.xgath (o : BitVec 8) (d : BitVec 16) : Words.Statement (.xgath o d) :=
  Words.of_bounds rfl rfl (Words.bounds2 _ _ _ _ _ (by decide) (by decide))
theorem Words.xscat (o : BitVec 8) (d : BitVec 16) : Words.Statement (.xscat o d) :=
  Words.of_bounds rfl rfl (Words.bounds2 _ _ _ _ _ (by decide) (by decide))
theorem Words.xloop (c : BitVec 11) (l : BitVec 16) : Words.Statement (.xloop c l) :=
  Words.of_bounds rfl rfl (Words.bounds2 _ _ _ _ _ (by decide) (by decide))
theorem Words.xjmp (o : BitVec 27) : Words.Statement (.xjmp o) :=
  Words.of_bounds rfl rfl (Words.bounds1 _ _ _ (by decide) (by decide))
theorem Words.xswpt (n : BitVec 8) : Words.Statement (.xswpt n) :=
  Words.of_bounds rfl rfl (Words.bounds1 _ _ _ (by decide) (by decide))
theorem Words.xwaitb (b : BitVec 5) (p : BitVec 1) (t : BitVec 1) : Words.Statement (.xwaitb b p t) :=
  Words.of_bounds rfl rfl (Words.bounds3 _ _ _ _ _ _ _ (by decide) (by decide))
theorem Words.xpushr (o : BitVec 8) (d : BitVec 16) : Words.Statement (.xpushr o d) :=
  Words.of_bounds rfl rfl (Words.bounds2 _ _ _ _ _ (by decide) (by decide))
theorem Words.lpop (o : BitVec 8) (e : BitVec 3) (d : BitVec 16) : Words.Statement (.lpop o e d) :=
  Words.of_bounds rfl rfl (Words.bounds3 _ _ _ _ _ _ _ (by decide) (by decide))
theorem Words.lpeek (o : BitVec 8) (e : BitVec 3) (d : BitVec 16) : Words.Statement (.lpeek o e d) :=
  Words.of_bounds rfl rfl (Words.bounds3 _ _ _ _ _ _ _ (by decide) (by decide))
theorem Words.gfetch (o : BitVec 8) (e : BitVec 3) (d : BitVec 16) : Words.Statement (.gfetch o e d) :=
  Words.of_bounds rfl rfl (Words.bounds3 _ _ _ _ _ _ _ (by decide) (by decide))
theorem Words.gshift (o : BitVec 8) (e : BitVec 3) (d : BitVec 16) : Words.Statement (.gshift o e d) :=
  Words.of_bounds rfl rfl (Words.bounds3 _ _ _ _ _ _ _ (by decide) (by decide))
theorem Words.gpool (o : BitVec 8) (e : BitVec 3) (d : BitVec 16) : Words.Statement (.gpool o e d) :=
  Words.of_bounds rfl rfl (Words.bounds3 _ _ _ _ _ _ _ (by decide) (by decide))
theorem Words.gdone (o : BitVec 8) : Words.Statement (.gdone o) :=
  Words.of_bounds rfl rfl (Words.bounds1 _ _ _ (by decide) (by decide))
theorem Words.fenceFullT : Words.Statement (.fenceFullT) :=
  Words.of_bounds rfl rfl (Words.bounds0 _ (by decide) (by decide))
theorem Words.fenceFullC : Words.Statement (.fenceFullC) :=
  Words.of_bounds rfl rfl (Words.bounds0 _ (by decide) (by decide))
theorem Words.fenceFullD : Words.Statement (.fenceFullD) :=
  Words.of_bounds rfl rfl (Words.bounds0 _ (by decide) (by decide))
theorem Words.fenceFullS : Words.Statement (.fenceFullS) :=
  Words.of_bounds rfl rfl (Words.bounds0 _ (by decide) (by decide))
theorem Words.yield : Words.Statement (.yield) :=
  Words.of_bounds rfl rfl (Words.bounds0 _ (by decide) (by decide))
theorem Words.pstart : Words.Statement (.pstart) :=
  Words.of_bounds rfl rfl (Words.bounds0 _ (by decide) (by decide))
theorem Words.pwait : Words.Statement (.pwait) :=
  Words.of_bounds rfl rfl (Words.bounds0 _ (by decide) (by decide))
theorem Words.exit : Words.Statement (.exit) :=
  Words.of_bounds rfl rfl (Words.bounds0 _ (by decide) (by decide))
theorem Words.exitErr : Words.Statement (.exitErr) :=
  Words.of_bounds rfl rfl (Words.bounds0 _ (by decide) (by decide))
theorem Words.eret : Words.Statement (.eret) :=
  Words.of_bounds rfl rfl (Words.bounds0 _ (by decide) (by decide))
theorem Words.vend : Words.Statement (.vend) :=
  Words.of_bounds rfl rfl (Words.bounds0 _ (by decide) (by decide))
theorem Words.mend : Words.Statement (.mend) :=
  Words.of_bounds rfl rfl (Words.bounds0 _ (by decide) (by decide))
theorem Words.mclr0 : Words.Statement (.mclr0) :=
  Words.of_bounds rfl rfl (Words.bounds0 _ (by decide) (by decide))
theorem Words.mclr1 : Words.Statement (.mclr1) :=
  Words.of_bounds rfl rfl (Words.bounds0 _ (by decide) (by decide))
theorem Words.mclrBoth : Words.Statement (.mclrBoth) :=
  Words.of_bounds rfl rfl (Words.bounds0 _ (by decide) (by decide))
theorem Words.mdrain : Words.Statement (.mdrain) :=
  Words.of_bounds rfl rfl (Words.bounds0 _ (by decide) (by decide))
theorem Words.xend : Words.Statement (.xend) :=
  Words.of_bounds rfl rfl (Words.bounds0 _ (by decide) (by decide))
theorem Words.switchPointJump (slot : Nat) : Words.Statement (.switchPointJump slot) := Words.none_of rfl rfl
theorem Words.registerWrite (off : Nat) (val : BitVec 64) : Words.Statement (.registerWrite off val) := Words.none_of rfl rfl
theorem Words.queueEnable (q : Nat) : Words.Statement (.queueEnable q) := Words.none_of rfl rfl
theorem Words.queueDisable (q : Nat) : Words.Statement (.queueDisable q) := Words.none_of rfl rfl
theorem Words.queueTeardown (q : Nat) : Words.Statement (.queueTeardown q) := Words.none_of rfl rfl
theorem Words.queueReset (q : Nat) : Words.Statement (.queueReset q) := Words.none_of rfl rfl
theorem Words.teardownFinish (q : Nat) : Words.Statement (.teardownFinish q) := Words.none_of rfl rfl
theorem Words.futureAllocRead (asid : Nat) : Words.Statement (.futureAllocRead asid) := Words.none_of rfl rfl
theorem Words.queueWake (q : Nat) : Words.Statement (.queueWake q) := Words.none_of rfl rfl
theorem Words.recordAdmit (q : Nat) : Words.Statement (.recordAdmit q) := Words.none_of rfl rfl
theorem Words.taskFutureResolve (tid : Nat) : Words.Statement (.taskFutureResolve tid) := Words.none_of rfl rfl
theorem Words.taskFutureFail (tid : Nat) : Words.Statement (.taskFutureFail tid) := Words.none_of rfl rfl
theorem Words.taskFutureCancel (tid : Nat) : Words.Statement (.taskFutureCancel tid) := Words.none_of rfl rfl
theorem Words.taskFutureFree (tid : Nat) : Words.Statement (.taskFutureFree tid) := Words.none_of rfl rfl
theorem Words.taskFutureReset (tid : Nat) : Words.Statement (.taskFutureReset tid) := Words.none_of rfl rfl
theorem Words.taskTicketServe (tid : Nat) : Words.Statement (.taskTicketServe tid) := Words.none_of rfl rfl
theorem Words.taskTicketInit (tid : Nat) : Words.Statement (.taskTicketInit tid) := Words.none_of rfl rfl
theorem Words.teamPlace (tid ix : Nat) (places : List (Nat × Nat)) (evict : List Nat) : Words.Statement (.teamPlace tid ix places evict) := Words.none_of rfl rfl
theorem Words.kernelSlotLoaded (core ks : Nat) : Words.Statement (.kernelSlotLoaded core ks) := Words.none_of rfl rfl
theorem Words.bankClearDone (slot : Nat) : Words.Statement (.bankClearDone slot) := Words.none_of rfl rfl
theorem Words.swapOutDone (slot : Nat) : Words.Statement (.swapOutDone slot) := Words.none_of rfl rfl
theorem Words.swapInDone (slot : Nat) : Words.Statement (.swapInDone slot) := Words.none_of rfl rfl
theorem Words.occupancyTick : Words.Statement (.occupancyTick) := Words.none_of rfl rfl
theorem Words.classStarved (cls : Nat) : Words.Statement (.classStarved cls) := Words.none_of rfl rfl
theorem Words.quantumExpiry (core : Nat) : Words.Statement (.quantumExpiry core) := Words.none_of rfl rfl
theorem Words.switchComplete (core : Nat) : Words.Statement (.switchComplete core) := Words.none_of rfl rfl
theorem Words.meSwitchDone (core : Nat) : Words.Statement (.meSwitchDone core) := Words.none_of rfl rfl
theorem Words.preemptRequest (slot : Nat) : Words.Statement (.preemptRequest slot) := Words.none_of rfl rfl
theorem Words.teamHalted (slot : Nat) : Words.Statement (.teamHalted slot) := Words.none_of rfl rfl
theorem Words.watchdogPreempt (tid : Nat) : Words.Statement (.watchdogPreempt tid) := Words.none_of rfl rfl
theorem Words.watchdogForceKill (tid : Nat) : Words.Statement (.watchdogForceKill tid) := Words.none_of rfl rfl
theorem Words.watchdogFence (tid : Nat) (f : FencedUnit) : Words.Statement (.watchdogFence tid f) := Words.none_of rfl rfl
theorem Words.fenceReturn (unit : Nat) : Words.Statement (.fenceReturn unit) := Words.none_of rfl rfl
theorem Words.taskRetire (tid : Nat) : Words.Statement (.taskRetire tid) := Words.none_of rfl rfl
theorem Words.decodeJob (w : JobStep) (eng : Nat) : Words.Statement (.decodeJob w eng) := Words.none_of rfl rfl
theorem Words.cmuJob (w : JobStep) : Words.Statement (.cmuJob w) := Words.none_of rfl rfl
theorem Words.listJob (w : JobStep) : Words.Statement (.listJob w) := Words.none_of rfl rfl
theorem Words.copyJob (w : JobStep) (eng : Nat) : Words.Statement (.copyJob w eng) := Words.none_of rfl rfl
theorem Words.collectiveJob (w : JobStep) (eng : Nat) : Words.Statement (.collectiveJob w eng) := Words.none_of rfl rfl
theorem Words.collectiveStagePass (tid : Nat) : Words.Statement (.collectiveStagePass tid) := Words.none_of rfl rfl
theorem Words.collectiveTimeout (tid : Nat) : Words.Statement (.collectiveTimeout tid) := Words.none_of rfl rfl
theorem Words.tlbMissProbe (stop asid va : Nat) : Words.Statement (.tlbMissProbe stop asid va) := Words.none_of rfl rfl
theorem Words.pageWalk (stop walker asid va : Nat) : Words.Statement (.pageWalk stop walker asid va) := Words.none_of rfl rfl
theorem Words.invalidateGo (val : BitVec 64) : Words.Statement (.invalidateGo val) := Words.none_of rfl rfl
theorem Words.invalidateAck : Words.Statement (.invalidateAck) := Words.none_of rfl rfl
theorem Words.loadDataArrival (slot ix : Nat) : Words.Statement (.loadDataArrival slot ix) := Words.none_of rfl rfl
theorem Words.timedLanding (slot ix : Nat) : Words.Statement (.timedLanding slot ix) := Words.none_of rfl rfl
theorem Words.lateLandingFreeze (slot : Nat) : Words.Statement (.lateLandingFreeze slot) := Words.none_of rfl rfl
theorem Words.completionDeadline (slot eng : Nat) : Words.Statement (.completionDeadline slot eng) := Words.none_of rfl rfl
theorem Words.tuJobComplete (slot : Nat) (w : TuStep) : Words.Statement (.tuJobComplete slot w) := Words.none_of rfl rfl
theorem Words.pushClaim (slot eng : Nat) : Words.Statement (.pushClaim slot eng) := Words.none_of rfl rfl
theorem Words.windowLanding (cluster : Nat) : Words.Statement (.windowLanding cluster) := Words.none_of rfl rfl
theorem Words.nestValidated (slot : Nat) : Words.Statement (.nestValidated slot) := Words.none_of rfl rfl
theorem Words.meBLoadDone (slot : Nat) : Words.Statement (.meBLoadDone slot) := Words.none_of rfl rfl
theorem Words.mePassDone (slot : Nat) : Words.Statement (.mePassDone slot) := Words.none_of rfl rfl
theorem Words.meBoundaryDone (slot : Nat) : Words.Statement (.meBoundaryDone slot) := Words.none_of rfl rfl
theorem Words.meDrainDone (slot : Nat) : Words.Statement (.meDrainDone slot) := Words.none_of rfl rfl
theorem Words.nestComplete (slot : Nat) : Words.Statement (.nestComplete slot) := Words.none_of rfl rfl
theorem Words.mclrClear (slot : Nat) : Words.Statement (.mclrClear slot) := Words.none_of rfl rfl
theorem Words.mdrainClear (slot : Nat) : Words.Statement (.mdrainClear slot) := Words.none_of rfl rfl
theorem Words.loadBlockFilled (slot flag : Nat) : Words.Statement (.loadBlockFilled slot flag) := Words.none_of rfl rfl
theorem Words.writeDrainDone (slot : Nat) : Words.Statement (.writeDrainDone slot) := Words.none_of rfl rfl
theorem Words.taggedWrite (c : WriteCut) : Words.Statement (.taggedWrite c) := Words.none_of rfl rfl
theorem Words.restorerWorkDone : Words.Statement (.restorerWorkDone) := Words.none_of rfl rfl
theorem Words.lineRecall (ix : Nat) : Words.Statement (.lineRecall ix) := Words.none_of rfl rfl
theorem Words.atomicApply (ix : Nat) : Words.Statement (.atomicApply ix) := Words.none_of rfl rfl
theorem Words.patrolScrub (slot dtile : Nat) (bad : List Nat) : Words.Statement (.patrolScrub slot dtile bad) := Words.none_of rfl rfl
theorem Words.uncorrectableError (store unit addr : Nat) : Words.Statement (.uncorrectableError store unit addr) := Words.none_of rfl rfl
theorem Words.correctedError (unit : Nat) : Words.Statement (.correctedError unit) := Words.none_of rfl rfl
theorem Words.faultHalt (slot : Nat) : Words.Statement (.faultHalt slot) := Words.none_of rfl rfl
theorem Words.handlerEntry (slot : Nat) : Words.Statement (.handlerEntry slot) := Words.none_of rfl rfl
theorem Words.asyncFault (slot : Nat) : Words.Statement (.asyncFault slot) := Words.none_of rfl rfl
theorem Words.clusterGate (cluster : Nat) : Words.Statement (.clusterGate cluster) := Words.none_of rfl rfl
theorem Words.gatedBounce (origin cluster addr : Nat) : Words.Statement (.gatedBounce origin cluster addr) := Words.none_of rfl rfl
theorem Words.powerEstimateTick (watts : Nat) : Words.Statement (.powerEstimateTick watts) := Words.none_of rfl rfl
theorem Words.fllStep (unit : Nat) : Words.Statement (.fllStep unit) := Words.none_of rfl rfl
theorem Words.boostArbiterSample : Words.Statement (.boostArbiterSample) := Words.none_of rfl rfl
theorem Words.permitIntervalEnd : Words.Statement (.permitIntervalEnd) := Words.none_of rfl rfl
theorem Words.bstbudWrite (val : BitVec 64) : Words.Statement (.bstbudWrite val) := Words.none_of rfl rfl
theorem Words.pwrqWrite (q : Nat) (val : BitVec 64) : Words.Statement (.pwrqWrite q val) := Words.none_of rfl rfl
theorem Words.sensorSample (readings : List (Nat × Int)) : Words.Statement (.sensorSample readings) := Words.none_of rfl rfl
theorem Words.t4PowerRemove : Words.Statement (.t4PowerRemove) := Words.none_of rfl rfl
theorem Words.hostBar2Read (r : Tlp) (len : Nat) : Words.Statement (.hostBar2Read r len) := Words.none_of rfl rfl
theorem Words.hostBar2Write (r : Tlp) (bytes : List (BitVec 8)) (ep : Bool) : Words.Statement (.hostBar2Write r bytes ep) := Words.none_of rfl rfl
theorem Words.hostAtomicop (r : Tlp) (size op : Nat) (a b : BitVec 64) : Words.Statement (.hostAtomicop r size op a b) := Words.none_of rfl rfl
theorem Words.peerRequest (rid : Nat) (r : Tlp) (kind len : Nat) (bytes : List (BitVec 8)) (a b : BitVec 64) : Words.Statement (.peerRequest rid r kind len bytes a b) := Words.none_of rfl rfl
theorem Words.outboundCompletion (ix status : Nat) (bytes : List (BitVec 8)) : Words.Statement (.outboundCompletion ix status bytes) := Words.none_of rfl rfl
theorem Words.completionTimeout (ix : Nat) : Words.Statement (.completionTimeout ix) := Words.none_of rfl rfl
theorem Words.linkDown (port : Nat) : Words.Statement (.linkDown port) := Words.none_of rfl rfl
theorem Words.linkRetrain (port width : Nat) (err : Option Nat) : Words.Statement (.linkRetrain port width err) := Words.none_of rfl rfl
theorem Words.getVersion : Words.Statement (.getVersion) := Words.none_of rfl rfl
theorem Words.getCapabilities : Words.Statement (.getCapabilities) := Words.none_of rfl rfl
theorem Words.negotiateAlgorithms (offer : List Nat) : Words.Statement (.negotiateAlgorithms offer) := Words.none_of rfl rfl
theorem Words.getDigests : Words.Statement (.getDigests) := Words.none_of rfl rfl
theorem Words.getCertificate (certSlot : Nat) : Words.Statement (.getCertificate certSlot) := Words.none_of rfl rfl
theorem Words.challenge (nonce : BitVec 256) : Words.Statement (.challenge nonce) := Words.none_of rfl rfl
theorem Words.getMeasurements (index : Nat) : Words.Statement (.getMeasurements index) := Words.none_of rfl rfl
theorem Words.keyExchange (share : BitVec 512) : Words.Statement (.keyExchange share) := Words.none_of rfl rfl
theorem Words.finish (verify : BitVec 256) : Words.Statement (.finish verify) := Words.none_of rfl rfl
theorem Words.endSession : Words.Statement (.endSession) := Words.none_of rfl rfl
theorem Words.logRead (start count : Nat) : Words.Statement (.logRead start count) := Words.none_of rfl rfl
theorem Words.marginingRequest (x : Lane) : Words.Statement (.marginingRequest x) := Words.none_of rfl rfl
theorem Words.marginingDone : Words.Statement (.marginingDone) := Words.none_of rfl rfl
theorem Words.powerOnStart : Words.Statement (.powerOnStart) := Words.none_of rfl rfl
theorem Words.firmwareVerified (fwSvn : BitVec 32) (fw : FwImage) (blk : CfgBlock) : Words.Statement (.firmwareVerified fwSvn fw blk) := Words.none_of rfl rfl
theorem Words.sensorsRead (rd : StackReadings) : Words.Statement (.sensorsRead rd) := Words.none_of rfl rfl
theorem Words.selfHeatEnd (readings : Option (List (Nat × Int))) : Words.Statement (.selfHeatEnd readings) := Words.none_of rfl rfl
theorem Words.hbmTrained (ok : Bool) : Words.Statement (.hbmTrained ok) := Words.none_of rfl rfl
theorem Words.pcieTrained (ok : Bool) : Words.Statement (.pcieTrained ok) := Words.none_of rfl rfl
theorem Words.schedulerStarted (ok : Bool) : Words.Statement (.schedulerStarted ok) := Words.none_of rfl rfl
theorem Words.hbmRetrain (stack chan : Nat) : Words.Statement (.hbmRetrain stack chan) := Words.none_of rfl rfl
theorem Words.deviceUnitReply (slot : Nat) : Words.Statement (.deviceUnitReply slot) := Words.none_of rfl rfl
theorem Words.marginingCommand (port lane : Nat) (cmd : BitVec 16) : Words.Statement (.marginingCommand port lane cmd) := Words.none_of rfl rfl
theorem Words.powerLoss : Words.Statement (.powerLoss) := Words.none_of rfl rfl
theorem Words.recordsSummarised (type source count : Nat) : Words.Statement (.recordsSummarised type source count) := Words.none_of rfl rfl

end Sys2Proof.Laws
end

