-- ==== Sys2Proof/Laws/Ve.lean ====
section
/-!
SUPPORT. Sys2Proof/Laws/Ve.lean: the elements of a vector that was packed from a list of numbers, and what a word of the VE answers
once its operands are read.
-/
namespace Sys2Proof.Machine

open Sys2Proof.Claims

/-- The number whose `w`-bit digits are the listed numbers, lowest first. -/
theorem digits_lt (w : Nat) (l : List Nat) : l.foldr (fun x acc => x % 2 ^ w + 2 ^ w * acc) 0 < 2 ^ (w * l.length) := by
  induction l with
  | nil => simp
  | cons x r ih =>
    have h1 : x % 2 ^ w < 2 ^ w := Nat.mod_lt _ (Nat.two_pow_pos w)
    have h2 : 2 ^ w * (List.foldr (fun x acc => x % 2 ^ w + 2 ^ w * acc) 0 r + 1) ≤ 2 ^ w * 2 ^ (w * r.length) :=
      Nat.mul_le_mul_left _ ih
    rw [List.foldr_cons, List.length_cons, Nat.mul_succ, Nat.pow_add, Nat.mul_comm (2 ^ (w * r.length))]
    rw [Nat.mul_add, Nat.mul_one] at h2
    omega

theorem digit_get (w : Nat) (l : List Nat) (i : Nat) :
    l.foldr (fun x acc => x % 2 ^ w + 2 ^ w * acc) 0 / 2 ^ (w * i) % 2 ^ w = l.getD i 0 % 2 ^ w := by
  induction l generalizing i with
  | nil => simp
  | cons x r ih =>
    have h0 := Nat.two_pow_pos w
    cases i with
    | zero => simp
    | succ i =>
      rw [List.foldr_cons, List.getD_cons_succ, ← ih i, Nat.mul_succ, Nat.pow_add, Nat.mul_comm (2 ^ (w * i)),
        ← Nat.div_div_eq_div_mul, Nat.add_mul_div_left _ _ h0, Nat.div_eq_of_lt (Nat.mod_lt _ h0), Nat.zero_add]

/-- Element `i` of a vector packed from a list that fits is the list's number, cut to the element's width. -/
theorem elem_packElems (w : Nat) (l : List Nat) (i : Nat) (h : w * l.length ≤ 4096) :
    elem w (packElems w l) i = l.getD i 0 % 2 ^ w := by
  have hl : l.foldr (fun x acc => x % 2 ^ w + 2 ^ w * acc) 0 < 2 ^ 4096 :=
    Nat.lt_of_lt_of_le (digits_lt w l) (Nat.pow_le_pow_right (by decide) h)
  unfold elem packElems
  rw [BitVec.toNat_ofNat, Nat.mod_eq_of_lt hl]
  exact digit_get w l i

/-- The elements of a vector are its digits. -/
theorem elemsOf_get (w : Nat) (v : VReg) (i : Nat) (h : i < 4096 / w) : (elemsOf w v).getD i 0 = elem w v i := by
  simp [elemsOf, elem, bitsOf, List.getD_eq_getElem?_getD, h]

theorem State.veWord_trap {s : State} {n : Nat} {t : Team} {w : Team → VWord} {act : Nat → Team → List (List VReg) → State}
    {c : Cause} {a : Nat} (h : s.cur? = some (n, t)) (hr : t.vread (w t) = .trap c a) :
    s.veWord w act = .next (s.trap n t .ve c 0 (a % 2 ^ 23) 0) := by
  simp [State.veWord, State.onTeam, h, hr]

theorem State.veWord_block {s : State} {n : Nat} {t : Team} {w : Team → VWord} {act : Nat → Team → List (List VReg) → State}
    (h : s.cur? = some (n, t)) (hr : t.vread (w t) = .block) : s.veWord w act = .next s := by
  simp [State.veWord, State.onTeam, h, hr]

theorem State.veWord_ok {s : State} {n : Nat} {t : Team} {w : Team → VWord} {act : Nat → Team → List (List VReg) → State}
    {vals : List (List VReg)} (h : s.cur? = some (n, t)) (hr : t.vread (w t) = .ok vals) :
    s.veWord w act = .next (act n t vals) := by
  simp [State.veWord, State.onTeam, h, hr]

/-- A vector word with a destination writes its elements, or traps when an active one does not convert. -/
theorem State.veVec_ok {s : State} {n : Nat} {t : Team} {w : Team → VWord} {wd : Team → Nat} {full : Bool}
    {run : Team → List (List VReg) → List Conv} {vals : List (List VReg)} {d : VOp} (h : s.cur? = some (n, t))
    (hr : t.vread (w t) = .ok vals) (hd : (w t).dst = some d) :
    s.veVec w wd full run = .next (match (t.advanceChunks (w t).srcs).putElems d (wd t) full (run t vals) with
      | none => s.trap n t .ve .convtrap 0 0 0
      | some u => s.setTeam n (u.step .ve)) := by
  rw [State.veVec, State.veWord_ok h hr, hd] <;> rfl

end Sys2Proof.Machine
end

