-- ==== Sys2Proof/Tests/Slice0.lean ====
section
/-!
SUPPORT. Sys2Proof/Tests/Slice0.lean: the model's own tests: words of the spec's encoding tables and what they decode to, ill-formed
terms that WellFormed refuses, single steps on small states, and for every statement with hypotheses a concrete case that meets them.
-/
namespace Sys2Proof.Tests

open Sys2Proof Machine Claims

set_option maxRecDepth 8000
set_option exponentiation.threshold 40000

/-! Decoding: words written out from the encoding tables of 07 and of the chapters' own (each row's fields at 1, 33 …). -/

/-- Every word decodes, in the engine's format, to the instruction beside it. -/
def decodesTo (e : Engine) (l : List (Nat × Instr)) : Bool :=
  l.all fun p => match decode e (BitVec.ofNat 32 p.1) with
    | .ok i => decide (i = p.2)
    | .error _ => false

theorem test_decode_sq1 : decodesTo .sq
    [(0x06186100, .add 33 33 33),
     (0x06186101, .sub 33 33 33),
     (0x06186102, .and 33 33 33),
     (0x06186103, .or 33 33 33),
     (0x06186104, .xor 33 33 33),
     (0x06186105, .shl 33 33 33),
     (0x06186106, .shr 33 33 33),
     (0x06186107, .sar 33 33 33),
     (0x06186108, .slt 33 33 33),
     (0x06186109, .sltu 33 33 33),
     (0x0618610A, .min 33 33 33),
     (0x0618610B, .max 33 33 33),
     (0x0618610C, .minu 33 33 33),
     (0x0618610D, .maxu 33 33 33),
     (0x0618610E, .cmov 33 33 33),
     (0x0618610F, .andn 33 33 33)] = true := by
  decide

theorem test_decode_sq2 : decodesTo .sq
    [(0x06186110, .mul 33 33 33),
     (0x06186111, .mulh 33 33 33),
     (0x06186112, .mulhu 33 33 33),
     (0x06186113, .div 33 33 33),
     (0x06186114, .divu 33 33 33),
     (0x06186115, .rem 33 33 33),
     (0x06186116, .remu 33 33 33),
     (0x06184018, .clz 33 33),
     (0x06184019, .ctz 33 33),
     (0x0618401A, .popc 33 33),
     (0x06186120, .bfx 33 33 33),
     (0x06186121, .bfxs 33 33 33),
     (0x06186122, .bfi 33 33 33),
     (0x0A186001, .addi 33 33 8193),
     (0x0E186001, .andi 33 33 8193),
     (0x12186001, .ori 33 33 8193)] = true := by
  decide

theorem test_decode_sq3 : decodesTo .sq
    [(0x16186001, .xori 33 33 8193),
     (0x1A186001, .slti 33 33 8193),
     (0x1E186001, .sltui 33 33 8193),
     (0x22184021, .shli 33 33 33),
     (0x22185021, .shri 33 33 33),
     (0x22186021, .sari 33 33 33),
     (0x26180001, .lui 33 524289),
     (0x2A180001, .auipc 33 524289),
     (0x2E186001, .beq 33 33 8193),
     (0x32186001, .bne 33 33 8193),
     (0x36186001, .blt 33 33 8193),
     (0x3A186001, .bge 33 33 8193),
     (0x3E186001, .bltu 33 33 8193),
     (0x42186001, .bgeu 33 33 8193),
     (0x46000001, .j 33554433),
     (0x4A000001, .jal 33554433)] = true := by
  decide

theorem test_decode_sq4 : decodesTo .sq
    [(0x4E186001, .jalr 33 33 8193),
     (0x50085001, .loop 33 4097),
     (0x56186181, .ldb 33 33 33 129),
     (0x5A186181, .ldbu 33 33 33 129),
     (0x5E186181, .ldh 33 33 33 129),
     (0x62186181, .ldhu 33 33 33 129),
     (0x66186181, .ldw 33 33 33 129),
     (0x6A186181, .ldwu 33 33 33 129),
     (0x6E186181, .ldd 33 33 33 129),
     (0x72184081, .stb 33 33 129),
     (0x76184081, .sth 33 33 129),
     (0x7A184081, .stw 33 33 129),
     (0x7E184081, .std 33 33 129),
     (0x82187801, .lds 33 33 3 2049),
     (0x86187801, .sts 33 33 3 2049),
     (0x8A186C01, .ldp 33 33 5 1025)] = true := by
  decide

theorem test_decode_sq5 : decodesTo .sq
    [(0x8E1861F0, .atomSwap 33 33 33 3 3),
     (0x8E1861F1, .atomAdd 33 33 33 3 3),
     (0x8E1861F2, .atomAnd 33 33 33 3 3),
     (0x8E1861F3, .atomOr 33 33 33 3 3),
     (0x8E1861F4, .atomXor 33 33 33 3 3),
     (0x8E1861F5, .atomMin 33 33 33 3 3),
     (0x8E1861F6, .atomMax 33 33 33 3 3),
     (0x8E1861F7, .atomMinu 33 33 33 3 3),
     (0x8E1861F8, .atomMaxu 33 33 33 3 3),
     (0x921861F0, .cas 33 33 33 3 3),
     (0x943861B0, .redAdd 1 33 33 1 3),
     (0x943861B1, .redAnd 1 33 33 1 3),
     (0x943861B2, .redOr 1 33 33 1 3),
     (0x943861B3, .redXor 1 33 33 1 3),
     (0x943861B4, .redMin 1 33 33 1 3),
     (0x943861B5, .redMax 1 33 33 1 3)] = true := by
  decide

theorem test_decode_sq6 : decodesTo .sq
    [(0x943861B6, .redMinu 1 33 33 1 3),
     (0x943861B7, .redMaxu 1 33 33 1 3),
     (0x942861B8, .redFadd32 33 33 1 3),
     (0x943861B9, .redFadd64 33 33 1 3),
     (0x9A18401B, .lda 33 33 1 2 3),
     (0x9A18440F, .stl 33 33 3 3),
     (0x98000800, .fenceFullT),
     (0x98000801, .fenceFullC),
     (0x98000802, .fenceFullD),
     (0x98000803, .fenceFullS),
     (0x98000807, .fenceAcq 3),
     (0x9800080B, .fenceRel 3),
     (0x9D584021, .ldblk 21 33 33),
     (0x9D500400, .blkwait 21),
     (0x9D500800, .blkfree 21),
     (0xA0000219, .chwf 33 9)] = true := by
  decide

theorem test_decode_sq7 : decodesTo .sq
    [(0xA0000619, .chwe 33 9),
     (0xA0000A19, .chap 33 9),
     (0xA0000E19, .chac 33 9),
     (0xA2101009, .chst 33 9),
     (0xA4000011, .binit 17),
     (0xA4000411, .barr 17),
     (0xA4084811, .bexp 33 17),
     (0xA4084C11, .bwait 33 17),
     (0xA8000011, .estart 17),
     (0xA8000411, .ewait 17),
     (0xA8000811, .estop 17),
     (0xAE100031, .mfs 33 49),
     (0xAC084431, .mts 33 49),
     (0xB0000000, .yield),
     (0xB0000481, .swpt 129),
     (0xB0000800, .pstart)] = true := by
  decide

theorem test_decode_sq8 : decodesTo .sq
    [(0xB0000C00, .pwait),
     (0xB0001000, .exit),
     (0xB0001001, .exitErr),
     (0xB6100000, .falloc 33),
     (0xB6186101, .fresResolve 33 33 33),
     (0xB6186102, .fresFail 33 33 33),
     (0xB6184003, .fresCancel 33 33),
     (0xB6184004, .fresFree 33 33),
     (0xB6184005, .fresReset 33 33),
     (0xB6184008, .fwait 33 33),
     (0xB6184009, .fpoll 33 33),
     (0xBA184000, .tktake 33 33),
     (0xB8086101, .tkwait 33 33),
     (0xB8084002, .tkserve 33),
     (0xBE186100, .qenq 33 33 33),
     (0xBE186101, .qdeq 33 33 33)] = true := by
  decide

theorem test_decode_sq9 : decodesTo .sq
    [(0xC2186100, .tsub 33 33 33),
     (0xC6186100, .snap 33 33 33),
     (0xC6186101, .sresv 33 33 33),
     (0xC4084002, .sacc 33),
     (0xC4084003, .srej 33),
     (0xC6184004, .sqry 33 33),
     (0xC6186105, .ldv 33 33 33),
     (0xCA184000, .tdcls 33 33),
     (0xC8084601, .tdscan 33 513),
     (0xCC084201, .cwb 33 513),
     (0xCC084601, .cinv 33 513),
     (0xCC084A01, .cwbi 33 513),
     (0xD0000201, .trap 513),
     (0xD0000601, .brk 513),
     (0xD0000800, .eret)] = true := by
  decide

theorem test_decode_ve1 : decodesTo .ve
    [(0x010007D9, .vsetsh 3 3 5 9),
     (0x02D00009, .vchmap 1 5 9),
     (0x039018C1, .vsetpat 9 1 17 65),
     (0x030804C1, .vsetpatHdr 9 65),
     (0x04980001, .vloop 9 524289),
     (0x05080001, .vjmp 524289),
     (0x06000000, .vend),
     (0x07000005, .vswpt 5),
     (0x08000009, .vadvc 9),
     (0x09000009, .vadvp 9),
     (0x0A900011, .vwaitb 9 17),
     (0x100384A5, .vadd 3 132 165),
     (0x110384A5, .vsub 3 132 165),
     (0x120384A5, .vmul 3 132 165),
     (0x130384A5, .vmulh 3 132 165),
     (0x140384A5, .vfma 3 132 165)] = true := by
  decide

theorem test_decode_ve2 : decodesTo .ve
    [(0x150384A5, .vfms 3 132 165),
     (0x160384A5, .vmin 3 132 165),
     (0x170384A5, .vmax 3 132 165),
     (0x18038400, .vabs 3 132),
     (0x19038400, .vneg 3 132),
     (0x1A0384A5, .vadds 3 132 165),
     (0x1B0384A5, .vsubs 3 132 165),
     (0x1C0384A5, .vavg 3 132 165),
     (0x1D0384A5, .vabd 3 132 165),
     (0x200384A5, .vand 3 132 165),
     (0x210384A5, .vor 3 132 165),
     (0x220384A5, .vxor 3 132 165),
     (0x23038400, .vnot 3 132),
     (0x240384A5, .vshl 3 132 165),
     (0x250384A5, .vshr 3 132 165),
     (0x260384A5, .vsar 3 132 165)] = true := by
  decide

theorem test_decode_ve3 : decodesTo .ve
    [(0x27038411, .vshli 3 132 17),
     (0x28038411, .vshri 3 132 17),
     (0x29038411, .vsari 3 132 17),
     (0x2A038400, .vclz 3 132),
     (0x2B038400, .vpopc 3 132),
     (0x300384A5, .vdiv 3 132 165),
     (0x31038400, .vsqrt 3 132),
     (0x32038400, .vrcp 3 132),
     (0x33038400, .vrsq 3 132),
     (0x34038400, .vexp2 3 132),
     (0x35038400, .vlog2 3 132),
     (0x36038400, .vclass 3 132),
     (0x405A84A5, .vcmp 5 5 132 165),
     (0x410384A5, .vsel 3 132 165),
     (0x42050505, .mand 5 5 5),
     (0x43050505, .mor 5 5 5)] = true := by
  decide

theorem test_decode_ve4 : decodesTo .ve
    [(0x44050505, .mxor 5 5 5),
     (0x45050500, .mnot 5 5),
     (0x46090500, .mpopc 9 5),
     (0x47090500, .mfirst 9 5),
     (0x50038409, .vcvt 3 132 9),
     (0x51038409, .vwiden 3 132 9),
     (0x52038409, .vnarrow 3 132 9),
     (0x530384A5, .vquant 3 132 165),
     (0x540384A5, .vdeq 3 132 165),
     (0x60038400, .vrsum 3 132),
     (0x61038400, .vrmax 3 132),
     (0x62038400, .vrmin 3 132),
     (0x63038400, .vscan 3 132),
     (0x640384A5, .vperm 3 132 165),
     (0x65038405, .vslide 3 132 5),
     (0x66038409, .vbcast 3 132 9)] = true := by
  decide

theorem test_decode_ve5 : decodesTo .ve
    [(0x67038400, .vcomp 3 132),
     (0x68038400, .vexpd 3 132),
     (0x70980001, .kli 9 524289),
     (0x71090909, .kadd 9 9 9),
     (0x72090909, .kmul 9 9 9),
     (0x73090909, .kfadd 9 9 9),
     (0x74098409, .kget 9 132 9),
     (0x75030909, .vins 3 9 9),
     (0x76900031, .kmfs 9 49),
     (0x77090900, .xsetXreg 9 9),
     (0x78980001, .xaddi 9 524289),
     (0x80039801, .vld 3 9 2049),
     (0x81849801, .vst 132 9 2049),
     (0x82039905, .vlds 3 9 9 5),
     (0x83849984, .vsts 132 9 9 132),
     (0x84039084, .vldx 3 9 132)] = true := by
  decide

theorem test_decode_ve6 : decodesTo .ve
    [(0x85849084, .vstx 132 9 132),
     (0x86039801, .vldp 3 9 2049),
     (0x87039801, .vldb 3 9 2049)] = true := by
  decide

theorem test_decode_me1 : decodesTo .me
    [(0x10E00005, .nset 14 5),
     (0x20E00005, .nseth 14 5),
     (0x30400080, .nld 32769),
     (0x42288001, .mgo 34 1 32769),
     (0x50000002, .mwait 2),
     (0x68018001, .mloop 2049 32769),
     (0x78000001, .mjmp 134217729),
     (0x80000000, .mend),
     (0x90000081, .mswpt 129),
     (0xA0000001, .mclr0),
     (0xA0000002, .mclr1),
     (0xA0000003, .mclrBoth),
     (0xB0000000, .mdrain),
     (0xC11C0000, .mwaitb 17 1 1)] = true := by
  decide

theorem test_decode_tu1 : decodesTo .tu1
    [(0x08400040, .xld 65537),
     (0x1068001F, .xset 3 1 31),
     (0x19108001, .xgo 34 32769),
     (0x20000005, .xwait 5),
     (0x29108001, .xmc 34 32769),
     (0x31108001, .xconv 34 32769),
     (0x39108001, .xdec 34 32769),
     (0x41108001, .xgath 34 32769),
     (0x49108001, .xscat 34 32769),
     (0x54018001, .xloop 1025 32769),
     (0x5C000001, .xjmp 67108865),
     (0x60000000, .xend),
     (0x68000081, .xswpt 129),
     (0x711C0000, .xwaitb 17 1 1),
     (0x79108001, .xpushr 34 32769)] = true := by
  decide

theorem test_decode_tuGather1 : decodesTo .gq
    [(0xC1158001, .lpop 34 5 32769),
     (0xC9158001, .lpeek 34 5 32769),
     (0xD1158001, .gfetch 34 5 32769),
     (0xD9158001, .gshift 34 5 32769),
     (0xE1158001, .gpool 34 5 32769),
     (0xE9100000, .gdone 34)] = true := by
  decide
/-! WellFormed refuses one ill-formed term of each check (07 R140). -/

/-- None of the terms is well formed. -/
def allIll (l : List Instr) : Bool := l.all fun i => !i.wellFormed

theorem test_wf_refuses_empty_loops : allIll [.loop 1 0, .vloop 1 0, .mloop 1 0, .xloop 1 0] = true := by decide
theorem test_wf_refuses_reserved_sizes_and_numbers :
    allIll [.lda 1 2 1 3 0, .ldblk 32 1 0, .blkwait 32, .blkfree 63, .estart 0, .ewait 0, .estop 0, .mwait 4, .xset 0 3 0] = true := by decide
theorem test_wf_refuses_unlisted_registers : allIll [.mfs 1 0x007, .mts 1 0x032, .kmfs 1 0x3FF] = true := by decide
theorem test_wf_refuses_reserved_selectors :
    allIll [.vadd 0x81 1 2, .vadd 0xA0 1 2, .vadd 1 0x89 2, .vadd 1 2 0x98, .vadd 1 2 0xB0, .vst 0x8F 1 0] = true := by decide
theorem test_wf_refuses_reserved_conditions_and_types :
    allIll [.vcmp 8 1 2 3, .vcvt 1 2 11, .vwiden 1 2 15, .vnarrow 1 2 11] = true := by decide
theorem test_wf_refuses_fields_that_do_not_fit :
    allIll [.nset 49 0, .nset 1 0x10000, .nseth 0 0x1000, .nseth 2 8, .xset 18 0 0, .xset 10 0 0x10000, .xset 9 2 0x400] = true := by decide
theorem test_wf_refuses_unlisted_completion_objects : allIll [.mgo 0x11 0 0, .xgo 0x1F 0, .lpop 0x40 0 0] = true := by decide
theorem test_wf_accepts_the_boundary_values :
    [Instr.loop 1 1, .lda 1 2 1 2 0, .ldblk 31 1 0, .mfs 1 0x031, .vadd 0x80 0x88 0x97, .vcmp 7 1 2 3, .vcvt 1 2 10, .nset 1 0xFFFF,
     .xset 0 2 0x7FFFF, .mgo 0x10 0 0, .xgo 0x3F 0].all Instr.wellFormed = true := by decide

/-! A small machine: one team, in slot 0 of core 0, with every engine, four pages in its translation table, and one channel,
barrier object and parameter window of each kind.  Nothing of it is marked, pending or under way. -/

/-- Pages of the team: UO and RC past the L1, UO held in the L1, and SO. -/
def pageUO : KttEntry := { va := 0x1000, log2 := 12, pa := 0x100000, r := true, w := true, order := 0, l1c := false }
def pageRC : KttEntry := { va := 0x2000, log2 := 12, pa := 0x200000, r := true, w := true, order := 1, l1c := false }
def pageL1 : KttEntry := { va := 0x3000, log2 := 12, pa := 0x300000, r := true, w := true, order := 1, l1c := true }
def pageRO : KttEntry := { va := 0x4000, log2 := 12, pa := 0x400000, r := true, w := false, order := 2, l1c := false }

def kern : Kernel :=
  { hnd := true, code := 0x10000, sect := List.replicate 6 (0, 256), vregs := 128, nbank := 1, banks := [0], handler := 8,
    chans := [{ gt := false, ct := true, rpush := true, slots := 4, slotBytes := 1024, base := 0x1000 }],
    bars := [{ gt := false, ct := true, exp := 1, addr := 0x10000 }],
    wins := [{ base := 0x2000, size := 64, bound := true }, { base := 0, size := 0, bound := false }] }

/-- s1 to s4 hold the bases of the pages, s5 a number that is no address, s6 and s7 small numbers. -/
def team : Team :=
  { tid := 1, asid := 5, k := kern,
    sq := { s := [(1, 0x1000), (2, 0x2000), (3, 0x3000), (4, 0x4000), (5, 0xFFFFFFFFFFFFFFF7), (6, 3), (7, 64)] },
    ve := { k := [(1, 3), (2, 128)], v := [(1, 0x0102), (2, 0x0304)], x := [(1, 0x400)] } }

def slot0 : KSlot := { tid := 1, loaded := true, sects := List.replicate 6 { size := 64 }, ktt := [pageUO, pageRC, pageL1, pageRO] }

/-- A device past its start, in which `t` issues in slot 0. -/
def device (t : Team) : State :=
  { State.reset with
    start := { State.reset.start with step := 6, ready := true }
    teams := [(0, t)]
    cores := [(0, { issuing := some 0, ks0 := some slot0 })] }

def st : State := device team

theorem issues_device (t : Team) : (device t).cur? = some (0, t) := rfl

theorem ready_at {s : State} {n : Nat} {t : Team} {i : Instr} {l : List (BitVec 6)} (hc : s.cur? = some (n, t))
    (h : sqSources i = some l) (hm : t.sq.marks = []) : SqReady s n t i :=
  ⟨hc, l, h, fun r _ hr => by simp [Marked, hm, SMap.get?] at hr⟩

theorem ready_device {t : Team} {i : Instr} {l : List (BitVec 6)} (h : sqSources i = some l) (hm : t.sq.marks = []) :
    SqReady (device t) 0 t i := ready_at rfl h hm

theorem ready {i : Instr} {l : List (BitVec 6)} (h : sqSources i = some l) : SqReady st 0 team i := ready_device h rfl

theorem calm_of {s : State} {n : Nat} (ha : s.atomq = []) (hr : s.host.outReqs = []) : Calm s n :=
  ⟨by simp [ha], by simp [hr]⟩

theorem settled_of {s : State} {n : Nat} (hf : s.fabric = []) (ha : s.atomq = []) (hr : s.host.outReqs = []) : Settled s n :=
  ⟨by simp [hf], calm_of ha hr⟩

/-- A team is quiet when its device has nothing under way and its core's L1 is empty. -/
theorem quiet_of {s : State} {n : Nat} {t : Team} (hf : s.fabric = []) (ha : s.atomq = []) (hr : s.host.outReqs = [])
    (hl : (s.core (coreOfSlot n)).l1 = []) (h : t.sq.landing = []) (hp : t.posted = [] ∧ t.flushing = [] ∧ t.flushSent = false) :
    Quiet s n t :=
  ⟨by simp [hf], by simp [ha], by simp [hl], h, hp, by simp [hr]⟩

theorem settled_device (t : Team) : Settled (device t) 0 := settled_of rfl rfl rfl

theorem quiet_device {t : Team} (h : t.sq.landing = []) (hp : t.posted = [] ∧ t.flushing = [] ∧ t.flushSent = false) :
    Quiet (device t) 0 t := quiet_of rfl rfl rfl rfl h hp

/-- The instruction answers a next state of which `p` holds. -/
def runs (i : Instr) (s : State) (p : State → Bool) : Bool :=
  match exec i s with
  | .next s' => p s'
  | _ => false

/-- The step answers a next state of which `p` holds. -/
def stepRuns (s : State) (p : State → Bool) : Bool :=
  match step s with
  | .next s' => p s'
  | _ => false

/-- `p` holds of the team in slot 0. -/
def of0 (p : Team → Bool) (s : State) : Bool := (s.team? 0).any p

/-- Slot 0 halted for this cause, its handler entered. -/
def trapped (c : Cause) (s : State) : Bool := of0 (fun t => t.inHandler && (t.faults.getD 0 0).toNat % 256 = c.code) s

/-- An engine of slot 0 other than the SQ has reached a fault of this cause, which the end of the cycle takes. -/
def faults (c : Cause) (s : State) : Bool := of0 (fun t => t.pend.any fun f => f.cause = c) s

/-! The sequencer: what the hypotheses of its statements are met by, and results of single words (09). -/

theorem test_meets_IntegerWords : (Instr.add 10 6 7, (67 : DWord)) ∈ aluResults 10 6 7 (team.s 6) (team.s 7) (team.s 10) ∧
    SqReady st 0 team (.add 10 6 7) := ⟨List.mem_of_getElem? (i := 0) rfl, ready rfl⟩
theorem test_meets_ImmediateWords : (Instr.auipc 10 (-1), (0xC000 : DWord)) ∈ immResults 10 0 0 0 (-1) (team.s 0) (kern.code + 0) ∧
    SqReady st 0 team (.auipc 10 (-1)) := ⟨List.mem_of_getElem? (i := 10) rfl, ready rfl⟩

/-- A team whose s6 was marked by the load at word 12. -/
def marked : Team := { team with sq := { team.sq with marks := [(6, 12)] } }
theorem test_meets_ReadingAMarkedRegister : (device marked).cur? = some (0, marked) ∧ sqSources (.add 10 6 7) = some [6, 7] ∧
    ∃ r ∈ [(6 : BitVec 6), 7], Marked marked r := ⟨rfl, rfl, 6, by decide, by decide, rfl⟩
theorem test_reading_a_marked_register_is_poison : runs (.add 10 6 7) (device marked) (trapped .poison) = true := by decide
theorem test_meets_IntegerWordsFrame : SqReady st 0 team (.add 10 6 7) ∧ runs (.add 10 6 7) st (of0 fun t => t.s 10 = 67) = true :=
  ⟨ready rfl, by decide⟩

theorem test_add_wraps : runs (.add 10 5 7) st (of0 fun t => t.s 10 = 55) = true := by decide
theorem test_mulh_is_signed : runs (.mulh 10 5 6) st (of0 fun t => t.s 10 = 0xFFFFFFFFFFFFFFFF) = true := by decide
theorem test_divu_by_zero : runs (.divu 10 6 0) st (of0 fun t => t.s 10 = 0xFFFFFFFFFFFFFFFF) = true := by decide
theorem test_rem_takes_the_dividends_sign : runs (.rem 10 5 6) st (of0 fun t => t.s 10 = 0) = true := by decide
theorem test_ctz_of_zero : runs (.ctz 10 0) st (of0 fun t => t.s 10 = 64) = true := by decide
theorem test_writes_of_s0_are_discarded : runs (.add 0 6 7) st (of0 fun t => t.s 0 = 0 && t.sq.ctl.pc = 1) = true := by decide

theorem test_meets_Branches : SqReady st 0 team (.beq 6 6 255) ∧ InSection team .sq ((63 : BitVec 14).toInt) ∧
    ¬InSection team .sq ((64 : BitVec 14).toInt) ∧ ¬InSection team .sq ((-1 : BitVec 14).toInt) :=
  ⟨ready rfl, by unfold InSection; decide, by unfold InSection; decide, by unfold InSection; decide⟩
theorem test_branch_taken_costs_two_cycles : runs (.blt 5 6 63) st (of0 fun t => t.sq.ctl.pc = 63 && t.sq.ctl.busy = 2) = true := by decide
theorem test_branch_out_of_the_section : runs (.bltu 5 6 64) st (trapped .illop) = true := by decide
theorem test_meets_Jumps : st.cur? = some (0, team) ∧ InSection team .sq 0 ∧ InSection team st.stream 63 ∧ ¬InSection team .me 64 :=
  ⟨rfl, by unfold InSection; decide, by unfold InSection; decide, by unfold InSection; decide⟩
theorem test_meets_Calls : SqReady st 0 team (.jalr 10 6 5) ∧
    (BitVec.ofInt 64 ((team.s 6).toInt + (5 : BitVec 14).toInt)).toNat < team.words .sq ∧
    team.words .sq ≤ (BitVec.ofInt 64 ((team.s 7).toInt + (0 : BitVec 14).toInt)).toNat := ⟨ready rfl, by decide, by decide⟩
theorem test_jalr_links_after_reading : runs (.jalr 6 6 5) st (of0 fun t => t.s 6 = 1 && t.sq.ctl.pc = 8) = true := by decide

theorem test_meets_LoopsOpen : MayLoop team .sq 3 63 ∧ ¬Marked team 6 ∧ team.sq.ctl.pc + 63 < team.words .sq :=
  ⟨⟨by decide, by decide, fun _ _ h => (nomatch h)⟩, by unfold Marked; decide, by decide⟩
theorem test_meets_TheEndWord : Engine.ve ≠ .gq ∧ (({ team.ve.ctl with pc := 2, loops := [{ start := 1, stop := 2, count := 1 }] } : EngCtl).leaves = true) :=
  ⟨by decide, by decide⟩
theorem test_leaving_a_ve_loop_costs_two_cycles :
    ((team.setCtl .ve { team.ve.ctl with pc := 2, loops := [{ start := 1, stop := 2, count := 1 }] }).step .ve).ve.ctl = { team.ve.ctl with pc := 3, busy := 2 } := by decide
/-- Four loops are open, the innermost over words 1 and 2. -/
def inLoops : Team := team.setCtl .sq { team.sq.ctl with loops := List.replicate 4 { start := 0, stop := 2, count := 2 } }
theorem test_meets_LoopsThatMayNotOpen : SqReady (device inLoops) 0 inLoops (.loop 6 1) ∧ SqReady (device inLoops) 0 inLoops (.loop 6 5) ∧
    SqReady st 0 team (.loop 6 64) ∧ team.words .sq ≤ team.sq.ctl.pc + (64 : BitVec 13).toNat :=
  ⟨ready_device rfl rfl, ready_device rfl rfl, ready rfl, by decide⟩
theorem test_a_fifth_loop_is_loopbad : runs (.loop 6 1) (device inLoops) (trapped .loopbad) = true := by decide
theorem test_a_loop_of_count_zero_skips : runs (.loop 0 5) st (of0 fun t => t.sq.ctl.pc = 6 && t.sq.ctl.loops = []) = true := by decide

/-! Memory (09 R198-R211, R225). -/

theorem test_meets_Loads : SqReady st 0 team (.ldw 10 1 0 2) ∧ team.sq.landing.length < 16 ∧
    Reaches st 0 team .r (addressM team 1 2 4) 4 pageUO 0x100008 ∧ Bypasses 0 pageUO ∧ Settled st 0 ∧
    kttLookup (st.kslot 0 team) (addressM team 5 0 4) .r = .error ⟨.kttmiss, 0, 0xFFFFFFFFFFFFFFF7⟩ :=
  ⟨ready rfl, by decide, ⟨rfl, by decide, rfl, by decide⟩, by unfold Bypasses; decide, settled_device team, rfl⟩
theorem test_a_load_takes_a_landing_entry : runs (.ldb 10 1 0 (-1)) st (trapped .kttmiss) = true ∧
    runs (.ldb 10 1 9 1) st (of0 fun t => t.sq.landing.map (fun l => (l.d, l.named, l.size, l.sgn)) = [(10, some 9, 1, true)]) = true := by
  decide

/-- Core 0 holds one clean line, of the L1 page, with 0x80 in its last byte. -/
def withLine : State := { st with cores := [(0, { issuing := some 0, ks0 := some slot0, l1 := [(0x6000, { data := 0x80#1024 <<< 1016, owners := [0] })] })] }
theorem test_meets_LoadsOfCleanLines : SqReady withLine 0 team (.ldb 10 3 0 127) ∧
    Reaches withLine 0 team .r (addressM team 3 127 1) 1 pageL1 0x30007F ∧ Settled withLine 0 ∧
    cacheable pageL1.order pageL1.l1c (coreOfSlot 0) = true ∧ 0x30007F % 128 + 1 ≤ 128 ∧
    (SMap.get? (withLine.core (coreOfSlot 0)).l1 (0x30007F / 128)).isSome = true :=
  ⟨ready_at rfl rfl rfl, ⟨rfl, by decide, rfl, by decide⟩, settled_of rfl rfl rfl, by decide, by decide, rfl⟩
theorem test_a_load_hits_the_l1 : runs (.ldb 10 3 0 127) withLine (of0 fun t => t.s 10 = 0 &&
    t.sq.landing.map (fun l => (l.named, l.arrived, l.value)) = [(some 4, true, some (0xFFFFFFFFFFFFFF80, false))]) = true := by decide
theorem test_meets_Stores : SqReady st 0 team (.std 6 2 3) ∧ Reaches st 0 team .w (addressM team 2 3 8) 8 pageRC 0x200018 ∧
    Bypasses 0 pageRC ∧ Calm st 0 ∧ kttLookup (st.kslot 0 team) (addressM team 4 0 8) .w = .error ⟨.kttperm, 3, 0x4000⟩ :=
  ⟨ready rfl, ⟨rfl, by decide, rfl, by decide⟩, by unfold Bypasses; decide, calm_of rfl rfl, rfl⟩
theorem test_a_store_is_on_its_way : runs (.sth 5 2 3) st (fun s => s.mem = [] && s.fabric.map (fun w => (w.pa, w.bytes)) = [(0x200006, [0xF7, 0xFF])]) = true := by
  decide
theorem test_meets_StoresIntoTheL1 : SqReady withLine 0 team (.stb 6 3 127) ∧
    Reaches withLine 0 team .w (addressM team 3 127 1) 1 pageL1 0x30007F :=
  ⟨ready_at rfl rfl rfl, ⟨rfl, by decide, rfl, by decide⟩⟩
theorem test_a_store_dirties_its_byte :
    runs (.stb 6 3 127) withLine (fun s => (s.core 0).l1.map (fun l => (l.1, l.2.dirty)) = [(0x6000, 1#128 <<< 127)]) = true := by decide

theorem test_meets_ScratchpadWords : SqReady st 0 team (.lds 10 6 0 0) ∧ SqReady st 0 team (.sts 6 7 3 0) ∧
    ((BitVec.ofInt 64 ((team.s 6).toNat + (0 : BitVec 12).toInt)).toNat % 2 ^ (1 : BitVec 2).toNat ≠ 0) ∧
    team.bankCount * 0x20000 < (BitVec.ofInt 64 ((team.s 5).toNat + (1 : BitVec 12).toInt)).toNat + 8 :=
  ⟨ready rfl, ready rfl, by decide, by decide⟩
theorem test_sts_then_lds_sign_extends :
    runs (.sts 5 7 0 0) st (fun s => runs (.lds 10 7 0 0) s (of0 fun t => t.s 10 = 0xFFFFFFFFFFFFFFF7)) = true := by decide
theorem test_lds_checks_alignment_first : runs (.lds 10 5 3 0) st (trapped .align) = true ∧ runs (.lds 10 5 0 0) st (trapped .spoob) = true := by
  decide
theorem test_meets_ParameterLoads : SqReady st 0 team (.ldp 10 0 0 7) ∧ SqReady st 0 team (.ldp 10 0 1 0) ∧
    Reaches st 0 team .r ((0x2000 + 56) % 2 ^ 64) 8 pageRC 0x200038 ∧ (56 : Nat) + 8 ≤ 64 :=
  ⟨ready rfl, ready rfl, ⟨rfl, by decide, rfl, by decide⟩, by decide⟩
theorem test_ldp_beyond_size_sets_pwoob : runs (.ldp 6 0 0 8) st (of0 fun t => t.s 6 = 0 && t.status = 1) = true ∧
    runs (.ldp 10 0 1 0) st (trapped .pwunb) = true := by decide

theorem test_meets_OrderedAccesses : SqReady st 0 team (.lda 10 2 0 3 1) ∧ SqReady st 0 team (.stl 6 2 3 1) ∧
    Reaches st 0 team .r (team.s 2).toNat 8 pageRC 0x200000 ∧ Reaches st 0 team .w (team.s 1).toNat 8 pageUO 0x100000 ∧
    Bypasses 0 pageRC ∧ Settled st 0 ∧ pageRC.order = 1 ∧ pageUO.order = 0 ∧ Quiet st 0 team :=
  ⟨ready rfl, ready rfl, ⟨rfl, by decide, rfl, by decide⟩, ⟨rfl, by decide, rfl, by decide⟩, by unfold Bypasses; decide, settled_device team, rfl, rfl, quiet_device rfl ⟨rfl, rfl, rfl⟩⟩
theorem test_meets_Atomics : SqReady st 0 team (.cas 10 2 6 1 0) ∧ SqReady st 0 team (.atomAdd 10 2 6 3 3) ∧ SqReady st 0 team (.redAdd 0 2 6 1 0) ∧
    Reaches st 0 team .rw (team.s 2).toNat 8 pageRC 0x200000 ∧ pageRC.order ≠ 2 ∧ Quiet st 0 team :=
  ⟨ready rfl, ready rfl, ready rfl, ⟨rfl, by decide, rfl, by decide⟩, by decide, quiet_device rfl ⟨rfl, rfl, rfl⟩⟩
theorem test_a_misaligned_atomic : runs (.atomSwap 10 6 7 0 0) st (trapped .align) = true ∧
    runs (.redAdd 0 2 6 0 0) st (fun s => s.atomq.map (fun a => (a.op, a.size, a.b)) = [(32, 4, 3)]) = true := by decide
/-- A store of the team is on its way to the RC page. -/
def storing0 : State :=
  { st with teams := [(0, { team with wIssued := 1 })],
            fabric := [{ slot := some 0, tid := 1, eng := 0, pc := 0, seq := 0, asid := 5, va := 0x2000, pa := 0x200000, bytes := [7], num := 1 }] }
theorem test_meets_Fences : SqReady st 0 team (.fenceFullD) ∧ Quiet st 0 team ∧ SqReady storing0 0 { team with wIssued := 1 } (.fenceRel 0) ∧
    ∃ x ∈ storing0.fabric, x.slot = some 0 ∧ x.eng = 0 ∧ x.num ≤ 1 :=
  ⟨ready rfl, quiet_device rfl ⟨rfl, rfl, rfl⟩, ready_at rfl rfl rfl, _, List.mem_cons_self, rfl, rfl, by decide⟩
theorem test_a_releasing_fence_waits : runs (.fenceRel 0) storing0 (of0 fun t => t.sq.ctl.pc = 0 && t.waitDrain = some 1) = true := by decide
theorem test_meets_LoadBlocks : SqReady st 0 team (.ldblk 31 3 1) ∧
    lineLookups (st.kslot 0 team) .r 2 (team.s 3).toNat = .ok [(0x6000, 0x3000, 2, pageL1), (0x6001, 0x3080, 2, pageL1)] ∧
    ∀ l ∈ [(0x6000, 0x3000, 2, pageL1), (0x6001, 0x3080, 2, pageL1)],
      cacheable l.2.2.2.order l.2.2.2.l1c (coreOfSlot 0) = true := ⟨ready rfl, rfl, by decide⟩
theorem test_a_load_block_is_awaited : runs (.ldblk 31 3 1) st (fun s => runs (.blkwait 31) s (of0 fun t => t.sq.ctl.pc = 1)) = true ∧
    runs (.blkwait 31) st (of0 fun t => t.sq.ctl.pc = 1) = true := by decide
theorem test_meets_CacheMaintenance : SqReady st 0 team (.cwb 3 0) ∧ (team.s 3).toNat % 128 = 0 ∧
    lineLookups (st.kslot 0 team) .r 1 (team.s 3).toNat = .ok [(0x6000, 0x3000, 2, pageL1)] := ⟨ready rfl, by decide, rfl⟩
theorem test_cinv_drops_the_line : runs (.cinv 3 0) withLine (fun s => (s.core 0).l1 = []) = true := by decide

/-! Channels, barrier objects, engines, special registers, traps and team control (06, 09 R212-R217, R226, 04). -/

/-- Two of the four slots of channel 0 are full, from slot 3 on. -/
def chan0 : Chan := { p := 1, c := 3, full := [0, 3], shown := [0, 3], shownP := 1, shownC := 3 }
def withChan : Team := team.setChan 0 chan0
theorem test_meets_ChannelWords : (device withChan).cur? = some (0, withChan) ∧ withChan.chanDecl 1 = none ∧
    (∃ d, withChan.chanDecl 0 = some d ∧ d.slots = 4 ∧ AllIn (withChan.chan 0).shown 4 3 2 ∧ ¬AllIn (withChan.chan 0).shown 4 3 3 ∧
      NoneIn (withChan.chan 0).shown 4 1 2 ∧ ¬NoneIn (withChan.chan 0).shown 4 1 3) :=
  ⟨rfl, rfl, _, rfl, rfl, by unfold AllIn; decide, by unfold AllIn; decide, by unfold NoneIn; decide, by unfold NoneIn; decide⟩
theorem test_chac_empties_from_c_on : runs (.chac 1 0) (device withChan) (of0 fun t => (t.chan 0).full = [] && (t.chan 0).c = 1) = true ∧
    runs (.chac 2 0) (device withChan) (of0 fun t => t.sq.ctl.pc = 0) = true := by decide
theorem test_chst_shows_count_c_and_p : runs (.chst 10 0) (device withChan) (of0 fun t => t.s 10 = 0x20301) = true := by decide

theorem test_meets_BarrierWords : st.cur? = some (0, team) ∧ team.barDecl 1 = none ∧ team.barDecl 0 = some { gt := false, ct := true, exp := 1, addr := 0x10000 } ∧
    ¬Marked team 6 ∧ (1 : BitVec 4).toNat ∉ team.ve.kMarks := ⟨rfl, rfl, rfl, by unfold Marked; decide, by decide⟩
theorem test_bwait_waits_for_the_other_phase : runs (.bwait 6 0) st (of0 fun t => t.sq.ctl.pc = 1) = true ∧
    runs (.bwait 7 0) st (of0 fun t => t.sq.ctl.pc = 0) = true := by decide
/-- The ME is in the second iteration of a loop. -/
def meLoop : Team := team.setCtl .me { team.me.ctl with loops := [{ start := 0, stop := 2, count := 2, iter := 1 }] }
theorem test_meets_TogglingWaits : (device meLoop).cur? = some (0, meLoop) ∧ meLoop.barDecl 0 = some { gt := false, ct := true, exp := 1, addr := 0x10000 } ∧
    (meLoop.ctl .me).loops = { start := 0, stop := 2, count := 2, iter := 1 } :: [] ∧ (meLoop.ctl .tu0).loops = [] := ⟨rfl, rfl, rfl, rfl⟩
theorem test_a_toggling_wait_follows_the_iteration : runs (.mwaitb 0 1 1) (device meLoop) (of0 fun t => t.me.ctl.pc = 0) = true ∧
    runs (.mwaitb 0 0 1) (device meLoop) (of0 fun t => t.me.ctl.pc = 1) = true := by decide
theorem test_meets_OneArrival : (Bar.mk 3 false false false 1 0 7).pbytes = 0 ∧ (Bar.mk 3 false false false 2 0 7).pend = 2 ∧
    ∀ x ∈ [BarStep.arrive, .land 5], x ≠ .init := ⟨rfl, rfl, by decide⟩
theorem test_a_negative_expectation_counts_down :
    (Bar.mk 3 false false false 0 5 7).cycle [.expect (-5)] = (Bar.mk 3 true false false 3 0 8, false) := by decide

/-- The VE has ended and the ME stands stopped at word 9. -/
def stopped : Team := (team.setCtl .ve { team.ve.ctl with pc := 5, st := .ended }).setCtl .me { team.me.ctl with pc := 9, st := .stopped }
theorem test_meets_EngineControl : (device stopped).cur? = some (0, stopped) ∧ Names stopped 3 [.ve, .me] ∧ stopped.inHandler = false ∧
    (∀ e ∈ [Engine.ve, .me], (stopped.ctl e).st ≠ .running ∧ stopped.outstanding e = false) ∧
    (∀ es, ¬Names stopped 0 es) ∧ Names stopped 4 [.tu0] ∧ (stopped.ctl .tu0).st = .running :=
  ⟨rfl, ⟨by decide, rfl, by decide⟩, rfl, by decide, fun es h => h.1 h.2.1, ⟨by decide, rfl, by decide⟩, rfl⟩
theorem test_estart_resumes_and_restarts :
    runs (.estart 3) (device stopped) (of0 fun t => t.ve.ctl.pc = 0 && t.ve.ctl.st = .running && t.me.ctl.pc = 9 && t.me.ctl.st = .running) = true := by
  decide
theorem test_ewait_waits_for_running_engines : runs (.ewait 3) (device stopped) (of0 fun t => t.sq.ctl.pc = 1) = true ∧
    runs (.ewait 4) (device stopped) (of0 fun t => t.sq.ctl.pc = 0) = true := by decide
theorem test_meets_EndWords : st.cur? = some (0, team) ∧ runs .mend st (of0 fun t => t.me.ctl.st = .ended && t.me.ctl.pc = 0) = true :=
  ⟨rfl, by decide⟩

theorem test_meets_SpecialRegisterReads : st.cur? = some (0, team) ∧ (0x030, (8 : DWord)) ∈ specials st 0 team :=
  ⟨rfl, List.mem_of_getElem? (i := 18) rfl⟩
theorem test_mfs_reads_handler : runs (.mfs 10 0x030) st (of0 fun t => t.s 10 = 8) = true := by decide
/-- The handler runs. -/
def handling : Team := { team with inHandler := true, epc := 3, status := 0xF, sq := { team.sq with setAside := [{ start := 1, stop := 4, count := 2 }] } }
theorem test_meets_SpecialRegisterWrites : SqReady st 0 team (.mts 6 0x008) ∧ SqReady (device handling) 0 handling (.mts 6 0x031) ∧
    (0x031 : BitVec 10) ∈ (specials st 0 team).map (·.1) ∧ (0x007 : BitVec 10) ∉ (specials st 0 team).map (·.1) :=
  ⟨ready rfl, ready_device rfl rfl, by decide, by decide⟩
theorem test_mts_clears_status_flags : runs (.mts 6 0x008) (device handling) (of0 fun t => t.status = 0xC) = true ∧
    runs (.mts 6 0x031) st (trapped .priv) = true ∧ runs (.mts 6 0x007) st (trapped .illop) = true := by decide

theorem test_meets_TrapAndBrk : Issues st 0 team ∧ team.k.hnd = true ∧ team.inHandler = false ∧ team.pend = none ∧ team.sq.ctl.pc + 1 < 2 ^ 32 ∧
    team.sq.landing = [] := ⟨⟨rfl, rfl⟩, rfl, rfl, rfl, by decide, rfl⟩
theorem test_trap_resumes_after_the_word :
    runs (.trap 0x3FF) st (of0 fun t => t.inHandler && t.sq.ctl.pc = 8 && t.epc = 1 && t.faults.getD 0 0 = 0x3FFFF000814) = true := by decide
theorem test_meets_Faults : Issues st 0 team ∧ Cause.align ≠ .watchdog ∧ (7 : Nat) < 256 ∧ (team.ctl .me).pc < 2 ^ 32 := ⟨⟨rfl, rfl⟩, by decide, by decide, by decide⟩
theorem test_meets_Eret : (device handling).cur? = some (0, handling) ∧ handling.inHandler = true ∧ st.cur? = some (0, team) ∧ team.inHandler = false :=
  ⟨rfl, rfl, rfl, rfl⟩
theorem test_eret_restores_the_loop_stack : runs .eret (device handling) (of0 fun t => !t.inHandler && t.sq.ctl.pc = 3 && t.sq.ctl.loops.length = 1) = true ∧
    runs .eret st (trapped .priv) = true := by decide

/-- A second team is ready in slot 5. -/
def two : State := { st with teams := [(0, team), (5, { team with slot := 5 })] }
theorem test_meets_Yield : (∀ m, (st.setTeam 0 (team.step .sq)).nextReady (coreOfSlot 0) (0 % 16) = some m → m = 0) ∧
    (two.setTeam 0 (team.step .sq)).nextReady (coreOfSlot 0) (0 % 16) = some 5 := by
  refine ⟨fun m h => ?_, rfl⟩
  have : (st.setTeam 0 (team.step .sq)).nextReady (coreOfSlot 0) (0 % 16) = some 0 := rfl
  simpa [this] using h.symm
/-- The team's task still has a HINTED predecessor in the window. -/
def hinted : State := { st with tasks := [{ id := 0, typ := 1 }, { id := 1, typ := 1, edges := [(0, true)] }] }
theorem test_meets_Pwait : hinted.cur? = some (0, team) ∧ team.pwaited = false ∧
    (∃ k, hinted.task? team.tid = some k ∧ ∃ e ∈ k.edges, e.2 = true ∧ (hinted.task? e.1).isSome = true) ∧
    (∀ k, st.task? team.tid = some k → ∀ e ∈ k.edges, e.2 = true → st.task? e.1 = none) :=
  ⟨rfl, rfl, ⟨_, rfl, (0, true), by decide, rfl, rfl⟩, fun _ h => (nomatch h)⟩
theorem test_pwait_parks : runs .pwait hinted (fun s => (s.core 0).issuing = none) = true := by decide
/-- Every engine but the SQ has ended. -/
def alone : Team := [Engine.ve, .me, .tu0, .tu1, .gq].foldl (fun t e => t.setCtl e { t.ctl e with st := .ended }) team
/-- A load of the team is still under way; and the team has been woken, by FREE or with a value. -/
def reading : Team := { team with sq := { team.sq with landing := [{ d := 10, pc := 0, named := none, parts := [{ bytes := [1] }], size := 1 }] } }
theorem test_meets_LeavingTeams : (device reading).cur? = some (0, reading) ∧ (device reading).landed 0 reading = false ∧ st.landed 0 team = true ∧
    reading.sq.landing ≠ [] ∧ ({ team with pwaited := true } : Team).pwaited = true ∧ ({ team with woke := some (.ready, 7) } : Team).woke = some (.ready, 7) ∧
    ({ team with woke := some (.free, 0) } : Team).woke = some (.free, 0) := ⟨rfl, by decide, by decide, by decide, rfl, rfl, rfl⟩
theorem test_pwait_waits_for_loads : runs .pwait (device { reading with pwaited := true }) (of0 fun t => t.sq.ctl.pc = 0) = true := by decide
theorem test_a_yield_waits_for_reads : runs .yield { device reading with teams := [(0, reading), (5, { team with slot := 5 })] } (of0 fun t => t.leaving && t.sq.ctl.pc = 1) = true := by
  decide
theorem test_meets_SwitchWords : st.cur? = some (0, team) ∧ (device alone).cur? = some (0, alone) ∧ alone.live = [.sq] ∧
    (∀ e ∈ team.live, e ≠ .sq → (team.ctl e).swpt = none) ∧ (∃ e ∈ team.live, e ≠ .sq) ∧
    (∃ e ∈ (team.setCtl .ve { team.ve.ctl with swpt := some 3 }).live, e ≠ .sq ∧
      ∃ q, ((team.setCtl .ve { team.ve.ctl with swpt := some 3 }).ctl e).swpt = some q ∧ q ≠ (4 : BitVec 8).toNat) :=
  ⟨rfl, rfl, by decide, by decide, by decide, .ve, by decide, by decide, 3, rfl, by decide⟩
theorem test_meets_Exit : st.cur? = some (0, team) ∧ (∀ e, e ≠ .sq → team.hasEngine e = true → team.outstanding e = false) ∧ team.errored = false ∧
    (∃ e, e ≠ .sq ∧ ({ team with me := { team.me with queue := [.drop 0] } } : Team).hasEngine e = true) :=
  ⟨rfl, fun e => by cases e <;> decide, rfl, .me, by decide, rfl⟩
theorem test_meets_ExitAfterAFault : (device { team with errored := true }).cur? = some (0, { team with errored := true }) ∧
    ({ team with errored := true } : Team).errored = true := ⟨rfl, rfl⟩
theorem test_exit_err_after_a_fault_kills : runs .exitErr (device { team with errored := true, me := { team.me with queue := [.drop 0] } }) (fun s => (s.team? 0).isNone) = true := by
  decide
theorem test_exit_frees_the_slot : runs .exit st (fun s => (s.team? 0).isNone) = true := by decide

/-! Futures, tickets, rings, snapshots and the tile directory (03, 09 R218-R224, 16). -/

/-- Future 3 belongs to the team's ASID and is EMPTY, future 4 is READY, both of generation 2; dispenser 6 serves the ASID. -/
def withUnits : State :=
  { st with futures := [(3, { gen := 2, asid := some 5, st := .empty }), (4, { gen := 2, asid := some 5, st := .ready, value := 99 })],
            tickets := [(3, { en := true, asid := 5, next := 7, serve := 6 })] }
/-- s8 and s9 hold the handles of the futures. -/
def handles : Team := { team with sq := { team.sq with s := team.sq.s ++ [(8, 0x20003), (9, 0x20004)] } }
def withHandles : State := { withUnits with teams := [(0, handles)] }
theorem test_meets_Falloc : withHandles.cur? = some (0, handles) ∧ (∃ i, 1 ≤ i ∧ i ≤ 65535 ∧ (withHandles.future i).st = .free) ∧
    SqReady withHandles 0 handles (.fpoll 10 6) ∧ ∀ i, ¬HandleNames withHandles handles.asid ((handles.s 6).setWidth 32) i :=
  ⟨rfl, ⟨1, by decide, by decide, rfl⟩, ready_at rfl rfl rfl, fun i h => by
    have h1 : i = 3 := h.1
    subst h1
    exact absurd h.2.2.2.1 (by decide)⟩
theorem test_falloc_replies_the_handle : runs (.falloc 10) withHandles (of0 fun t => t.sq.replies.map (fun r => (r.d, r.val)) = [(10, 0x10001)]) = true := by
  decide
theorem test_meets_Fres : SqReady withHandles 0 handles (.fresResolve 10 8 6) ∧ HandleNames withHandles handles.asid ((handles.s 8).setWidth 32) 3 ∧
    Quiet withHandles 0 handles ∧ handles.waitDrain = none ∧ (futureAfter (withHandles.future 3) 1 (handles.s 6)).isSome = true ∧
    futureAfter (withHandles.future 4) 1 (handles.s 6) = none :=
  ⟨ready_at rfl rfl rfl, ⟨rfl, by decide, by decide, rfl, rfl⟩, quiet_of rfl rfl rfl rfl rfl ⟨rfl, rfl, rfl⟩,
   rfl, rfl, rfl⟩
theorem test_fres_of_a_ready_future_replies_1 : runs (.fresFail 10 9 6) withHandles (fun s => (s.future 4).value = 99 &&
    of0 (fun t => t.sq.replies.map (fun r => r.val) = [1]) s) = true := by decide
theorem test_meets_Fwait : SqReady withHandles 0 handles (.fwait 10 9) ∧ HandleNames withHandles handles.asid ((handles.s 9).setWidth 32) 4 ∧
    (withHandles.future 4).st = .ready ∧ (withHandles.future 3).st = .empty := ⟨ready_at rfl rfl rfl, ⟨rfl, by decide, by decide, rfl, rfl⟩, rfl, rfl⟩
theorem test_fwait_takes_the_value_or_parks : runs (.fwait 10 9) withHandles (of0 fun t => t.s 10 = 99) = true ∧
    runs (.fwait 10 8) withHandles (of0 fun t => t.park = some (.future 3) && t.sq.ctl.pc = 0) = true := by decide
theorem test_a_woken_fwait_takes_the_value_of_its_wake :
    runs (.fwait 10 8) { withUnits with teams := [(0, { handles with woke := some (.ready, 7) })] } (of0 fun t => t.s 10 = 7 && t.woke = none) = true := by decide
theorem test_meets_TicketWords : SqReady withUnits 0 team (.tktake 10 6) ∧ (team.s 6).toNat < 4096 ∧ (withUnits.ticket 3).en = true ∧
    (withUnits.ticket 3).asid.toNat = team.asid ∧ ((withUnits.ticket 3).serve - (team.s 6).setWidth 32).toNat < 2 ^ 31 ∧
    2 ^ 31 ≤ ((withUnits.ticket 3).serve - (team.s 7).setWidth 32).toNat ∧ (withUnits.ticket 64).en = false :=
  ⟨ready_at rfl rfl rfl, by decide, rfl, rfl, by decide, by decide, rfl⟩
theorem test_tkwait_parks_until_served : runs (.tkwait 6 7) withUnits (of0 fun t => t.park = some (.ticket 3 64)) = true ∧
    runs (.tkwait 6 6) withUnits (of0 fun t => t.sq.ctl.pc = 1) = true := by decide

/-- A ring of 4 slots stands on the RC page, its block at its start: HEAD 1, TAIL 2, the record at HEAD VALID. -/
def ringMem : List Host.Cell :=
  [(0x200000, 2), (0x200008, 1), (0x200010, 0x40), (0x200011, 0x20), (0x200018, 4), (0x20001C, 0x40), (0x200080, 1), (0x2000BF, 0x55)]
def withRing : State := { st with mem := ringMem }
def blk : RingBlk := { tail := 2, head := 1, ring := 0x2040, size := 4, slotb := 64, qflags := 0, rest := 0 }
theorem test_meets_RingReady : RingReady withRing withRing 0 team (team.s 2).toNat (team.s 7).toNat pageRC blk ∧ blk.count < blk.size ∧ blk.count ≠ 0 ∧
    SlotAt withRing 0 team (blk.slot blk.tail) pageRC 0x2000C0 ∧ SlotAt withRing 0 team (blk.slot blk.head) pageRC 0x200080 ∧
    (readByte withRing.mem 0x200080).getLsbD 0 = true ∧ SqReady withRing 0 team (.qdeq 10 2 7) :=
  ⟨⟨by decide, by decide, rfl, by decide, .inr (calm_of rfl rfl), rfl, rfl, by decide⟩, by decide, by decide, ⟨rfl, rfl, by decide⟩, ⟨rfl, rfl, by decide⟩, by decide,
   ready_at rfl rfl rfl⟩
theorem test_meets_RingBinding : ∀ q, ¬BoundTo withRing q (pageRC.pa + ((team.s 2).toNat - pageRC.va)) := fun q h => by
  obtain ⟨_, _, he, _⟩ := h
  have hw : withRing.walk (withRing.queue q).asid.toNat (withRing.queue q).qcba.toNat = withRing.walk 0 0 := rfl
  rw [hw] at he
  exact absurd he (by rw [show withRing.walk 0 0 = .error _ from rfl]; exact fun h => nomatch h)
theorem test_qdeq_takes_the_record : runs (.qdeq 10 2 7) withRing (fun s => readByte s.mem 0x200008 = 2 && readByte s.mem 0x200080 = 0 &&
    of0 (fun t => t.spByte 64 = 1 && t.spByte 127 = 0x55) s) = true := by decide
theorem test_qenq_appends_the_record : runs (.qenq 10 2 7) withRing (fun s => readByte s.mem 0x200000 = 3 && readByte s.mem 0x2000C0 = 1) = true := by
  decide
theorem test_tsub_without_a_queue_replies_3 :
    runs (.tsub 10 2 7) withRing (of0 fun t => t.sq.replies.map (fun r => r.val) = [3]) = true := by decide
theorem test_meets_RingChecks : SqReady st 0 team (.qenq 10 2 7) ∧ (team.s 2).toNat % 64 = 0 ∧ (team.s 7).toNat % 64 = 0 ∧
    (team.s 7).toNat + 64 ≤ team.bankCount * 0x20000 ∧ kttLookup (st.kslot 0 team) (team.s 2).toNat .rw = .ok pageRC ∧
    kttLookup (st.kslot 0 team) (team.s 4).toNat .rw = .error ⟨.kttperm, 3, 0x4000⟩ ∧ (team.s 5).toNat % 64 ≠ 0 ∧
    (ringBlk (readBytes st.mem 0x200000 64)).bad ≠ none :=
  ⟨ready rfl, by decide, by decide, by decide, rfl, rfl, by decide, by decide⟩

/-- The RC page is region 0 of the ASID, with one level open that has saved the page's first line. -/
def pageSnap : KttEntry := { pageRC with sreg := some 0 }
def snapTeam : Team := { team with sq := { team.sq with s := team.sq.s ++ [(8, 0x1000), (9, 0x20000), (10, 0x20001)] } }
def withSnap : State :=
  { device snapTeam with
    mem := [(0x500001, 0x20), (0x500009, 0x10), (0x50000F, 0x80)]
    asids := [(5, { snrtab := 0x500001, snpsize := 0x1000 })]
    snaps := [(1280, { gen := 2, levels := [{ gen := 2, saved := 1, vers := [(0x4000, 0)] }] })]
    slots := [(0, { asid := 5, data := 0x77, marks := 0 })]
    cores := [(0, { issuing := some 0, ks0 := some { slot0 with ktt := [pageUO, pageSnap] } })] }
theorem test_meets_Snap : SqReady withSnap 0 snapTeam (.snap 11 2 8) ∧
    withSnap.snapTarget 0 snapTeam (snapTeam.s 2).toNat (snapTeam.s 8).toNat = some 0 ∧
    withSnap.snapTarget 0 snapTeam (snapTeam.s 2).toNat (snapTeam.s 7).toNat = none ∧ Quiet withSnap 0 snapTeam ∧ snapTeam.waitDrain = none :=
  ⟨ready_at rfl rfl rfl, by decide, by decide, quiet_of rfl rfl rfl rfl rfl ⟨rfl, rfl, rfl⟩, rfl⟩
theorem test_meets_Handles : withSnap.openHandle snapTeam.asid (snapTeam.s 9) = some (0, 0) ∧ withSnap.openHandle snapTeam.asid (snapTeam.s 10) = none ∧
    SqReady withSnap 0 snapTeam (.sresv 11 9 6) ∧ (snapTeam.s 6).toNat ≤ withSnap.poolFree snapTeam.asid ∧
    withSnap.poolFree snapTeam.asid < (snapTeam.s 7).toNat ∧ SqReady withSnap 0 snapTeam (.sacc 9) ∧
    (withSnap.snap snapTeam.asid 0).levels.length ≤ 0 + 1 := ⟨by decide, by decide, ready_at rfl rfl rfl, by decide, by decide, ready_at rfl rfl rfl, by decide⟩
theorem test_snap_opens_a_level : runs (.snap 11 2 8) withSnap (of0 fun t => t.sq.replies.map (fun r => r.val) = [0x30100]) = true := by decide
theorem test_srej_restores_the_line : runs (.srej 9) withSnap (fun s => readByte s.mem 0x200000 = 0x77 && (s.snap 5 0).levels = []) = true := by decide
theorem test_sqry_reports_the_level : runs (.sqry 11 9) withSnap (of0 fun t => t.sq.replies.map (fun r => r.val) = [0x10000000011]) = true := by decide
theorem test_meets_Ldv : SqReady withSnap 0 snapTeam (.ldv 11 2 9) ∧ (snapTeam.s 2).toNat % 8 = 0 ∧
    kttLookup (withSnap.kslot 0 snapTeam) (snapTeam.s 2).toNat .r = .ok pageSnap ∧ withSnap.region? snapTeam.asid 0 = some (0x2000, 0x1000) ∧
    (∃ l, (withSnap.snap snapTeam.asid 0).levels[0]? = some l ∧ SMap.get? l.vers (0x200000 / 128) = some 0 ∧ (SMap.get? withSnap.slots 0).isSome = true) :=
  ⟨ready_at rfl rfl rfl, by decide, rfl, by decide, _, rfl, rfl, rfl⟩
theorem test_ldv_reads_the_levels_version : runs (.ldv 11 2 9) withSnap (of0 fun t =>
    t.sq.landing.map (fun l => l.parts.map fun p => p.bytes.headD 0) = [[0x77]]) = true := by decide

/-- dtile 0 is of class CONST with value 9. -/
def dirTeam : Team := { team with dirs := [(0, { cls := .const, value := 9 })] }
theorem test_meets_TileDirectory : SqReady (device dirTeam) 0 dirTeam (.tdcls 10 6) ∧ (dirTeam.s 6).toNat < dirTeam.bankCount * 0x20000 ∧
    dirTeam.bankCount * 0x20000 ≤ (dirTeam.s 5).toNat ∧ SqReady (device dirTeam) 0 dirTeam (.tdscan 1 30) ∧
    (dirTeam.s 1).toNat % 4096 = 0 ∧ (dirTeam.s 1).toNat + 4096 * (30 + 1) ≤ dirTeam.bankCount * 0x20000 ∧
    dirTeam.bankCount * 0x20000 < (dirTeam.s 1).toNat + 4096 * (31 + 1) :=
  ⟨ready_device rfl rfl, by decide, by decide, ready_device rfl rfl, by decide, by decide, by decide⟩
theorem test_meets_ScanUnderWay : (none : Option (Nat × Bool)) = dirTeam.scanDt ∧ ({ dirTeam with scanDt := some (0, true) } : Team).scanDt = some (0, true) :=
  ⟨rfl, rfl⟩
theorem test_a_dtile_written_during_its_scan_is_gen :
    runs (.tdscan 0 0) (device { dirTeam with scanDt := some (0, true) }) (of0 fun t => (t.dir 0).cls = .gen && t.sq.ctl.pc = 1) = true ∧
    runs (.tdscan 0 0) (device { dirTeam with scanDt := some (0, false) }) (of0 fun t => (t.dir 0).cls = .zero) = true := by decide +kernel
theorem test_tdcls_packs_class_and_value : runs (.tdcls 10 6) (device dirTeam) (of0 fun t => t.s 10 = 0x900000002) = true := by decide
theorem test_a_scan_of_a_misaligned_address : runs (.tdscan 7 0) (device dirTeam) (trapped .align) = true := by decide

/-! The vector engine (10). -/

/-- The VE's shape, by TYPE. -/
def shaped (ty : Nat) : Team := { team with ve := { team.ve with vshape := BitVec.ofNat 20 ty } }

theorem source_v {t : Team} {x : BitVec 8} {k : Nat} (h : x.toNat < 128) (hv : x.toNat < t.k.vregs) (hm : t.ve.vMarks = []) :
    Source t x k (t.v x.toNat) := .inl ⟨h, hv, by simp [hm], rfl⟩
theorem dest_v {t : Team} {d : BitVec 8} (h : d.toNat < 128) (hv : d.toNat + 1 ≤ t.k.vregs) : Dest t d 1 :=
  .inl ⟨h, Nat.mod_one _, hv⟩

theorem sources1 {t : Team} {a : BitVec 8} {x : VReg} (h : Source t a 0 x) : Sources t [a] [x] := h

theorem veReady2 (ty : Nat) : VeReady (device (shaped ty)) 0 (shaped ty) [1, 2] [(shaped ty).v 1, (shaped ty).v 2] 3 :=
  ⟨rfl, ⟨source_v (by decide) (by simp [shaped, team, kern]) rfl, source_v (by decide) (by simp [shaped, team, kern]) rfl⟩, dest_v (by decide) (by simp [shaped, team, kern]), by simp [shaped, team]⟩
theorem veReady1 (ty : Nat) : VeReady (device (shaped ty)) 0 (shaped ty) [1] [(shaped ty).v 1] 3 :=
  ⟨rfl, sources1 (source_v (by decide) (by simp [shaped, team, kern]) rfl), dest_v (by decide) (by simp [shaped, team, kern]), by simp [shaped, team]⟩
theorem veReady0 (ty : Nat) : VeReady (device (shaped ty)) 0 (shaped ty) [] [] 3 :=
  ⟨rfl, trivial, dest_v (by decide) (by simp [shaped, team, kern]), by simp [shaped, team]⟩

theorem test_meets_IntegerElementWords : (shaped 2).vtype ≤ 7 ∧ (shaped 7).vtype ≤ 7 ∧ ReadsDest (shaped 2) 3 ∧
    VeReady (device (shaped 2)) 0 (shaped 2) [1, 2] [(shaped 2).v 1, (shaped 2).v 2] 3 :=
  ⟨by decide, by decide, .inr ⟨by decide, by decide⟩, veReady2 2⟩
theorem test_meets_FloatElementWords : (shaped 8).vtype = 8 ∧ (shaped 10).vtype = 10 ∧ ReadsDest (shaped 10) 3 ∧
    VeReady (device (shaped 10)) 0 (shaped 10) [1, 2] [(shaped 10).v 1, (shaped 10).v 2] 3 :=
  ⟨by decide, by decide, .inr ⟨by decide, by decide⟩, veReady2 10⟩
/-- v3 after a word of the VE with these two registers, the other elements zero. -/
def v3 (i : Instr) (ty : Nat) (v1 v2 : Nat) (r : Nat) : Bool :=
  runs i (device { shaped ty with ve := { (shaped ty).ve with v := [(1, BitVec.ofNat 4096 v1), (2, BitVec.ofNat 4096 v2)] } })
    (of0 fun t => (t.v 3).toNat = r)
theorem test_vsubs_saturates : v3 (.vsubs 3 1 2) 6 0x80000001 2 0x80000000 = true := by decide
theorem test_vmulh_is_signed : v3 (.vmulh 3 1 2) 6 0x80000000 2 0xFFFFFFFF = true := by decide
theorem test_vavg_rounds_up : v3 (.vavg 3 1 2) 7 0xFFFFFFFF 0xFFFFFFFE 0xFFFFFFFF = true := by decide
theorem test_vmul_rounds_to_even : v3 (.vmul 3 1 2) 10 0x3F800001 0x3F800001 0x3F800002 = true := by decide
theorem test_vmax_of_the_zeros : v3 (.vmax 3 1 2) 10 0x80000000 0x00000000 0x00000000 = true := by decide
theorem test_vclass_needs_a_floating_shape : runs (.vclass 3 1) (device (shaped 2)) (faults .shapebad) = true := by decide
theorem test_meets_RoundingKeeps : F16 ∈ [BF16, F16, F32, F64] ∧ 0x7BFF < 2 ^ F16.w ∧ F16.isSpecial 0x7BFF = false := by decide

theorem test_meets_MaskWords : VeReady (device (shaped 2)) 0 (shaped 2) [1, 2] [(shaped 2).v 1, (shaped 2).v 2] 0x80 ∧
    (1 : BitVec 3).toNat ∉ (shaped 2).ve.mMarks ∧ (5 : BitVec 4).toNat < 6 ∧ 6 ≤ (6 : BitVec 4).toNat :=
  ⟨⟨rfl, ⟨source_v (by decide) (by decide) rfl, source_v (by decide) (by decide) rfl⟩, .inr (.inl rfl), by decide⟩, by decide, by decide, by decide⟩
theorem test_vcmp_is_signed : runs (.vcmp 2 1 1 2) (device { shaped 6 with ve := { (shaped 6).ve with v := [(1, 0x80000000), (2, 1)] } })
    (of0 fun t => (t.m 1).toNat = 1) = true := by decide
theorem test_mnot_acts_on_all_bits : runs (.mnot 1 2) st (of0 fun t => (t.m 1) = BitVec.allOnes 1024) = true := by decide
theorem test_meets_Conversions : (shaped 2).vtype ≤ 10 ∧ (4 : BitVec 4).toNat ≤ 10 ∧ (shaped 2).vmaskReg.toNat ∉ (shaped 2).ve.mMarks ∧
    typeW 4 = 2 * (shaped 2).vw ∧ Group (shaped 2) 1 1 [(shaped 2).v 1] ∧ Dest (shaped 2) 4 2 ∧
    Group (shaped 2) 4 4 [(shaped 2).v 4, (shaped 2).v 5, (shaped 2).v 6, (shaped 2).v 7] ∧ typeW 10 ≠ (shaped 2).vw :=
  ⟨by decide, by decide, by decide, by decide, ⟨rfl, .inl ⟨rfl, source_v (by decide) (by decide) rfl⟩⟩, .inl ⟨by decide, by decide, by decide⟩,
   ⟨rfl, .inr ⟨by decide, by decide, by decide, by decide, fun i h => by
     match i, h with
     | 0, _ => exact ⟨by decide, rfl⟩
     | 1, _ => exact ⟨by decide, rfl⟩
     | 2, _ => exact ⟨by decide, rfl⟩
     | 3, _ => exact ⟨by decide, rfl⟩⟩⟩, by decide⟩
theorem test_vcvt_clamps_and_flags : runs (.vcvt 3 1 6) (device { shaped 7 with ve := { (shaped 7).ve with v := [(1, 0xFFFFFFFF)] } })
    (of0 fun t => (t.v 3).toNat = 0x7FFFFFFF && t.status ≠ 0) = true := by decide
theorem test_meets_Reductions : VeReady (device (shaped 4)) 0 (shaped 4) [1] [(shaped 4).v 1] 3 ∧ (shaped 4).vtype ≤ 7 ∧ (shaped 9).vtype = 9 :=
  ⟨veReady1 4, by decide, by decide⟩
theorem test_vrsum_wraps : v3 (.vrsum 3 1) 7 0x2FFFFFFFF 0 1 = true := by decide
theorem test_meets_Permutes : VeReady (device (shaped 2)) 0 (shaped 2) [1] [(shaped 2).v 1] 3 ∧ (1 : BitVec 4).toNat ∉ (shaped 2).ve.kMarks ∧
    max (shaped 2).vw 16 / (shaped 2).vw = 2 ∧ Group (shaped 2) 2 2 [(shaped 2).v 2, (shaped 2).v 3] ∧ max (shaped 4).vw 16 / (shaped 4).vw = 1 ∧
    ReadsDest (shaped 2) 3 :=
  ⟨veReady1 2, by decide, by decide, ⟨rfl, .inr ⟨by decide, by decide, by decide, by decide, fun i h => by
     match i, h with
     | 0, _ => exact ⟨by decide, rfl⟩
     | 1, _ => exact ⟨by decide, rfl⟩⟩⟩, by decide, .inr ⟨by decide, by decide⟩⟩
theorem test_vslide_shifts_in_zero : v3 (.vslide 3 1 1) 7 0x0102 0 0x10200000000 = true := by decide
theorem test_meets_KxWords : st.cur? = some (0, team) ∧ (1 : BitVec 4).toNat ∉ team.ve.kMarks ∧
    (1 : BitVec 4).toNat ∈ ({ team with ve := { team.ve with kMarks := [1] } } : Team).ve.kMarks := ⟨rfl, by decide, by decide⟩
theorem test_xaddi_wraps_at_23_bits : runs (.xaddi 1 (-1025)) st (of0 fun t => t.x 1 = 0x7FFFFF) = true := by decide
theorem test_meets_VectorControl : (device withChan).cur? = some (0, withChan) ∧ (10 : BitVec 4).toNat ≤ 10 ∧ 11 ≤ (11 : BitVec 4).toNat ∧
    withChan.chanDecl 1 = none ∧ (withChan.chanDecl 0).isSome = true ∧ (withChan.chan 0).c ∈ (withChan.chan 0).shown ∧ (withChan.chan 0).p ∉ (withChan.chan 0).shown :=
  ⟨rfl, by decide, by decide, rfl, rfl, by decide, by decide⟩
theorem test_vadvp_fills_a_slot : runs (.vadvp 0) (device withChan) (of0 fun t => (t.chan 0).full.contains 1 && (t.chan 0).p = 2) = true := by decide
theorem test_meets_VectorLoads : VeReady (device (shaped 2)) 0 (shaped 2) [] [] 3 ∧ (1 : BitVec 4).toNat ∉ (shaped 2).ve.xMarks ∧
    (((shaped 2).x 1).toNat + (0 : BitVec 12).toInt * 64) % 2 ^ 23 % 64 = 0 ∧ pieceAt 0x400 0 0 + 512 ≤ (shaped 2).bankCount * 0x20000 ∧
    (shaped 2).spMarked (pieceAt 0x400 0 0) 512 = false ∧ (shaped 2).bankCount * 0x20000 < pieceAt 0x1FE40 0 0 + 512 :=
  ⟨veReady0 2, by decide, by decide, by decide, by decide, by decide⟩
theorem test_a_vector_load_outside_the_banks : runs (.vld 3 0 2040) st (of0 fun t => t.ve.ctl.pc = 1) = true ∧
    runs (.vld 3 0 (-1)) st (faults .spoob) = true := by decide
theorem test_meets_IndexedLoads : VeReady (device (shaped 4)) 0 (shaped 4) [1] [(shaped 4).v 1] 3 ∧ 16 ≤ (shaped 4).vw ∧ ((shaped 4).x 1).toNat % 64 = 0 ∧
    (shaped 2).vw < 16 ∧ ((shaped 4).x 1).toNat + 65535 * 2 + 2 ≤ 2 ^ 23 := ⟨veReady1 4, by decide, by decide, by decide, by decide⟩
theorem test_meets_VectorStores : VeReady (device (shaped 4)) 0 (shaped 4) [1] [(shaped 4).v 1] 0x80 ∧ (1 : BitVec 4).toNat ∉ (shaped 4).ve.xMarks ∧
    (0 : Int) % 64 = 0 ∧ (128 : Int) % 64 = 0 ∧ (∀ j < 8, pieceAt 0x400 128 j + 64 ≤ (shaped 4).bankCount * 0x20000) :=
  ⟨⟨rfl, sources1 (source_v (by decide) (by decide) rfl), .inr (.inl rfl), by decide⟩, by decide, rfl, rfl, by decide⟩
/-- Chunk register c0 produces into channel 0. -/
def chunked : Team := { withChan with ve := { withChan.ve with chunks := [(0, { producer := true, chan := 0, ptr := 1 }), (1, { producer := false, chan := 0, ptr := 1 })] } }
theorem test_meets_VectorResults : Dest chunked 0x90 1 ∧ Dest chunked 2 2 ∧ Dest chunked 0x80 4 ∧ [(0 : VReg), 1].length = 2 :=
  ⟨.inr (.inr ⟨0, { producer := true, chan := 0, ptr := 1 }, _, by decide, rfl, rfl, rfl, rfl, by decide, by decide⟩),
   .inl ⟨by decide, by decide, by decide⟩, .inr (.inl rfl), rfl⟩
theorem test_meets_VectorOperandChecks : BadSource team 0x89 ∧ BadSource team 0xB0 ∧ ¬BadSource team 127 ∧ ¬BadSource team 0xAF ∧
    SMap.get? team.ve.chunks 7 = none ∧ SMap.get? chunked.ve.chunks 1 = some { producer := false, chan := 0, ptr := 1 } ∧
    512 * (1 + 1) ≤ 1024 := ⟨by unfold BadSource; decide, by unfold BadSource; decide, by unfold BadSource; decide, by unfold BadSource; decide, rfl, rfl, by decide⟩
theorem test_a_reserved_selector_is_illop : runs (.vadd 3 0x89 1) st (faults .illop) = true ∧ runs (.vadd 3 0x97 1) st (faults .chbad) = true := by decide

/-! The matrix engine, the transfer units and the gather queue (11, 12, 13). -/

theorem test_meets_DescriptorWords : st.cur? = some (0, team) ∧ Machine.nestField 49 = none ∧ (Machine.nestField 1).map (·.width) = some 16 ∧
    Machine.xferField 18 = none ∧ (Machine.xferField 9).map (·.width) = some 48 ∧ 128 * (1023 : BitVec 16).toNat + 128 ≤ team.bankCount * 0x20000 ∧
    team.bankCount * 0x20000 < 128 * (1024 : BitVec 16).toNat + 128 := ⟨rfl, rfl, rfl, rfl, rfl, by decide, by decide⟩
theorem test_nseth_adds_the_upper_bits :
    runs (.nseth 2 7) (device { team with me := { team.me with shadow := 0x23#1024 <<< 48 } }) (of0 fun t => t.me.shadow = 0x700023#1024 <<< 48) = true ∧
    runs (.nset 1 0x10000) st (faults .illop) = true := by decide
theorem test_nld_outside_the_banks : runs (.nld 1024) st (faults .spoob) = true := by decide

/-- Three banks: B in INT8 tiles, A in one-bit planes with the status word, C in signed bytes. -/
def meTeam : Team :=
  { team with
    k := { kern with nbank := 3, banks := [2, 16, 2] }
    fmts := [(0, BitVec.ofNat 26 (2 + 8 * 2 ^ 10 + 9 * 2 ^ 18)), (1, 16), (2, 2)]
    me := { team.me with shadow := BitVec.ofNat 1024 (0x40000 + 0x20000 * 2 ^ 48 + 0x40000 * 2 ^ 96 + 0x30000 * 2 ^ 168) } }
theorem test_meets_MatrixWords : (device meTeam).cur? = some (0, meTeam) ∧ meTeam.coFault 0x10 = some .chbad ∧ meTeam.coFault 1 = none ∧ meTeam.me.nests < 4 ∧
    meTeam.nestCheck { desc := meTeam.me.shadow, co := 1, chain := false, pc := 0, seq := 1, named := none, issued := 0 } = none ∧
    (meTeam.nestCheck { desc := meTeam.me.shadow, co := 1, chain := true, pc := 0, seq := 1, named := none, issued := 0 }).isSome = true ∧ meTeam.me.nests = 0 :=
  ⟨rfl, by decide, by decide, by decide, by decide, by decide, rfl⟩
theorem test_mgo_queues_the_nest : runs (.mgo 1 0 3) (device meTeam) (of0 fun t => t.me.nests = 1 && t.me.seq = 1) = true := by decide
theorem test_mgo_of_a_zero_descriptor_traps : runs (.mgo 0 0 0) st (faults .nestbad) = true := by decide
theorem test_mwait_counts_the_nests : runs (.mwait 0) st (of0 fun t => t.me.ctl.pc = 1) = true := by decide

/-- A transfer of 64 bytes from the UO page to local address 0x200; TU0 is served. -/
def xfer : BitVec 512 := BitVec.ofNat 512 (0x1000 + 0x200 * 2 ^ 64 + 0x400 * 2 ^ 336 + 63 * 2 ^ 384 + 63 * 2 ^ 448)
def tuTeam : Team := { team with tu0 := { team.tu0 with shadow := xfer } }
def tuState : State := { device tuTeam with sel := { core := 0, eng := .tu0 } }
theorem test_meets_GoWords : tuState.cur? = some (0, tuTeam) ∧ tuState.stream = .tu0 ∧ tuTeam.coFault 0x21 = some .illop ∧ tuTeam.coFault 0 = none ∧
    (tuTeam.tu .tu0).outstanding < 8 ∧ tuState.xferCheck 0 tuTeam (tuState.withFmts 0 tuTeam (tuTeam.newJob .tu0 .xgo 0 0)) = none ∧
    (tuState.xferCheck 0 tuTeam (tuState.withFmts 0 tuTeam (tuTeam.newJob .tu0 .xpushr 0 0))).isSome = true :=
  ⟨rfl, rfl, by decide, by decide, by decide, by decide, by decide⟩
theorem test_xgo_adds_a_job : runs (.xgo 0 2) tuState (of0 fun t => t.tu0.jobs.map (fun j => (j.seq, j.named)) = [(1, some 32)] && t.tu0.ctl.pc = 1) = true := by
  decide
theorem test_xset_of_a_later_part : runs (.xset 9 2 0x3FF) tuState (of0 fun t => (t.tu0.shadow.toNat / 2 ^ 336) % 2 ^ 48 = 0xFFC000000400) = true := by decide

/-- A kernel whose channel 0 takes pushes from the gang. -/
def pushKern : Kernel := { kern with kind := 2, gnbank := 1, chans := [{ gt := true, ct := true, rpush := true, slots := 4, slotBytes := 1024, base := 0x1000 }] }
/-- A gather team in slot 1,024, outside a gang. -/
def gatherTeam : Team := { team with slot := 1024, gather := true, k := { kern with kind := 1 } }
def gatherState : State :=
  { State.reset with
    start := { State.reset.start with step := 6, ready := true }
    teams := [(1024, gatherTeam)]
    cores := [(64, { issuing := some 1024, ks0 := some slot0 })]
    sel := { core := 64, eng := .gq } }
theorem test_meets_GatherWords : gatherState.cur? = some (1024, gatherTeam) ∧ gatherTeam.coFault 0 = none ∧ gatherTeam.gq.outstanding < 8 ∧
    (¬∃ j ∈ gatherTeam.gq.jobs, (j.kind = .lpop ∨ j.kind = .lpeek) ∧ j.ent = 2) ∧ gatherTeam.gang = [] ∧
    (gatherTeam.newJob .gq .gdone 0 0).plainCheck = none ∧
    (let t : Team := { gatherTeam with k := pushKern, gang := [0, 1024] }
     State.gatherCheck 1024 t { t.newJob .gq .gfetch 0 0 with ent := 2, done := true } = none ∧ (t.pushDecl 1024 0 0).isSome = true) :=
  ⟨rfl, rfl, by decide, by simp [gatherTeam, team], rfl, by decide, by decide, rfl⟩
theorem test_gdone_outside_a_gang : runs (.gdone 0) gatherState (fun s => (s.team? 1024).any fun t => t.pend.any fun f => f.cause = .xferbad) = true := by
  decide
theorem test_lpop_adds_a_job : runs (.lpop 0 2 0) gatherState (fun s => (s.team? 1024).any fun t => t.gq.jobs.map (fun j => j.ent) = [2]) = true := by
  decide

/-! The device's units (03, 04, 05, 12, 19): what the hypotheses of their statements are met by, and single events. -/

/-- Module power is absent. -/
def off : State := { State.reset with start := { State.reset.start with powered := false } }
theorem test_meets_NothingHappensWithoutPower : off.start.powered = false ∧ Instr.occupancyTick.streams = [] ∧ Instr.occupancyTick ≠ .powerOnStart ∧
    off.agenda = [] := ⟨rfl, rfl, by decide, rfl⟩
theorem test_nothing_happens_without_power : step off = .fault .noPower ∧ runs .powerOnStart off (fun s => s.start.powered && s.start.step = 1) = true :=
  ⟨rfl, by decide⟩

theorem reaches_st : HostReaches st := ⟨rfl, rfl, rfl⟩
/-- Queue 0 is ACTIVE and a snapshot level of ASID 5 is open. -/
def busy : State := { st with queues := [(0, { st := .active })], snaps := [(1280, { levels := [{ gen := 2 }] })] }
theorem test_meets_HostWrites : HostReaches st ∧ (∀ p ∈ st.queues, p.2.st = .disabled) ∧ (st.queue 271).st = .disabled ∧
    HostReaches busy ∧ (∃ p ∈ busy.queues, p.2.st ≠ .disabled) ∧ (busy.queue 0).st ≠ .disabled ∧ (∃ p ∈ busy.snaps, p.1 / 256 = 5 ∧ p.2.levels ≠ []) ∧
    (∀ p ∈ st.snaps, p.1 / 256 = 5 → p.2.levels = []) :=
  ⟨reaches_st, fun _ h => (nomatch h), by decide, ⟨rfl, rfl, rfl⟩, ⟨_, List.mem_cons_self, by decide⟩, by decide, ⟨_, List.mem_cons_self, rfl, by decide⟩,
   fun _ h => (nomatch h)⟩
theorem test_a_write_of_winbase_keeps_its_field : runs (.registerWrite 0x1F0008 0xFFFFFFFFFFFFFFFF) st (fun s => s.host.winbase = 0x7FC0000000) = true := by decide
theorem test_a_write_of_qcfg : runs (.registerWrite 0x200008 0x1234560000000FFF) st (fun s => let q := s.queue 0
    q.quant = 0x5600 && q.weight = 0 && q.cls = 0 && q.asid = 0xFFF) = true := by decide

/-- ASID 5 maps its first GiB onto physical memory; queue 0 of it has a block at 0x2000 and a ring of 2 slots behind it, with a
ticket operation at HEAD. -/
def queueMem : List Host.Cell :=
  [(0x2000, 1), (0x2010, 0x40), (0x2011, 0x20), (0x2018, 2), (0x201C, 0x40), (0x2040, 1), (0x2041, 8), (0x2068, 1), (0x2070, 1),
   (0x600000, 0x01), (0x600001, 0x10), (0x600002, 0x60), (0x601000, 0x01), (0x601001, 0x20), (0x601002, 0x60), (0x602000, 0x1F)]
def qBlk : RingBlk := { tail := 1, head := 0, ring := 0x2040, size := 2, slotb := 64, qflags := 0, rest := 0 }
def queued (k : Queue) (m : List Host.Cell) : State :=
  { st with mem := m, queues := [(0, { k with qcba := 0x2000, asid := 5 })], asids := [(5, { ptroot := 0x600001, ptroot' := 0x600001 })] }
theorem test_meets_QueueStates : HostReaches (queued {} queueMem) ∧ ((queued {} queueMem).queue 0).st = .disabled ∧ BlockSound (queued {} queueMem) 0 qBlk ∧
    (queued {} []).virtRead 5 0x2000 64 = none ∧ ((queued { st := .broken } queueMem).queue 0).st = .broken ∧
    ((queued { st := .active } queueMem).queue 0).st ≠ .disabled :=
  ⟨⟨rfl, rfl, rfl⟩, rfl, ⟨⟨_, rfl, rfl⟩, by decide, by decide⟩, rfl, rfl, by decide⟩
/-- The ring of the queue has 3 slots, which is no power of two. -/
def badMem : List Host.Cell := queueMem.map fun c => if c.1 = 0x2018 then (c.1, 3) else c
theorem test_meets_BadBlocks : BadBlock (queued {} []) 0 0xFF 3 ∧ BadBlock (queued {} badMem) 0 0x18 1 ∧
    BadBlock { queued {} queueMem with marks := [0x80] } 0 0 4 :=
  ⟨.inr (.inr (.inr ⟨rfl, rfl, rfl⟩)), .inl ⟨_, ⟨_, rfl, rfl⟩, by decide⟩, .inr (.inr (.inl ⟨_, rfl, rfl, rfl⟩))⟩
theorem test_enabling_a_sound_queue : runs (.queueEnable 0) (queued {} queueMem) (fun s => (s.queue 0).st = .active) = true ∧
    runs (.queueEnable 0) (queued {} []) (fun s => (s.queue 0).st = .broken) = true := by decide
theorem test_meets_Teardown : (queued { st := .teardown } queueMem).start.powered = true ∧ ((queued { st := .teardown } queueMem).queue 0).st = .teardown ∧
    (queued { st := .teardown } queueMem).tornDown 0 = true ∧
    ({ queued { st := .teardown } queueMem with tasks := [{ id := 1, typ := 1, queue := 0, started := true, slots := [0], stop := some 0x07000000 }] } : State).tornDown 0 = false :=
  ⟨rfl, rfl, by decide, by decide⟩
theorem test_meets_RecordAt : RecordAt (queued { st := .active } queueMem) 0 qBlk ((readBytes queueMem 0x2040 64)) 0x2040 0x2040 :=
  ⟨⟨rfl, rfl, rfl⟩, ⟨_, rfl, rfl⟩, by decide, rfl, rfl, by decide, ⟨_, rfl, by decide⟩, by decide⟩
theorem test_meets_Description : ((queued { st := .active } queueMem).describe 5 (readBytes queueMem 0x2040 64) false).isOk = true ∧
    (fieldAt (readBytes queueMem 0x2040 64) 2 2).testBit 2 = false := by decide
theorem test_a_record_becomes_a_task : runs (.recordAdmit 0) (queued { st := .active } queueMem) (fun s => s.tasks.map (fun k => (k.typ, k.arg0)) = [(8, 1)] &&
    readByte s.mem 0x2040 = 0 && readByte s.mem 0x2008 = 1) = true := by decide
/-- Its ring is empty, and the queue manager sleeps on the line of the block. -/
def asleep : State := queued { st := .active, wake := true, watch := some 0x40 } (queueMem.drop 1)
theorem test_meets_EmptyRing : (asleep.queue 0).wake = true ∧ (asleep.queue 0).watch = asleep.lineOf 5 0x2000 ∧
    (∃ bs, asleep.virtRead 5 0x2000 64 = some (bs, false) ∧ (ringBlk bs).bad = none ∧ (ringBlk bs).head = (ringBlk bs).tail) ∧
    (asleep.walk 5 0x2000).isOk = true := ⟨rfl, by decide, ⟨_, rfl, by decide, by decide⟩, by decide⟩

/-- Two operation tasks of ASID 5 that wait for nothing. -/
def futureOp : Task := { id := 1, typ := 7, asid := 5, arg0 := 0x0002000300000001, arg1 := 9 }
def ticketOp : Task := { id := 2, typ := 8, asid := 5, arg0 := 0x0000000300000001, arg1 := 2 }
def withOps : State := { withUnits with tasks := [futureOp, ticketOp] }
theorem startable_of {s : State} {k : Task} (h1 : k.stop = none ∧ k.cancelled = none ∧ k.wdStage = 0) (h2 : k.waits = [] ∧ k.waitFail = none) (h3 : k.edges = [])
    (h4 : k.ordered = none) (h5 : k.stamp = none) : Startable s k :=
  ⟨h1, h2, fun e m => by simp [h3] at m, fun u m => by simp [h4] at m, fun n c m => by simp [h5] at m⟩
theorem test_meets_Operations : HostReaches withOps ∧ withOps.task? 1 = some futureOp ∧ Startable withOps futureOp ∧ FutureTask (.taskFutureResolve 1) 1 1 ∧
    HandleNames withOps 5 0x00020003 3 ∧ (futureAfter (withOps.future 3) 1 9).isSome = true ∧ futureAfter (withOps.future 4) 1 9 = none ∧
    withOps.task? 2 = some ticketOp ∧ Startable withOps ticketOp ∧ (withOps.ticket 3).en = true ∧ (withOps.ticket 3).asid.toNat = ticketOp.asid ∧
    (withOps.future 1).st = .free :=
  ⟨⟨rfl, rfl, rfl⟩, rfl, startable_of ⟨rfl, rfl, rfl⟩ ⟨rfl, rfl⟩ rfl rfl rfl, .inl ⟨rfl, rfl⟩, ⟨rfl, by decide, by decide, rfl, rfl⟩, rfl, rfl, rfl,
   startable_of ⟨rfl, rfl, rfl⟩ ⟨rfl, rfl⟩ rfl rfl rfl, rfl, rfl, rfl⟩
theorem test_a_future_operation_resolves : runs (.taskFutureResolve 1) withOps (fun s => (s.future 3).value = 9 && s.tasks.length = 1) = true := by decide
theorem test_a_ticket_operation_serves : runs (.taskTicketServe 2) withOps (fun s => (s.ticket 3).serve = 8) = true := by decide
/-- A kernel task of one team that has exited, and an engine job that has failed. -/
def doneTask : Task := { id := 1, typ := 1, asid := 5, started := true, exited := [0], k := some { kern with ext := [1, 1, 1, 1, 1, 1] } }
def withDone : State := { State.reset with start := { State.reset.start with step := 6, ready := true }, tasks := [doneTask, { id := 2, typ := 5, started := true, jobEnd := some (.err 0x0E 7) }] }
theorem test_meets_TasksLeave : withDone.task? 1 = some doneTask ∧ withDone.hintedLeft 1 = true ∧ (∀ p ∈ withDone.teams, p.2.tid ≠ 1) ∧
    withDone.taskUndrained 1 = false ∧ (∀ x, doneTask.k = some x → doneTask.exited.length = x.teams) ∧ doneTask.fail = none ∧ doneTask.exitErr = false ∧
    (∃ k, withDone.task? 2 = some k ∧ k.typ ≠ 1 ∧ k.jobEnd = some (.err 0x0E 7)) :=
  ⟨rfl, by decide, fun _ h => (nomatch h), by decide, fun x h => by cases h; decide, rfl, rfl, ⟨_, rfl, by decide, rfl⟩⟩
theorem test_meets_TasksThatFail : ({ id := 3, typ := 5, started := true, jobEnd := some .fenced } : Task).jobEnd = some .fenced ∧
    ({ id := 3, typ := 5, waitFail := some 0x0E000000 } : Task).waitFail = some 0x0E000000 ∧ ({ id := 3, cancelled := some 7 } : Task).cancelled = some 7 ∧
    withDone.submitterTorn { id := 3, cancelled := some 7 } = false := ⟨rfl, rfl, rfl, by decide⟩
theorem test_a_fenced_job_fails_with_cause_14 :
    runs (.taskRetire 3) { withUnits with tasks := [{ id := 3, typ := 5, asid := 5, started := true, resfut := some 0x20005, jobEnd := some .fenced }],
                                          futures := [(5, { gen := 2, asid := some 5, st := .pending })] } (fun s => (s.future 5).value = 0x090E0000) = true := by decide
theorem test_a_retired_task_leaves : runs (.taskRetire 1) withDone (fun s => s.tasks.map (fun k => k.id) = [2]) = true := by decide

/-- A kernel of one team that may be placed. -/
def newTask : Task := { id := 1, typ := 1, asid := 5, k := some { kern with ext := [1, 1, 1, 1, 1, 1] } }
def placing : State := { State.reset with start := { State.reset.start with step := 6, ready := true }, tasks := [newTask] }
theorem test_meets_Placement : MayPlace placing 1 0 newTask { kern with ext := [1, 1, 1, 1, 1, 1] } ∧
    placing.placesOk newTask { kern with ext := [1, 1, 1, 1, 1, 1] } 0 [(0, 16)] = true ∧ placing.starvedNow.head? = none ∧ (placing.chooseQueue false 3 0).2 = some 0 ∧
    ({ kern with ext := [1, 1, 1, 1, 1, 1] } : Kernel).orderOk newTask.placed 0 = true :=
  ⟨⟨rfl, rfl, rfl, by decide, by decide, by decide, by decide, by decide⟩, by decide, rfl, by decide, by decide⟩
theorem test_a_placed_team_loads : runs (.teamPlace 1 0 [(0, 16)] []) placing (fun s => (s.team? 16).any fun t => !t.banksReady && t.tid = 1) = true := by
  decide
/-- Core 1 holds the parked teams of two other kernels, which leaves no room for a third; the pool has room for images. -/
def crowded : State :=
  { placing with host := { placing.host with swpsize := 0x1000000 },
                 teams := [(16, { team with slot := 16, tid := 5, park := some .pwait }), (17, { team with slot := 17, tid := 6, park := some .pwait, since := 9 })] }
theorem test_meets_Evictions : newTask.suits { kern with ext := [1, 1, 1, 1, 1, 1] } (0, 18) = true ∧ (0 : Nat) ∈ ({ kern with ext := [1, 1, 1, 1, 1, 1] } : Kernel).together 0 ∧
    crowded.roomOn (coreOfSlot 18) { kern with ext := [1, 1, 1, 1, 1, 1] } 1 [] = false ∧ crowded.victim (coreOfSlot 18) 3 false = [16] ∧
    crowded.findsRoom newTask { kern with ext := [1, 1, 1, 1, 1, 1] } 0 (crowded.allEvictable 3 false) = true ∧ crowded.roomFor [16] = some [0] ∧
    (crowded.chooseQueue false 3 0).2 = some 0 := by decide
theorem test_the_longest_resident_is_evicted : runs (.teamPlace 1 0 [(0, 18)] [16]) crowded (fun s => (s.team? 16).any fun t => t.res = .swappingOut) = true := by
  decide
/-- A team whose slot loads and whose banks are being cleared; others move out and in. -/
def codeTask : Task := { newTask with ktt := [{ va := 0x10000, log2 := 12, pa := 0x500000, r := true, w := false, order := 1, l1c := false }] }
def loading0 : State := { placing with tasks := [codeTask], cores := [(1, { ks0 := some { tid := 1 } })], teams := [(16, { team with slot := 16, banksReady := false, res := .swappingOut })] }
theorem test_meets_SlotsAndSwaps : loading0.task? 1 = some codeTask ∧ (loading0.core 1).ks0 = some { tid := 1 } ∧
    (loading0.loadSections { kern with ext := [1, 1, 1, 1, 1, 1] } { tid := 1, ktt := codeTask.ktt } [0, 1, 2, 3, 4]).2.isSome = true ∧
    loading0.team? 16 = some { team with slot := 16, banksReady := false, res := .swappingOut } ∧
    Quiet loading0 16 { team with slot := 16, banksReady := false, res := .swappingOut } ∧ (loading0.core (coreOfSlot 16)).issuing ≠ some 16 :=
  ⟨rfl, rfl, by decide, rfl, quiet_of rfl rfl rfl rfl rfl ⟨rfl, rfl, rfl⟩, by decide⟩

/-- Two ready teams, the first issuing for its whole quantum. -/
def late : State := { two with time := 200000 }
theorem test_meets_Quantum : (late.core 0).issuing = some 0 ∧ late.team? 0 = some team ∧ team.issuedAt + 1000 * 200 ≤ late.time.toNat ∧
    late.nextReady 0 (0 % 16) = some 5 ∧ ({ st with time := 1000000, tasks := [newTask] } : State).classHas true 3 = true ∧
    (({ two with cores := [(0, { incoming := some 5, ks0 := some slot0 })] } : State).ready 5) = true := ⟨rfl, rfl, by decide, by decide, by decide, by decide⟩
theorem test_a_quantum_that_has_run_out : runs (.quantumExpiry 0) late (fun s => (s.core 0).issuing ≠ some 0) = true := by decide
theorem test_meets_Starvation : ({ placing with sched := { placing.sched with heldAt := [none, none, none, some 5] }, time := 1000005 } : State).classHas true 3 = true ∧
    placing.sched.heldAt.getD 3 none = none ∧ 3 ∉ placing.sched.starved ∧ max 5 (placing.sched.placedAt.getD 3 0) + 1000000 ≤ 1000005 ∧
    (device handling).team? 0 = some handling ∧ handling.inHandler = true ∧ ({ team with me := { team.me with hold := some 0 } } : Team).me.hold = some 0 :=
  ⟨by decide, rfl, by decide, by decide, rfl, rfl, rfl⟩
theorem test_a_class_held_for_1_ms_starves :
    runs (.classStarved 3) { placing with sched := { placing.sched with heldAt := [none, none, none, some 5] }, time := 1000005 } (fun s => s.sched.starved = [3]) = true ∧
    runs (.classStarved 3) { placing with sched := { placing.sched with heldAt := [none, none, none, some 5] }, time := 1000004 } (fun s => s.sched.starved = []) = true := by
  decide
/-- The team of slot 0 is asked to halt. -/
def halting0 : State := { st with teams := [(0, { team with preempt := true, kill := some 0x07000000 })] }
theorem test_meets_Halts : halting0.team? 0 = some { team with preempt := true, kill := some 0x07000000 } ∧
    halting0.landed 0 { team with preempt := true, kill := some 0x07000000 } = true ∧ ({ st with power := { st.power with t3 := true } } : State).power.t3 = true ∧
    Advances (device { alone with swptVar := some 0, sq := { alone.sq with ctl := { alone.sq.ctl with swpt := some 0 } } }) 0
      { alone with swptVar := some 0, sq := { alone.sq with ctl := { alone.sq.ctl with swpt := some 0 } } } ∧
    ({ alone with swptVar := some 0, sq := { alone.sq with ctl := { alone.sq.ctl with swpt := some 0 } } } : Team).allAt = some 0 :=
  ⟨rfl, by decide, rfl, ⟨rfl, rfl, rfl, rfl, rfl, rfl, rfl, rfl, rfl, rfl⟩, by decide⟩
theorem test_a_halted_team_is_killed : runs (.teamHalted 0) halting0 (fun s => (s.team? 0).isNone) = true := by decide
/-- The watchdog of queue 0 has run out on the task of slot 0. -/
def watched : State :=
  { st with time := 16001, queues := [(0, { tp := 1 })], tasks := [{ id := 1, typ := 1, started := true, slots := [0] }] }
theorem test_meets_Watchdog : (watched.task? 1).any (fun k => k.started && k.wdStage = 0 && k.stop = none) = true ∧ (watched.queue 0).tp ≠ 0 ∧
    0 + 16000 * (watched.queue 0).tp.toNat ≤ watched.time.toNat ∧ st.time.toNat < 0 + 16000 * (watched.queue 0).tp.toNat :=
  ⟨by decide, by decide, by decide, by decide⟩
theorem test_meets_LaterWatchdogSteps : ({ id := 1, wdStage := 1, haltAt := 0 } : Task).wdStage = 1 ∧
    0 + 1000 * max (watched.queue 0).tk.toNat 10 ≤ (1000000 : Nat) ∧ (16 : Nat) ∈ ({ id := 1, wdStage := 2, forced := [16, 148] } : Task).forced ∧
    watched.finished { id := 1, typ := 1, started := true, slots := [0] } = false := ⟨rfl, by decide, by decide, by decide⟩
theorem test_the_watchdog_asks_for_a_halt : runs (.watchdogPreempt 1) watched (of0 fun t => t.preempt && t.kill.isSome) = true := by decide

/-! Device-engine jobs, translations, and what is under way (05, 12, 15, 16, 19). -/

/-- A copy job of ASID 5 that waits for nothing, and a collective of two ranks that runs; its peer's flag word is `flag`. -/
def copyTask : Task := { id := 3, typ := 5, asid := 5, regions := [{ base := 0x2000, len := 0x1000, r := true, w := false }], desc := List.replicate 64 0 }
def collTask : Task :=
  { id := 4, typ := 6, asid := 5, started := true, ring := some 20, stage := 2, regions := [{ base := 0x2000, len := 0x1000, r := true, w := true }],
    desc := [0, 0, 0, 0, 2, 1, 0, 0, 1] ++ List.replicate 16 0 ++ [0x30] ++ List.replicate 38 0 }
def jobs (flag : Byte) (time : DWord) : State :=
  { queued {} (queueMem.take 8 ++ (if flag = 0 then [] else [(0x2FC4, flag)]) ++ queueMem.drop 8) with tasks := [copyTask, collTask], time := time }
theorem test_meets_EngineJobs : (jobs 0 0).task? 3 = some copyTask ∧ EngineJob (.copyJob ⟨3, 64⟩ 7) 3 5 7 64 copySpec ∧ JobStarts (jobs 0 0) copyTask 5 7 21 ∧
    JobRuns (jobs 0 0) { copyTask with started := true, ring := some 21, total := 1 } 5 7 21 :=
  ⟨rfl, .inr (.inr (.inr (.inl ⟨64, rfl, rfl, rfl, rfl⟩))),
   ⟨rfl, ⟨by decide, rfl⟩, rfl, rfl, startable_of ⟨rfl, rfl, rfl⟩ ⟨rfl, rfl⟩ rfl rfl rfl, by decide, by decide, by decide⟩,
   ⟨rfl, ⟨by decide, rfl⟩, ⟨rfl, rfl, rfl⟩, by decide, ⟨rfl, rfl⟩, rfl⟩⟩
theorem test_a_zero_descriptor_ends_a_copy_job : runs (.copyJob ⟨3, 64⟩ 7) (jobs 0 0) (fun s => (s.task? 3).any fun k => k.started && k.jobEnd.isSome) = true := by
  decide
def ctx : EngCtx := { stop := 21, asid := 5, regions := copyTask.regions }
theorem test_meets_JobAccesses : (∃ g ∈ ctx.regions, g.r = true ∧ g.base ≤ 0x2000 ∧ 0x2000 + 64 ≤ g.base + g.len) ∧ (0x2000 : Nat) % 4096 + 64 ≤ 4096 ∧
    (∃ e, ((jobs 0 0).translate 21 5 0x2000).2 = .ok e ∧ e.r = true ∧ e.pa + (0x2000 - e.va) = 0x2000) ∧
    (∀ g ∈ ctx.regions, g.w = true → ¬(g.base ≤ 0x2000 ∧ 0x2000 + [(0 : Byte)].length ≤ g.base + g.len)) ∧
    (∀ g ∈ ctx.regions, g.r = true → ¬(g.base ≤ 0x2FFF ∧ 0x2FFF + 2 ≤ g.base + g.len)) :=
  ⟨⟨_, List.mem_cons_self, rfl, by decide, by decide⟩, by decide, ⟨_, rfl, rfl, rfl⟩, by decide, by decide⟩
theorem test_meets_Collectives : (jobs 0 1000000).collWaits 4 = some (collTask, collTask.ctx 20, collOf collTask.desc, 1) ∧
    (((jobs 0 1000000).runJobM (collMissing (collTask.ctx 20) (collOf collTask.desc) 1)).1.toOption = some [1]) ∧
    (((jobs 1 0).runJobM (collMissing (collTask.ctx 20) (collOf collTask.desc) 1)).1.toOption = some []) ∧
    collTask.startTime + 1000000 * (collOf collTask.desc).tmo ≤ (jobs 0 1000000).time.toNat ∧
    (jobs 0 999999).time.toNat < collTask.startTime + 1000000 * (collOf collTask.desc).tmo :=
  ⟨rfl, by decide, by decide, by decide, by decide⟩
theorem test_a_collective_times_out : runs (.collectiveTimeout 4) (jobs 0 1000000) (fun s => (s.task? 4).any fun k => k.jobEnd = some (.err 6 1)) = true := by
  decide +kernel
theorem test_meets_Translations : (∀ e ∈ (jobs 0 0).tlb 3, e.hits 5 0x2000 = false) ∧ (jobs 0 0).tlbProbe 3 5 0x2000 = none ∧
    ((jobs 0 0).walkCached 2 5 0x2000).2.isOk = true ∧ ((jobs 0 0).walkCached 2 5 0x40000000).2.isOk = false ∧
    (({ jobs 0 0 with tlbs := [(9, [{ asid := 5, global := false, va := 0, size := 4096, pa := 0, r := true, w := true, order := 1, l1c := false, snapok := false }])] }
      : State).tlbProbe 3 5 0xFFF).isSome = true := ⟨by decide, by decide, by decide, by decide, by decide⟩
/-- An invalidation of the page at 0x2000 of ASID 5 is under way. -/
def invalidating : State := { jobs 0 0 with host := { st.host with inv := some { asid := 5, all := false, lo := 0x2000, hi := 0x3000, irq := true } } }
theorem test_meets_Invalidation : HostReaches (jobs 0 0) ∧ (0x10050001 : DWord).toNat % 2 = 1 ∧ (jobs 0 0).host.inv = none ∧
    (0x10050001 : DWord).toNat / 2 ^ 28 % 2 ^ 36 ≠ 0 ∧ invalidating.host.inv.isSome = true := ⟨⟨rfl, rfl, rfl⟩, by decide, rfl, by decide, rfl⟩
theorem test_an_acknowledgement_counts : runs .invalidateAck invalidating (fun s => s.host.invdone = 1 && s.host.msix = [2047]) = true := by decide

/-- The copy job of ASID 5 waits for a walk; a load of that ASID has read a byte of the page under invalidation. -/
theorem test_meets_WalksAndReads : (∀ k ∈ ({ jobs 0 0 with tasks := [] } : State).tasks, k.ring = some 21 → False) ∧
    (∃ g ∈ copyTask.regions, g.base ≤ 0x2000 ∧ 0x2000 + 1 ≤ g.base + g.len) ∧ invalidating.readsLanded { asid := 5, all := false, lo := 0x2000, hi := 0x3000, irq := true } = true ∧
    ({ invalidating with teams := [(0, { team with sq := { team.sq with landing := [{ d := 10, pc := 0, named := none, parts := [{ bytes := [1], va := 0x2000 }], size := 1 }] } })] }
      : State).readsLanded { asid := 5, all := false, lo := 0x2000, hi := 0x3000, irq := true } = false :=
  ⟨by decide, ⟨_, List.mem_cons_self, by decide, by decide⟩, by decide, by decide⟩
/-- A store and an atomic of the team of slot 0 are under way. -/
def pw : PWrite := { slot := some 0, tid := 1, eng := 0, pc := 0, seq := 0, asid := 5, va := 0x2000, pa := 0x200000, bytes := [7, 8], num := 1 }
def pa0 : PAtom := { slot := 0, tid := 1, pc := 0, seq := 0, asid := 5, va := 0x2080, pa := 0x200080, op := 1, size := 4, a := 0, b := 5, d := some 10, tagged := false }
def underWay : State := { st with mem := [(0x200080, 0xFF)], fabric := [pw], atomq := [pa0, { pa0 with op := 16, a := 0xFE }] }
theorem test_meets_WritesAndAtomics : FirstOnLine underWay 0 pw ∧ pw.tagged = false ∧ underWay.team? 0 = some team ∧ underWay.atomq[0]? = some pa0 ∧
    pa0.pa + pa0.size ≤ 0x6000000000 ∧ InNoL1 underWay (pa0.pa / 128) ∧ markedRange 64 underWay.marks pa0.pa pa0.size = false ∧
    (∀ j x, j < 0 → underWay.atomq[j]? = some x → x.pa / 128 ≠ pa0.pa / 128) ∧ atomicWrites 1 4 0xFF 0 5 = some 0x104 ∧
    FirstOnLine { withSnap with fabric := [{ pw with tagged := true }] } 0 { pw with tagged := true } ∧ withSnap.regionOfLine 5 (0x2000 / 128 * 128) = some 0 :=
  ⟨⟨rfl, by decide, rfl, fun j x h => absurd h (Nat.not_lt_zero j)⟩, rfl, rfl, rfl, by decide,
   fun p h => by have : p = (0, { issuing := some 0, ks0 := some slot0 }) := by simpa [underWay, st, device] using h
                 subst this; rfl, rfl,
   fun j x h => absurd h (Nat.not_lt_zero j), by decide, ⟨rfl, by decide, rfl, fun j x h => absurd h (Nat.not_lt_zero j)⟩, by decide⟩
theorem test_meets_PartsOfAWrite : ({ pw with unit := 1 } : PWrite).tagged = false ∧ 0 < ({ pw with unit := 1 } : PWrite).unit ∧ 1 ∣ 0 ∧ 0 + 1 ≤ pw.bytes.length ∧
    pw.pa % 128 + pw.bytes.length ≤ 128 := by decide
theorem test_a_byte_of_a_write_is_performed_before_the_rest :
    runs (.taggedWrite ⟨0, 0, 1⟩) { underWay with fabric := [{ pw with unit := 1 }] } (fun s => readBytes s.mem 0x200000 2 = [7, 0] &&
      s.fabric.map (fun w => (w.pa, w.bytes)) = [(0x200001, [8])]) = true := by decide
theorem test_a_write_is_performed : runs (.taggedWrite ⟨0, 0, 0⟩) underWay (fun s => readBytes s.mem 0x200000 2 = [7, 8] && s.fabric = []) = true := by decide
theorem test_an_atomic_is_applied : runs (.atomicApply 0) underWay (fun s => readBytes s.mem 0x200080 4 = [4, 1, 0, 0] && of0 (fun t => t.s 10 = 0xFF) s) = true := by
  decide
/-- A load, a timed load and a reply have reached the team of slot 0. -/
def landing : Team :=
  { team with
    cycle := 9
    sq := { team.sq with
      landing := [{ d := 10, pc := 0, named := none, parts := [{ bytes := [0x80] }], size := 1, sgn := true },
                  { d := 11, pc := 0, named := some 9, parts := [{ bytes := [1, 2] }], size := 2, arrived := true },
                  { d := 12, pc := 0, named := some 10, parts := [{ bytes := [1, 2] }], size := 2 }]
      replies := [{ d := 13, val := 4 }] }
    blocks := [(3, { lines := [(0x6000, 0x3000)] })] }
theorem advances_device {t : Team} (h : t.inHandler = false ∧ t.pend = none ∧ t.halting = none ∧ t.leaving = false ∧ t.preempt = false ∧ t.kill = none) :
    Advances (device t) 0 t := ⟨rfl, rfl, rfl, rfl, h⟩
theorem test_meets_LoadsLand : Advances (device landing) 0 landing ∧ (∃ l, landing.sq.landing[0]? = some l ∧ (∀ p ∈ l.parts, p.req = none) ∧
      (l.parts.flatMap (·.bytes)).length = l.size ∧ l.named = none) ∧
    (∃ l, landing.sq.landing[1]? = some l ∧ l.arrived = true ∧ l.named = some 9 ∧ 9 ≤ landing.cycle) ∧
    (∃ l, landing.sq.landing[2]? = some l ∧ l.arrived = false ∧ l.named = some 10 ∧ landing.cycle < 10) ∧ landing.sq.replies ≠ [] ∧
    (∃ b, SMap.get? landing.blocks 3 = some b ∧ b.flag = false ∧ b.evicted = false ∧
      ∀ l ∈ b.lines, ∃ e ∈ ((device landing).kslot 0 landing).ktt, e.covers l.2 = true ∧ e.rev = false) :=
  ⟨advances_device ⟨rfl, rfl, rfl, rfl, rfl, rfl⟩, ⟨_, rfl, by decide, rfl, rfl⟩, ⟨_, rfl, rfl, rfl, by decide⟩, ⟨_, rfl, rfl, rfl, by decide⟩, by decide,
   ⟨_, rfl, rfl, rfl, by decide⟩⟩
theorem test_meets_LateLoads : (∃ l, landing.sq.landing[2]? = some l ∧ l.named = some 10 ∧ l.arrived = false) ∧ (10 : Nat) ≤ ({ landing with cycle := 10 } : Team).cycle ∧
    (device landing).cycleStart (domainOf 0) = true ∧ (device landing).lineWaits 0 = false := ⟨⟨_, rfl, rfl, rfl⟩, by decide, by decide, by decide⟩
theorem test_an_arriving_byte_is_sign_extended : runs (.loadDataArrival 0 0) (device landing) (of0 fun t => t.s 10 = 0xFFFFFFFFFFFFFF80) = true := by decide
theorem test_a_timed_load_lands_in_its_cycle : runs (.timedLanding 0 1) (device landing) (of0 fun t => t.s 11 = 0x201) = true := by decide

/-! Nests and transfer jobs (11, 13). -/

/-- A nest of the three-bank team: validated, with these steps still to do; the cycles of the first have passed. -/
def nest (todo : List MeStep) : Nest := { desc := meTeam.me.shadow, co := 0, chain := false, pc := 0, seq := 1, named := none, issued := 0, valid := true, todo := todo }
def atWork (l : List MeItem) : Team := { meTeam with me := { meTeam.me with queue := l, begun := true } }
def withNest (x : Nest) : Team := atWork [.nest x]
/-- The nest waits for its validation, which has run 8 cycles; and the B tile has been read for 2,048. -/
def validating : Team := { meTeam with me := { meTeam.me with queue := [.nest { nest [] with valid := false, vcyc := 8 }] } }
def loadingB : Team := { meTeam with me := { meTeam.me with load := some { seq := 1, addr := 0, size := 1, cyc := 2048 } }, sp := [(513, 0xFF)] }
theorem advances_nest (x : Nest) : Advances (device (withNest x)) 0 (withNest x) := advances_device ⟨rfl, rfl, rfl, rfl, rfl, rfl⟩
theorem worksOn_nest (x : Nest) (st : MeStep) (h : x.todo.head? = some st) (hv : (withNest x).me.work = some (.nest x)) : WorksOn (withNest x) x st :=
  ⟨⟨rfl, rfl, Nat.le_refl 0, hv⟩, h⟩
theorem test_meets_Nests : Advances (device (withNest (nest []))) 0 (withNest (nest [])) ∧ (withNest (nest [])).me.hold = none ∧
    validating.me.begun = false ∧ validating.me.queue = [] ++ .nest { nest [] with valid := false, vcyc := 8 } :: [] ∧
    loadingB.me.begun = false ∧ loadingB.me.queue = [] ∧ StepEnds (withNest (nest [])) (.nest (nest [])) ∧ (nest []).co = 0 ∧ (nest []).named = none ∧
    StepEnds (atWork [.clear 1 0]) (.clear 1 0) ∧ StepEnds (atWork [.drop 0]) (.drop 0) ∧
    ({ nest [] with done := true, named := some 0, co := 1 } : Nest).co = 0 + 1 ∧ meTeam.chanDecl 0 ≠ none ∧ (meTeam.chan 0).p ∉ (meTeam.chan 0).shown :=
  ⟨advances_nest _, rfl, rfl, rfl, rfl, rfl, ⟨rfl, rfl, by decide, rfl⟩, rfl, rfl, ⟨rfl, rfl, by decide, rfl⟩, ⟨rfl, rfl, by decide, rfl⟩, rfl, by decide, by decide⟩
theorem test_validation_opens_a_nest : runs (.nestValidated 0) (device validating) (of0 fun t => t.me.queue = [.nest { nest [] with vcyc := 8, todo := (nest []).plan }]) = true := by
  decide
theorem test_a_nest_completes_with_its_status : runs (.nestComplete 0) (device (withNest (nest []))) (of0 fun t => t.me.queue = [] && t.spByte 0x30000 = 1) = true := by
  decide
theorem test_meets_IntegerPass : Advances (device (withNest (nest [.pass]))) 0 (withNest (nest [.pass])) ∧ WorksOn (withNest (nest [.pass])) (nest [.pass]) .pass ∧
    (nest [.pass]).akind = false ∧ (nest [.pass]).scen = false ∧ (nest [.pass]).chain = false ∧ (withNest (nest [.pass])).me.el = {} :=
  ⟨advances_nest _, worksOn_nest _ _ rfl rfl, by decide, by decide, rfl, rfl⟩
theorem test_meets_BoundariesAndDrains : WorksOn (withNest (nest [.boundary])) (nest [.boundary]) .boundary ∧
    WorksOn (withNest (nest [.drain 0x40000])) (nest [.drain 0x40000]) (.drain 0x40000) ∧ (nest []).scen = false ∧ (nest []).chout = false ∧ (nest []).row = 0 ∧
    meTeam.layout 0x40000 ≠ 1 ∧ 8 ≤ fmtBits (meTeam.fmt 0x40000) ∧ meTeam.me.accMark (nest []).accb = false :=
  ⟨worksOn_nest _ _ rfl rfl, worksOn_nest _ _ rfl rfl, by decide, by decide, rfl, by decide, by decide, by decide⟩
theorem test_meets_DrainedElementsConvert :
    (((withNest (nest [])).drainTo (nest []) 0x40000).conv (nest []).pol ((nest []).drainValue (Fl.ofInt 0))) ≠ .trap := by
  decide
/-- The transfer of 64 bytes is the one job of TU0. -/
def xj : TuJob := { kind := .xgo, desc := xfer, co := 0, named := none, pc := 0, seq := 1, ent := 0, begun := true }
def moving : Team := { team with tu0 := { team.tu0 with jobs := [xj] } }
/-- The fields of the transfer that the hypotheses name. -/
theorem test_meets_TransferFields : Xfer.skind xj.d = 0 ∧ Xfer.dkind xj.d = 1 ∧ Xfer.conv xj.d = false ∧ Xfer.refmt xj.d = false ∧ Xfer.view xj.d = false ∧
    Xfer.delta xj.d = false ∧ Xfer.src xj.d = 0x1000 ∧ Xfer.dst xj.d = 0x200 ∧
    (∀ i < 4, Xfer.scnt xj.d i = if i = 0 then 64 else 1) ∧ ∀ i < 4, Xfer.dcnt xj.d i = if i = 0 then 64 else 1 := by decide
theorem test_meets_Transfers : (3 : Nat) ∈ [3, 4, 5] ∧ Advances (device moving) 0 moving ∧ (moving.tu (streamOf 3)).jobs = [xj] ∧ xj.begun = true ∧
    moving.ports = [] ∧ (∀ i < 64, (kttLookup ((device moving).kslot 0 moving) (0x1000 + i) .r).toOption = some pageUO) :=
  ⟨by decide, advances_device ⟨rfl, rfl, rfl, rfl, rfl, rfl⟩, rfl, rfl, rfl, by decide⟩
theorem test_a_transfer_lands : runs (.tuJobComplete 0 ⟨3, 64⟩) { device moving with mem := [(0x10003F, 0x2A)] } (of0 fun t => t.spByte 0x23F = 0x2A && t.tu0.jobs = []) = true := by
  decide
/-- A push of the gather team to channel 0 of the compute team of its gang. -/
def pushing : Team := { gatherTeam with k := pushKern, gang := [1024, 0], gq := { gatherTeam.gq with jobs := [{ xj with kind := .xpushr, desc := BitVec.ofNat 512 (1 * 2 ^ 128) }] } }
def gang : State := { gatherState with teams := [(0, { team with k := pushKern, gang := [1024, 0] }), (1024, pushing)] }
theorem test_meets_PushClaims : Advances gang 1024 pushing ∧ (∃ j, (pushing.tu (streamOf 5)).jobs = [j] ∧ j.done = false ∧ j.kind = .xpushr ∧ j.claim = [] ∧
    (gang.pushTarget 1024 pushing (bitsOf (Xfer.aux j.d) 0 4) (bitsOf (Xfer.aux j.d) 4 4)).isSome = true) :=
  ⟨⟨rfl, rfl, rfl, rfl, rfl, rfl, rfl, rfl, rfl, rfl⟩, _, rfl, rfl, rfl, rfl, by decide⟩
theorem test_a_push_claims_slot_p : runs (.pushClaim 1024 5) gang (fun s => (s.team? 0).any fun t => (t.chan 0).p = 1) = true := by decide
/-- A beat of a window job of slot 0 is on its way to slot 0. -/
def beat : WinBeat := { src := 0, eng := 3, seq := 1, targets := [0], la := 0x300, bytes := [9], mark := false, lastBeat := true }
def landingWindow : State :=
  { device { team with tu0 := { team.tu0 with jobs := [{ xj with desc := BitVec.ofNat 512 (0x300 * 2 ^ 64 + 0x800 * 2 ^ 336) }] } } with
    clks := [(0, { windows := [beat], cyc := 1 })] }
theorem test_meets_WindowLanding : (landingWindow.clk 0).windows = beat :: [] ∧ beat.due < (landingWindow.clk 0).cyc ∧ beat.src = 0 ∧ beat.eng = 3 ∧
    (landingWindow.team? 0).any (fun t => ((t.tu (streamOf 3)).jobs.find? (fun j => j.seq = beat.seq && j.isWindow && !j.done)).any fun j => j.co < 0x20) = true :=
  ⟨rfl, by decide, rfl, rfl, by decide⟩
theorem test_a_window_beat_lands : runs (.windowLanding 0) landingWindow (of0 fun t => t.spByte 0x300 = 9) = true := by decide

/-! Faults and errors, clocks and trips, ports, the management path, the start, and the step (06, 17, 18, 19). -/

/-- The team has reached a fault at word 5 of its ME; and one has been recorded. -/
def pf : PendFault := { cause := .nestbad, eng := 2, pc := 5, async := true }
def faulting : Team := { team with pend := some pf, sq := { team.sq with ctl := { team.sq.ctl with pc := 3, loops := [{ start := 1, stop := 4, count := 2 }] } } }
def recorded : Team := { faulting with pend := none, halting := some pf }
theorem test_meets_Faults2 : (device faulting).team? 0 = some faulting ∧ ((device faulting).core (coreOfSlot 0)).issuing = some 0 ∧ faulting.pend = some pf ∧
    faulting.inHandler = false ∧ faulting.sq.landing = [] ∧ faulting.k.hnd = true ∧ pf.cause ≠ .watchdog ∧ recorded.halting = some pf ∧
    ({ recorded with k := { kern with hnd := false } } : Team).k.hnd = false ∧
    ({ faulting with kill := some 0 } : Team).kill ≠ none ∧ faulting.stands = false ∧ ({ recorded with leaving := true } : Team).leaving = true ∧
    (({ st with clks := [(0, { gated := true })] } : State).clk 0).gated = true ∧ (({ st with clks := [(0, { refusing := true })] } : State).clk 0).refusing = true ∧ (∀ m, coreOfSlot m / 4 = 3 → State.reset.team? m = none) ∧
    ∀ i < 4, (State.reset.core (4 * 3 + i)).ks0 = none ∧ (State.reset.core (4 * 3 + i)).ks1 = none :=
  ⟨rfl, rfl, rfl, rfl, rfl, rfl, by decide, rfl, rfl, by decide, rfl, rfl, rfl, rfl, fun _ _ => rfl, by decide⟩
theorem test_an_asynchronous_fault_enters_the_handler : runs (.asyncFault 0) (device faulting) (of0 fun t => t.inHandler && t.epc = 3 && t.sq.ctl.pc = 8 &&
    t.sq.setAside.length = 1 && t.sq.ctl.loops = []) = true := by decide
theorem test_a_fault_without_a_handler_kills : runs (.handlerEntry 0) (device { recorded with k := { kern with hnd := false } }) (fun s => (s.team? 0).isNone) = true := by
  decide
theorem test_meets_Errors : st.start.powered = true ∧ st.team? 0 = some team ∧ (0x5FFFFFFFFF : Nat) < 0x6000000000 ∧ (0x1FFFF : Nat) < team.bankCount * 0x20000 ∧
    SMap.get 0 st.corrected 7 + 1 ≠ 2 ^ 4 ∧ SMap.get 0 ({ st with corrected := [(7, 15)] } : State).corrected 7 + 1 = 2 ^ 4 := ⟨rfl, rfl, by decide, by decide, by decide, by decide⟩
theorem test_the_sixteenth_corrected_error_is_logged :
    runs (.correctedError 7) { st with corrected := [(7, 15)] } (fun s => s.log.map (fun r => (r.typ, r.payload)) = [(0x31, [7, 16])]) = true := by decide
theorem test_an_uncorrectable_error_marks_its_granule : runs (.uncorrectableError 0 0 0x7F) st (fun s => s.marks = [1]) = true := by decide

/-- Cluster 0 runs above its command, spends its last permit, and holds two steps. -/
def boosted : State :=
  { st with clks := [(0, { cmd := 52, step := 54, above := true, permits := 1, grant := 2 })], power := { st.power with bstbud := 2, newest := [0], overT := 90 } }
theorem test_meets_Clocks : (boosted.clk 0).step ≠ min (boosted.clk 0).cmd (boosted.clk 0).cap ∧ (boosted.clk 1).step = min (boosted.clk 1).cmd (boosted.clk 1).cap ∧ 90 ≤ boosted.power.overT ∧
    ((List.range 16).map fun d => (boosted.clk d).grant).sum ≤ min boosted.power.bstbud.toNat 224 ∧ (∀ d < 16, (boosted.clk d).grant ≠ 0 → d ∈ boosted.power.newest) ∧
    boosted.power.bstq = [] ∧ (boosted.clk 0).stepDown = false ∧ (boosted.clk 0).above = true ∧ (boosted.clk 0).permits ≤ 1 ∧ (boosted.clk 1).above = false ∧ boosted.power.sensorAt ≠ boosted.power.permitAt ∧
    boosted.detIssues 0 = false ∧ ({ boosted with queues := [(0, { det := true })] } : State).detIssues 0 = true :=
  ⟨by decide, by decide, by decide, by decide, by decide, rfl, rfl, rfl, by decide, rfl, by decide, by decide, by decide⟩
theorem test_the_last_permit_disarms : runs .permitIntervalEnd boosted (fun s => (s.clk 0).armed = false && (s.clk 0).grant = 0) = true := by decide
theorem test_the_budget_rises_after_100_us : runs (.powerEstimateTick 1101) boosted (fun s => s.power.budget = 1) = true ∧
    runs (.powerEstimateTick 1100) boosted (fun s => s.power.budget = 0 && s.power.overT = 0) = true := by decide
/-- One sensor stood at 102 in the last sample. -/
def hot : State := { st with power := { st.power with prev := [(0, 102)] } }
/-- Readings of every sensor, the first `a`, the others `b`. -/
def readings (a b : Int) : List (Nat × Int) := (0, a) :: (List.range' 1 12).map fun i => (i, b)
theorem test_meets_Trips : hot.start.powered = true ∧ hot.power.t2 = false ∧ (∀ i < 13, ∃ r ∈ readings 102 20, r.1 = i) ∧
    (∃ r ∈ readings 102 20, 102 ≤ r.2 ∧ 102 ≤ SMap.get 0 hot.power.prev r.1) ∧ (∃ i < 13, ∀ r ∈ [((0 : Nat), (102 : Int))], r.1 ≠ i) ∧
    ({ hot.power with t1 := true, cool1 := 9950 } : Power).t1 = true ∧ (∀ r ∈ readings 92 92, r.2 ≤ 95 - 3) :=
  ⟨rfl, rfl, by decide, ⟨_, List.mem_cons_self, by decide, by decide⟩, ⟨1, by decide, by decide⟩, rfl, by decide⟩
theorem test_two_samples_assert_a_trip : runs (.sensorSample (readings 102 20)) hot (fun s => s.power.t2 && s.power.t1 && !s.power.t3) = true ∧
    runs (.sensorSample (readings 101 20)) hot (fun s => !s.power.t2) = true := by decide

/-- The window of BAR2 starts at 1 GiB. -/
def windowed : State := { st with mem := [(0x40000008, 5)], host := { st.host with winbase := 0x40000000, bar2 := 0x40000000, pbar2 := 0x40000000 } }
theorem test_meets_HostAccesses : HostReaches windowed ∧ 8 + 4 ≤ windowed.host.bar2 ∧ barAddress windowed.host.winbase windowed.host.bar2 8 + 4 ≤ 0x6000000000 ∧
    barAddress windowed.host.winbase windowed.host.bar2 8 % 4 = 0 ∧ markedRange 64 windowed.marks 0x40000008 4 = false ∧
    markedRange 64 ({ windowed with marks := [0x1000000] } : State).marks 0x40000008 4 = true ∧ InNoL1 windowed (0x40000008 / 128) ∧
    (∀ i < 16, apertureAllows (SMap.get 0 windowed.host.aper i) 7 0 4 false = false) :=
  ⟨⟨rfl, rfl, rfl⟩, by decide, by decide, by decide, by decide, by decide,
   fun p h => by have : p = (0, { issuing := some 0, ks0 := some slot0 }) := by simpa [windowed, st, device] using h
                 subst this; rfl, by decide⟩
theorem test_a_fetch_add_of_the_host : runs (.hostAtomicop ⟨8, true⟩ 4 0 3 0) windowed (fun s => readByte s.mem 0x40000008 = 8) = true ∧
    runs (.hostAtomicop ⟨8, false⟩ 4 0 3 0) windowed (fun s => readByte s.mem 0x40000008 = 5) = true := by decide
theorem test_an_unadmitted_peer_is_turned_away : runs (.peerRequest 7 ⟨8, true⟩ 0 4 [] 0 0) windowed (fun s => s.host.out = [.unsupported]) = true := by decide
theorem test_a_poisoned_write_marks_its_granules : runs (.hostBar2Write ⟨8, true⟩ [1] true) windowed (fun s => s.marks = [0x1000000] && readByte s.mem 0x40000008 = 5) = true := by
  decide
/-- The team of slot 0 waits for a read on port P. -/
def outTeam : Team := { team with sq := { team.sq with landing := [{ d := 10, pc := 0, named := none, parts := [{ bytes := [], req := some 4 }], size := 2 }] } }
def outbound : State := { device outTeam with time := 1000000, host := { st.host with outReqs := [{ id := 4, port := 1, slot := 0, addr := 0x10, len := 2, d := none }] } }
theorem test_meets_Outbound : (∃ q, outbound.host.outReqs[0]? = some q ∧ outbound.team? q.slot = some outTeam ∧ outbound.linkUp q.port = true ∧ q.acq = false ∧ q.op = 99 ∧
    [(1 : Byte), 2].length = q.len ∧ q.sent + outbound.host.ctoP ≤ outbound.time.toNat ∧ st.time.toNat < q.sent + outbound.host.ctoP) ∧ (1 : Nat) ≤ 1 :=
  ⟨⟨_, rfl, rfl, rfl, rfl, rfl, rfl, by decide, by decide⟩, by decide⟩
theorem test_a_timed_out_read_is_all_ones : runs (.completionTimeout 0) outbound (of0 fun t => t.sq.landing.map (fun l => l.parts.map fun p => (p.bytes, p.mark)) =
    [[([0xFF, 0xFF], true)]]) = true := by decide

/-- The next request comes over the SMBus; a session is open on it, and keys are exchanged over VDM; two records stand in the log, the newer torn. -/
def managed : State :=
  { st with mgmt := { arrivals := [0x64], smb := { version := true, caps := true, algs := true, session := true }, vdm := { version := true, caps := true, algs := true, keyed := true } },
            logSeq := 2, log := [{ seq := 1, time := 0, boot := 0, typ := 1, sev := 0, payload := [], tear := 1 }, { seq := 0, time := 0, boot := 0, typ := 2, sev := 0, payload := [] }],
            logHeld := [(0x31, 7, 0, 3)] }
theorem test_meets_Management : Managed managed (transport managed) ∧ Managed (arrived managed) (transport (arrived managed)) ∧ transport managed = 0x64 ∧ transport (arrived managed) = 128 ∧ managed.mgmt.smb.session = true ∧ managed.mgmt.vdm.keyed = true ∧ managed.mgmt.margin = none ∧
    managed.start.step = 6 ∧ managed.linkUp 1 = true ∧ 15 < managed.host.widthP ∧
    (0x31, 7, 0, 3) ∈ managed.logHeld ∧ managed.logHeld.find? (fun e => e.1 = 0x31 && e.2.1 = 7 && e.2.2.2 = 3) = some (0x31, 7, 0, 3) ∧
    ({ managed with mgmt := { managed.mgmt with margin := some (0, 3) } } : State).mgmt.margin = some (0, 3) :=
  ⟨⟨rfl, by decide, .inl rfl⟩, ⟨rfl, by decide, .inr ⟨rfl, rfl, rfl⟩⟩, rfl, rfl, rfl, rfl, rfl, rfl, rfl, by decide, by decide, rfl, rfl⟩
theorem test_a_log_read_skips_torn_records : runs (.logRead 0 16) managed (fun s => s.host.out.map (fun m => match m with
    | .log via recs newest => (via, recs.map fun r => (r.length, fieldAt r 0 8), newest)
    | _ => (0, [], 0)) = [(0x64, [(64, 0)], 1)]) = true := by decide
/-- The check value that every description of this CRC gives. -/
theorem test_the_crc_of_the_digits : crc32 [0x31, 0x32, 0x33, 0x34, 0x35, 0x36, 0x37, 0x38, 0x39] = 0xCBF43926 := by decide
theorem test_challenge_needs_algorithms : runs (.challenge 5) st (fun s => s.host.out = [.spdm 128 0x7F []]) = true := by decide

/-- A start that has reached a step. -/
def starting (n : Nat) : State := { State.reset with start := { State.reset.start with step := n } }
theorem test_meets_Start : (starting 1).start.powered = true ∧ (starting 6).start.step = 6 ∧ (starting 6).start.ready = false ∧ (starting 6).start.fail = false ∧
    (∀ i < 13, ∃ r ∈ readings 5 5, r.1 = i) ∧ ¬(∃ r ∈ readings 5 5, (r.1 < 8 ∧ r.2 < 5) ∨ (8 ≤ r.1 ∧ r.1 < 12 ∧ r.2 < -10)) ∧
    (∃ r ∈ readings 4 5, (r.1 < 8 ∧ r.2 < 5) ∨ (8 ≤ r.1 ∧ r.1 < 12 ∧ r.2 < -10)) ∧ off.start.powered = false ∧ off.start.t4 = false := by decide
theorem test_meets_Retraining : 5 ≤ (starting 5).start.step ∧ (starting 5).retraining 3 = false ∧ (starting 5).retrainDue 3 63 = true ∧
    ({ starting 5 with hbm := [(3, { busy := some (63, 1200) })] } : State).retraining 3 = true := by decide
theorem test_a_cold_stack_needs_self_heat : runs (.sensorsRead ⟨1, readings 4 5⟩) (starting 2) (fun s => s.start.heat && s.start.step = 3 && !s.start.warm) = true ∧
    runs (.sensorsRead ⟨1, readings 5 5⟩) (starting 2) (fun s => !s.start.heat) = true := by decide
theorem test_an_older_svn_fails_the_start : runs (.firmwareVerified 0 ⟨0, 0⟩ { State.reset.start.cfg with svn := 2 })
    { starting 1 with start := { (starting 1).start with svn := 3 } } (fun s => s.start.fail && s.start.step = 1) = true := by
  simp only [runs, exec, execFirmwareVerified, State.event, starting]
  simp only [show decide ((3 : BitVec 32) ≤ 2) = false from rfl, Bool.and_false]
  rfl

/-- Word 0 of the SQ's section is `add s10, s6, s7`, and word 1 of the ME's has no encoding. -/
def coded (e : Engine) (pc : Nat) : State :=
  let t := team.setCtl e { team.ctl e with pc := pc }
  { device t with
    cores := [(0, { issuing := some 0, ks0 := some { slot0 with sects := (List.replicate 6 { size := 64 }).set 0 { size := 64, words := [(0, 0x04A18700), (1, 1)] }, bad := [(2, 7)] } })]
    sel := { core := 0, eng := e } }
theorem test_meets_AStepRuns : (coded .sq 0).agenda = [] ∧ (coded .sq 0).cur? = some (0, team) ∧ ((coded .sq 0).core 0).at_ ≤ ((coded .sq 0).clk (domainOf 0)).at_ ∧
    (coded .sq 0).cycleStart (domainOf 0) = false ∧ ((coded .sq 0).clk (domainOf 0)).frozen = false ∧ (coded .sq 0).sel.due = false ∧
    (coded .sq 0).dueWork 0 team = none ∧ team.canIssue .sq = true ∧ team.faulted .sq = false ∧ (team.ctl .sq).loopMark = false ∧
    (coded .sq 0).interlocked 0 team .sq (.add 10 6 7) = false :=
  ⟨rfl, rfl, by decide, by decide, rfl, rfl, rfl, by decide, by decide, rfl, by decide⟩
theorem test_a_step_runs_the_word_at_pc : stepRuns (coded .sq 0) (fun s => s.sel.eng = .me && of0 (fun t => t.s 10 = 67 && t.sq.ctl.pc = 1 && t.cycle = 1) s) = true := by
  decide
theorem test_a_step_at_an_undefined_word : stepRuns (coded .sq 1) (trapped .illop) = true ∧ stepRuns (coded .sq 64) (trapped .illop) = true := by decide
theorem test_a_step_at_a_poisoned_word : stepRuns (coded .me 7) (fun s => faults .poison s && s.sel.due) = true := by decide
theorem test_meets_Agenda : ({ st with agenda := [.correctedError 0] } : State).agenda = .correctedError 0 :: [] ∧ (Instr.correctedError 0).streams = [] ∧
    (Instr.add 1 2 3).streams ≠ [] := ⟨rfl, rfl, by decide⟩
/-- The team's second load is late in cycle 10: it has not arrived. -/
def lateTeam : Team := { landing with cycle := 10 }
theorem test_meets_Cycles : ({ st with sel := { core := 0, eng := .gq } } : State).cur? = some (0, team) ∧ team.nextEngine .sq = none ∧ team.nextEngine .me = some .ve ∧
    team.pend = none ∧ handling.nextEngine .me = some .sq ∧ (device lateTeam).domainLate (domainOf 0) = true ∧ (device lateTeam).schedule = [] ∧
    (device lateTeam).leastDomain ((device lateTeam).issuingCores.map domainOf).eraseDups = some 0 ∧ (device lateTeam).turnCores 0 = [0] :=
  ⟨rfl, by decide, by decide, rfl, by decide, by decide, rfl, by decide, by decide⟩
theorem test_a_frozen_cycle_counts_in_freeze :
    ({ device lateTeam with clks := [(0, { frozen := true })] } : State).freezeTick 0 |>.clk 0 |>.freeze |> (· = 1) := by decide
theorem test_meets_RoundTrips : (Instr.vadd 1 2 3).wellFormed = true ∧ Engine.ve ∈ (Instr.vadd 1 2 3).streams := by decide
theorem test_meets_Canonical : Memory.wf ringMem = true ∧ Memory.wf State.reset.mem = true ∧ stepRuns { underWay with agenda := [.taggedWrite ⟨0, 0, 0⟩] } (fun s => Memory.wf s.mem) = true := by
  decide

end Sys2Proof.Tests
end

section
/-!
The state after reset (00 R8): every table of the device lists nothing, so that each of its entries reads its own reset
value, and every unit outside the tables is at its own.
-/
namespace Sys2Proof.Machine

/-! What each accessor of the state reads after reset. -/

@[simp] theorem State.reset_queue (q : Nat) : State.reset.queue q = {} := SMap.get_nil _ q
@[simp] theorem State.reset_future (i : Nat) : State.reset.future i = {} := SMap.get_nil _ i
@[simp] theorem State.reset_ticket (n : Nat) : State.reset.ticket n = {} := SMap.get_nil _ n
@[simp] theorem State.reset_asid (a : Nat) : State.reset.asid a = {} := SMap.get_nil _ a
@[simp] theorem State.reset_snap (a r : Nat) : State.reset.snap a r = {} := SMap.get_nil _ (256 * a + r)
@[simp] theorem State.reset_codec (c : Nat) : State.reset.codec c = {} := SMap.get_nil _ c
@[simp] theorem State.reset_clk (d : Nat) : State.reset.clk d = {} := SMap.get_nil _ d
@[simp] theorem State.reset_tasks : State.reset.tasks = [] := rfl
@[simp] theorem State.reset_power : State.reset.power = {} := rfl
@[simp] theorem State.reset_host : State.reset.host = {} := rfl
@[simp] theorem State.reset_start : State.reset.start = {} := rfl

/-- Settles O58: every accessor reads the reset value of its unit, whose fields hold what the field maps give. -/
theorem resetHoldsTheValuesOfTheFieldMaps : Obligations.ResetHoldsTheValuesOfTheFieldMaps := by
  unfold Obligations.ResetHoldsTheValuesOfTheFieldMaps
  intro s
  refine ⟨fun q => ?queues, fun i => ?futures, fun k => ?tickets, State.reset_tasks, fun a => ?asids, fun c => ?codecs, ?units⟩
  case queues => rw [State.reset_queue]; decide
  case futures => rw [State.reset_future]; decide
  case tickets => rw [State.reset_ticket]; decide
  case asids => simp only [s, State.reset_asid, State.reset_snap, implies_true, and_self]
  case codecs => rw [State.reset_codec]
  case units =>
    simp only [s, State.reset_host, State.reset_power, State.reset_clk, State.reset_start, SMap.get_nil, implies_true, and_self]

end Sys2Proof.Machine
end

section
/-!
The counters of cycles (06 R127, Table 6-5, 17 R402): CYCLE of a team and FREEZE of a clock domain are written where a turn
and a frozen cycle end, and nowhere in the work of the transfer streams, in landings, or when a domain is picked.
-/
namespace Sys2Proof.Machine

/-! What of a team decides whether its CYCLE counts, with CYCLE itself. -/

/-- CYCLE, whether a handler runs, and whether the team stands still (04 R89, 17 R402). -/
def Team.pace (t : Team) : Nat × Bool × Bool := (t.cycle, t.inHandler, t.stands)

theorem Team.pace_eq_iff {t u : Team} :
    u.pace = t.pace ↔ u.cycle = t.cycle ∧ u.inHandler = t.inHandler ∧ u.stands = t.stands := by
  simp only [Team.pace, Prod.mk.injEq]

theorem Team.foldl_pace {α : Type} (f : Team → α → Team) (h : ∀ t x, (f t x).pace = t.pace) (l : List α) (t : Team) :
    (l.foldl f t).pace = t.pace :=
  List.foldlRecOn (motive := fun u => u.pace = t.pace) l f rfl fun u hu x _ => (h u x).trans hu

@[simp] theorem Team.updTu_pace (t : Team) (e : Engine) (f : TuState → TuState) : (t.updTu e f).pace = t.pace := by
  cases e <;> rfl

@[simp] theorem Team.updJob_pace (t : Team) (e : Engine) (j : TuJob) : (t.updJob e j).pace = t.pace := Team.updTu_pace ..

@[simp] theorem Team.setFlag_pace (t : Team) (i : Nat) : (t.setFlag i).pace = t.pace := rfl

@[simp] theorem Team.flagElems_pace (t : Team) (xs : List Elem) : (t.flagElems xs).pace = t.pace := by
  unfold Team.flagElems Team.flagConv
  split <;> split <;> rfl

@[simp] theorem Team.pendFault_pace (t : Team) (f : PendFault) : (t.pendFault f).pace = t.pace := by
  unfold Team.pendFault
  split
  · rfl
  · dsimp only
    split <;> rfl

@[simp] theorem Team.scanNote_pace (t : Team) (dt : Nat) : (t.scanNote dt).pace = t.pace := by
  unfold Team.scanNote
  split
  · split <;> rfl
  · rfl

@[simp] theorem Team.coverBreak_pace (t : Team) (dt : Nat) : (t.coverBreak dt).pace = t.pace := rfl

@[simp] theorem Team.setDir_pace (t : Team) (dt : Nat) (e : DEntry) : (t.setDir dt e).pace = t.pace := rfl

@[simp] theorem Team.dirPartial_pace (t : Team) (dt : Nat) (as : List Nat) (p sp : Bool) :
    (t.dirPartial dt as p sp).pace = t.pace := by
  simp [Team.dirPartial]

@[simp] theorem Team.dirWhole_pace (t : Team) (dt : Nat) (sp p : Bool) : (t.dirWhole dt sp p).pace = t.pace := by
  simp [Team.dirWhole]

@[simp] theorem Team.spPut_pace (t : Team) (la : Nat) (bs : List Byte) (p : Bool) : (t.spPut la bs p).pace = t.pace := rfl

@[simp] theorem Team.spStore_pace (t : Team) (la : Nat) (bs : List Byte) : (t.spStore la bs).pace = t.pace :=
  Team.foldl_pace _ (fun u dt => Team.dirPartial_pace u dt _ _ _) _ (t.spPut la bs false)

theorem Team.covers_pace (t : Team) (cs : List Cover) : ({ t with covers := cs } : Team).pace = t.pace := rfl

@[simp] theorem Team.spJob_pace (t : Team) (key : Nat × Nat × Nat) (ws : List SpWrite) : (t.spJob key ws).pace = t.pace := by
  unfold Team.spJob
  refine (Team.foldl_pace _ (fun u dt => ?_) _ _).trans (Team.foldl_pace _ (fun u w => Team.spPut_pace u _ _ _) ws t)
  dsimp only
  split
  · exact Team.dirWhole_pace ..
  · rw [Team.covers_pace, Team.dirPartial_pace]

@[simp] theorem Team.countLand_pace (t : Team) (b n : Nat) : (t.countLand b n).pace = t.pace := by
  unfold Team.countLand
  split
  · rfl
  · split <;> rfl

@[simp] theorem Team.refmt_pace (t : Team) (j : TuJob) : (t.refmt j).pace = t.pace := by
  unfold Team.refmt
  exact Team.foldl_pace _ (fun u dt => Team.setDir_pace u dt _) _ _

@[simp] theorem Team.setBar_pace (t : Team) (d : BarDecl) (b : Bar) : (t.setBar d b).pace = t.pace := Team.spStore_pace ..

@[simp] theorem Team.settle_pace (t : Team) : t.settle.pace = t.pace := by
  refine Team.foldl_pace _ (fun u d => ?_) (t.barSteps.map (·.1)).eraseDups t
  dsimp only
  split
  · rw [Team.setBar_pace, Team.setFlag_pace]
  · rw [Team.setBar_pace]

theorem Team.fireCo_pace {t u : Team} {co : Nat} {arrive : Bool} (h : t.fireCo co arrive = some u) : u.pace = t.pace := by
  unfold Team.fireCo at h
  dsimp only at h
  repeat' split at h
  all_goals simp only [Option.some.injEq, reduceCtorEq] at h
  all_goals subst h
  all_goals rfl

@[simp] theorem Team.fireEntry_pace (t : Team) (j : TuJob) : (t.fireEntry j).pace = t.pace := by
  unfold Team.fireEntry
  split
  · split <;> rfl
  · rfl

@[simp] theorem Team.fireJobs_pace (core : Nat) (e : Engine) (k : Nat) (t : Team) : (Team.fireJobs core e k t).pace = t.pace := by
  induction k generalizing t with
  | zero => rfl
  | succ k ih =>
    unfold Team.fireJobs
    split
    · rfl
    · split
      · split
        · next hco => rw [ih, Team.updTu_pace, Team.fireEntry_pace, Team.fireCo_pace hco]
        · rfl
      · rfl

/-! States that differ in no team's pace and in no domain's FREEZE. -/

/-- The second state holds the same teams, each at the pace it had, and every domain's FREEZE is as it was. -/
structure State.SamePace (s s' : State) : Prop where
  teams : ∀ m, (s'.team? m).map Team.pace = (s.team? m).map Team.pace
  freeze : ∀ d, (s'.clk d).freeze = (s.clk d).freeze

namespace State.SamePace

theorem refl (s : State) : s.SamePace s := ⟨fun _ => rfl, fun _ => rfl⟩

theorem trans {a b c : State} (h : a.SamePace b) (h' : b.SamePace c) : a.SamePace c :=
  ⟨fun m => (h'.teams m).trans (h.teams m), fun d => (h'.freeze d).trans (h.freeze d)⟩

theorem of_eq {s s' : State} (ht : s'.teams = s.teams) (hc : s'.clks = s.clks) : s.SamePace s' :=
  ⟨fun m => by rw [State.team?, ht, ← State.team?], fun d => by rw [State.clk, hc, ← State.clk]⟩

/-- Of `of_eq` and `trans`: the states at hand differ in other units before what `h` is about. -/
theorem after_eq {a b c : State} (h : b.SamePace c) (ht : b.teams = a.teams) (hc : b.clks = a.clks) : a.SamePace c :=
  (of_eq ht hc).trans h

theorem foldl {α : Type} {f : State → α → State} (hf : ∀ (s : State) x, s.SamePace (f s x)) (l : List α) (s : State) :
    s.SamePace (l.foldl f s) :=
  List.foldlRecOn (motive := fun u => s.SamePace u) l f (refl s) fun u hu x _ => hu.trans (hf u x)

theorem setTeam {s : State} {n : Nat} {t u : Team} (ht : s.team? n = some t) (hu : u.pace = t.pace) : s.SamePace (s.setTeam n u) where
  teams m := by
    rw [State.setTeam_team]
    split
    · next h => rw [h, ht, Option.map_some, Option.map_some, hu]
    · rfl
  freeze _ := rfl

theorem updTeam (s : State) (n : Nat) {f : Team → Team} (hf : ∀ t, (f t).pace = t.pace) : s.SamePace (s.updTeam n f) := by
  cases h : s.team? n with
  | none => rw [State.updTeam_none s n f h]; exact refl s
  | some t => rw [State.updTeam_some s n f t h]; exact setTeam h (hf t)

theorem updClk (s : State) (d : Nat) {f : Clk → Clk} (hf : ∀ k, (f k).freeze = k.freeze) : s.SamePace (s.updClk d f) where
  teams _ := rfl
  freeze x := by
    rw [State.updClk_clk]
    split
    · next h => rw [hf, h]
    · rfl

/-- A team that was there still is, at its pace. -/
theorem team {s s' : State} (h : s.SamePace s') {m : Nat} {t : Team} (ht : s.team? m = some t) :
    ∃ u, s'.team? m = some u ∧ u.pace = t.pace := by
  have hm := h.teams m
  rw [ht] at hm
  exact Option.map_eq_some_iff.mp hm

end State.SamePace

/-! Writes that are performed, and reads (15 R359, 16 R384, R395, 19 R428). -/

theorem State.samePace_logRec (s : State) (typ : Nat) (p : List Nat) : s.SamePace (s.logRec typ p) :=
  .of_eq (State.logRec_teams s typ p) (State.logRec_clks s typ p)

theorem State.samePace_portFailed (s : State) (p slot addr status : Nat) : s.SamePace (s.portFailed p slot addr status) :=
  .after_eq (State.samePace_logRec _ _ _) rfl rfl

theorem State.samePace_dropWrite (s : State) (asid rg : Nat) (team : Option Nat) (f : PendFault) :
    s.SamePace (s.dropWrite asid rg team f) := by
  unfold State.dropWrite
  dsimp only
  split
  · exact .of_eq rfl rfl
  · refine .after_eq (.updTeam _ _ fun t => ?_) rfl rfl
    split
    · rfl
    · exact Team.pendFault_pace ..

theorem State.samePace_restorersDone (k : Nat) (s : State) : s.SamePace (restorersDone k s) := by
  induction k generalizing s with
  | zero => exact .refl s
  | succ k ih =>
    refine State.SamePace.trans ?_ (ih s.restorerDone)
    unfold State.restorerDone
    split
    · exact .refl s
    · exact .of_eq rfl rfl

theorem State.samePace_of_takeSlot {s s' : State} {asid rg : Nat} (h : s.takeSlot asid rg = some s') : s.SamePace s' := by
  unfold State.takeSlot at h
  dsimp only at h
  repeat' split at h
  all_goals cases h
  · exact .of_eq rfl rfl
  · exact .refl s
  · exact State.samePace_restorersDone _ s

theorem State.samePace_of_saveLine {s s' : State} {asid rg line : Nat} (h : s.saveLine asid rg line = some s') : s.SamePace s' := by
  unfold State.saveLine at h
  extract_lets g at h
  split at h
  · cases h; exact .refl s
  · split at h
    · cases h; exact .refl s
    · split at h
      · cases h
      · next s1 h1 =>
        extract_lets at h
        cases h
        exact (State.samePace_of_takeSlot h1).trans (.of_eq rfl rfl)

theorem State.samePace_tagLine (s : State) (asid va line : Nat) (tagged : Bool) (team : Option Nat) (f : PendFault) :
    s.SamePace (s.tagLine asid va line tagged team f).1 := by
  unfold State.tagLine
  split
  · exact .refl s
  · split
    · exact .refl s
    · split
      · exact State.samePace_dropWrite ..
      · split
        · next h => exact State.samePace_of_saveLine h
        · exact State.samePace_dropWrite ..

theorem State.samePace_performWrite (s : State) (w : PWrite) : s.SamePace (s.performWrite w) := by
  unfold State.performWrite
  split
  · have htag := s.samePace_tagLine w.asid w.va (w.pa / 128) w.tagged (s.writer w.slot w.tid w.tix)
      { cause := .shadowfull, eng := w.eng, pc := w.pc, addr := BitVec.ofNat 64 w.va, seq := w.seq }
    dsimp only
    split
    · exact htag.trans (.of_eq rfl rfl)
    · exact htag
  · exact State.samePace_logRec ..
  · split
    · dsimp only
      split
      · refine .after_eq (.updTeam _ _ fun t => ?_) rfl rfl
        split <;> rfl
      · exact .of_eq rfl rfl
    · exact State.samePace_portFailed ..

theorem State.samePace_performWrites (s : State) (p : PWrite → Bool) : s.SamePace (s.performWrites p) :=
  .after_eq (.foldl State.samePace_performWrite _ _) rfl rfl

theorem State.samePace_unitRead (s : State) (unit agent pa k : Nat) (fresh : Bool) :
    s.SamePace (s.unitRead unit agent pa k fresh).1 := by
  unfold State.unitRead
  split
  · exact .refl s
  · dsimp only
    split
    · exact State.samePace_logRec ..
    · exact .refl s
  · extract_lets a _ s1
    have h1 : s.SamePace s1 := by
      unfold s1
      split
      · exact .of_eq rfl rfl
      · exact .refl s
    split
    · split
      · exact h1
      · dsimp only
        split
        · exact h1.trans (State.samePace_portFailed ..)
        · exact h1
    · dsimp only
      split
      · exact State.samePace_portFailed ..
      · exact .refl s

/-! The work of the transfer streams (11 R267, log 9). -/

theorem State.samePace_sendJob (s : State) (n : Nat) (e : Engine) (j : TuJob) (m : MemPiece) : s.SamePace (s.sendJob n e j m) := by
  unfold State.sendJob
  split
  · exact .refl s
  · next t ht =>
    extract_lets num w s1
    have h1 : s.SamePace s1 := by
      refine State.SamePace.trans (.setTeam (u := { t with wIssued := num }) ht rfl) (.of_eq ?_ ?_)
      · exact State.sendWrite_teams ..
      · exact State.sendWrite_clks ..
    split
    · exact h1.trans (State.samePace_performWrites ..)
    · exact h1

theorem State.samePace_swapHome (s : State) (n : Nat) (e : Engine) (j : TuJob) (m : MemPiece) :
    s.SamePace (s.swapHome n e j m).1 := by
  unfold State.swapHome
  extract_lets s1
  have h2 := (State.samePace_performWrites s _).trans (State.samePace_unitRead s1 (coreOfSlot n) n m.pa m.bs.length true)
  split
  next s2 old pm heq =>
  rw [← State.jobPhys, heq] at h2
  extract_lets num s3
  have h3 : s.SamePace s3 := h2.trans (.updTeam _ _ fun _ => rfl)
  split
  · exact h3
  · exact h3.trans (State.samePace_performWrite ..)

theorem samePace_deltaPieces (n : Nat) (t : Team) (e : Engine) (j : TuJob) (gsize : Nat) (ps : List Piece) (r : DeltaRun) :
    r.s.SamePace (deltaPieces n t e j gsize ps r).s := by
  induction ps generalizing r with
  | nil => exact .refl r.s
  | cons p ps ih =>
    unfold deltaPieces
    dsimp only
    split
    · exact .refl r.s
    · split
      · exact .refl r.s
      · have hswap := State.samePace_swapHome r.s n e j
        split
        · refine State.SamePace.trans ?_ (ih _)
          exact hswap _
        · refine State.SamePace.trans ?_ (ih _)
          exact (hswap _).trans (State.samePace_sendJob ..)

theorem State.samePace_settleIdle (s : State) (n : Nat) : s.SamePace (s.settleIdle n) := by
  unfold State.settleIdle
  split
  · exact .refl s
  · exact .updTeam s n Team.settle_pace

theorem State.samePace_landIn (s : State) (own : Nat) (e : Engine) (j : TuJob) (slots : List Nat) (ws : Team → List SpWrite)
    (part : Nat) : s.SamePace (s.landIn own e j slots ws part) := by
  unfold State.landIn
  refine .foldl (fun s m => State.SamePace.trans (.updTeam _ _ fun u => ?_) (State.samePace_settleIdle _ _)) _ _
  extract_lets w u1 u2 u3
  have h2 : u2.pace = u.pace := by
    unfold u2
    split
    · rw [Team.countLand_pace]; exact Team.spJob_pace ..
    · exact Team.spJob_pace ..
  have h3 : u3.pace = u2.pace := by
    unfold u3
    split
    · exact Team.countLand_pace ..
    · rfl
  exact h3.trans h2

theorem State.samePace_finishJob (s : State) (n : Nat) (e : Engine) (j : TuJob) : s.SamePace (s.finishJob n e j) :=
  State.SamePace.trans (.updTeam _ _ fun _ => Team.updJob_pace ..) (.updTeam _ _ fun _ => Team.fireJobs_pace ..)

/-- A fault of an engine other than the SQ only pends (17 R398). -/
theorem State.samePace_raise (s : State) (n : Nat) {f : PendFault} (h : f.eng ≠ 0) : s.SamePace (s.raise n f) := by
  simp only [State.raise, h, decide_false, Bool.false_and, Bool.false_eq_true, if_false]
  exact .updTeam _ _ fun _ => Team.pendFault_pace ..

theorem State.samePace_jobFault (s : State) (n : Nat) {e : Engine} (he : e.num ≠ 0) (j : TuJob) (f : JobFail) (idx : List Nat) :
    s.SamePace (s.jobFault n e j f idx) :=
  State.SamePace.trans (.updTeam _ _ fun _ => Team.updJob_pace ..) (State.samePace_raise _ _ he)

theorem State.samePace_of_readVirt {s : State} {n : Nat} {t : Team} {view : Option DWord} {va k : Nat} {fresh : Bool}
    {x : State × List Byte × Bool} (h : s.readVirt n t view va k fresh = .ok x) : s.SamePace x.1 := by
  unfold State.readVirt at h
  split at h
  · cases h
  · extract_lets pa at h
    split at h
    · rw [← Except.ok.inj h]
      exact State.samePace_unitRead ..
    · extract_lets bad at h
      split at h
      · cases h
      · split at h
        · rw [← Except.ok.inj h]
          exact .refl s
        · cases h

theorem ReadRun.samePace_next (r : ReadRun) (n : Nat) (t : Team) (first : Bool) (i : Nat) : r.s.SamePace (r.next n t first i).s := by
  unfold ReadRun.next
  extract_lets d keep k fetch
  have hfetch (ix : Nat) (done : State → Elem → ReadRun) (hdone : ∀ s x, (done s x).s = s) : r.s.SamePace (fetch ix done).s := by
    unfold fetch
    extract_lets a2 fresh
    split
    · exact .refl r.s
    · next hread => rw [hdone]; exact State.samePace_of_readVirt hread
  clear_value fetch
  split
  · exact .refl r.s
  · split
    · exact .refl r.s
    · split
      · exact hfetch _ _ fun _ _ => rfl
      · split
        · exact .refl r.s
        · extract_lets key
          split
          · exact .refl r.s
          · exact hfetch _ _ fun _ _ => rfl

theorem State.samePace_readElems (s : State) (n : Nat) (t : Team) (j : TuJob) (a k : Nat) : s.SamePace (s.readElems n t j a k).s :=
  List.foldlRecOn (motive := fun r => s.SamePace r.s) _ _ (.refl s) fun r hr i _ => hr.trans (ReadRun.samePace_next r n t _ i)

theorem State.samePace_bounce (s : State) (n : Nat) (t : Team) (j : TuJob) (addr : Nat) : s.SamePace (s.bounce n t j addr) :=
  (State.samePace_logRec s _ _).trans (.updTeam _ _ fun _ => Team.pendFault_pace ..)

theorem State.samePace_updJob (s : State) (n : Nat) (e : Engine) (j : TuJob) : s.SamePace (s.updTeam n fun t => t.updJob e j) :=
  .updTeam s n fun _ => Team.updJob_pace ..

theorem State.samePace_moveElems (s : State) (n : Nat) {e : Engine} (he : e.num ≠ 0) (j : TuJob) (targets : List Nat)
    (off lim : Nat) {fin : State → TuJob → State} (hfin : ∀ (s : State) j, s.SamePace (fin s j)) :
    s.SamePace (s.moveElems n e j targets off lim fin) := by
  unfold State.moveElems
  split
  · exact .refl s
  · next t ht =>
    extract_lets a b n0 r
    have hr : s.SamePace r.s := State.samePace_readElems ..
    split
    next ys0 strip trapped hconv =>
    extract_lets f0 half ys close s1 q j1 part
    have hclose (u : State) (done : Nat) (f : Option (JobFail × List Nat)) (j : TuJob) : u.SamePace (close u done f j) := by
      unfold close
      extract_lets u2 j1
      have h2 : u.SamePace u2 := .updTeam _ _ fun _ => Team.flagElems_pace ..
      split
      · exact h2.trans (State.samePace_jobFault _ _ he ..)
      · split
        · exact h2.trans (hfin _ _)
        · exact h2.trans (State.samePace_updJob ..)
    have h1 : s.SamePace s1 := by
      unfold s1
      split
      · exact hr.trans (.of_eq rfl rfl)
      · exact hr
    split
    · split
      · have hq : s1.SamePace q.s := samePace_deltaPieces n t e r.j _ _ { s := s1, .. }
        exact (h1.trans hq).trans (hclose ..)
      · split
        next ms wf hplace =>
        extract_lets done s2 s3
        have h2 : s1.SamePace s2 := .foldl (fun s m => State.samePace_sendJob s n e r.j m) _ _
        have h3 : s2.SamePace s3 := by
          unfold s3
          split
          · exact .refl s2
          · exact State.samePace_landIn ..
        exact ((h1.trans h2).trans h3).trans (hclose ..)
    · exact (h1.trans (State.samePace_landIn ..)).trans (hclose ..)

theorem State.samePace_runXfer (s : State) (n : Nat) {e : Engine} (he : e.num ≠ 0) (j : TuJob) (lim : Nat) (fin : Bool) :
    s.SamePace (s.runXfer n e j lim fin) := by
  unfold State.runXfer
  split
  · exact .refl s
  · split
    · exact State.samePace_bounce ..
    · refine State.samePace_moveElems s n he j _ 0 lim fun s j => ?_
      split
      · exact State.samePace_finishJob ..
      · exact State.samePace_updJob ..

theorem State.samePace_workJob (s : State) (n : Nat) {e : Engine} (he : e.num ≠ 0) (j : TuJob) : s.SamePace (s.workJob n e j) := by
  unfold State.workJob
  split
  · exact .refl s
  · next t ht =>
    extract_lets sb db upTo d
    split
    next r lost1 p1 _ =>
    extract_lets rd
    split
    next w lost2 p2 _ =>
    extract_lets wr work ended served reach j1 s1 x
    have h1 : s.SamePace s1 := .setTeam ht (Team.updJob_pace { t with ports := p2 } e j1)
    split
    · have hx : s1.SamePace x.s := State.samePace_readElems ..
      split
      next ys _ _ _ =>
      extract_lets beats
      split
      · exact h1
      · have hw : x.s.SamePace (x.s.updClk d fun k => { k with windows := k.windows ++ beats }) := .updClk _ d fun _ => rfl
        exact ((h1.trans hx).trans hw).trans (State.samePace_updJob ..)
    · split
      · exact h1
      · exact h1.trans (State.samePace_runXfer _ _ he ..)

theorem State.samePace_beginJob (s : State) (n : Nat) (e : Engine) : s.SamePace (s.beginJob n e) := by
  unfold State.beginJob
  split
  · exact .refl s
  · next t ht =>
    extract_lets js
    split
    · exact .refl s
    · split
      · exact .refl s
      · next j _ =>
        extract_lets t1
        refine .setTeam ht ((Team.updJob_pace ..).trans ?_)
        unfold t1
        split
        · exact Team.refmt_pace ..
        · rfl

theorem State.samePace_jobTick (s : State) (n : Nat) {e : Engine} (he : e.num ≠ 0) : s.SamePace (s.jobTick n e) := by
  unfold State.jobTick
  extract_lets s1
  have h1 : s.SamePace s1 := State.samePace_beginJob ..
  split
  · exact h1
  · split
    · exact h1
    · exact h1.trans (State.samePace_workJob _ _ he _)

theorem State.samePace_jobTicks (s : State) (n : Nat) : s.SamePace (s.jobTicks n) :=
  ((State.samePace_jobTick s n (e := .tu0) (by decide)).trans (State.samePace_jobTick _ n (e := .tu1) (by decide))).trans
    (State.samePace_jobTick _ n (e := .gq) (by decide))

/-! Whose turn it is (log 7). -/

@[simp] theorem State.turnTo_clks (s : State) (c : Nat) : (s.turnTo c).clks = s.clks := by
  unfold State.turnTo
  dsimp only
  split
  · rw [State.updTeam_clks]
  · rfl

theorem State.samePace_turnTo (s : State) (c : Nat) : s.SamePace (s.turnTo c) := by
  unfold State.turnTo
  dsimp only
  split
  · exact .after_eq (.updTeam _ _ fun _ => rfl) rfl rfl
  · exact .of_eq rfl rfl

/-- Noting which classes are starved changes the scheduler's record alone. -/
theorem State.noteClasses_eq (s : State) : ∃ k, s.noteClasses = { s with sched := k } := by
  unfold State.noteClasses
  dsimp only
  split
  · exact ⟨s.sched, rfl⟩
  · exact ⟨_, rfl⟩

theorem State.samePace_pickCore (s : State) : s.SamePace s.pickCore := by
  obtain ⟨k, hk⟩ := s.noteClasses_eq
  unfold State.pickCore
  rw [hk]
  extract_lets u ds pick
  clear_value pick
  split
  · exact .of_eq rfl rfl
  · next _ d =>
    extract_lets tm late s1 s2
    have h1 : s.SamePace s1 := .of_eq rfl rfl
    have h2 : s1.SamePace s2 := .updClk s1 d fun _ => rfl
    exact (h1.trans h2).trans (State.samePace_turnTo ..)

theorem State.leastDomain_sched (s : State) (k : Sched) (ds : List Nat) :
    ({ s with sched := k } : State).leastDomain ds = s.leastDomain ds := by
  induction ds with
  | nil => rfl
  | cons d ds ih =>
    rw [State.leastDomain, State.leastDomain, ih]
    rfl

/-- The domain picked with nothing scheduled begins its cycle at its time, frozen when one of its cores has a late landing (06 R126). -/
theorem State.pickCore_clk {s : State} {x : Nat} (hs : s.schedule = [])
    (hx : s.leastDomain (s.issuingCores.map domainOf).eraseDups = some x) :
    s.pickCore.clk x = { s.clk x with at_ := s.domainTime x, frozen := s.domainLate x } := by
  obtain ⟨k, hk⟩ := s.noteClasses_eq
  unfold State.pickCore
  rw [hk]
  extract_lets u ds pick
  have hpick : pick = some x := by
    unfold pick
    rw [show u.schedule = [] from hs, List.head?_nil]
    exact (State.leastDomain_sched s k _).trans hx
  rw [hpick]
  dsimp only
  rw [State.clk, State.turnTo_clks, ← State.clk, State.updClk_clk, if_pos rfl]
  rfl

/-- A cycle of a domain ends with its clock moving on: neither the tick nor the next pick writes FREEZE. -/
theorem State.samePace_domainEnd (s : State) (d : Nat) : s.SamePace (s.domainEnd d) := by
  unfold State.domainEnd
  refine State.SamePace.trans ?_ (State.samePace_pickCore _)
  exact .updClk s d fun k => rfl

theorem State.samePace_turnOver (s : State) (c : Nat) : s.SamePace (s.turnOver c) := by
  unfold State.turnOver
  split
  · exact State.samePace_turnTo ..
  · exact State.samePace_domainEnd ..

theorem State.cur?_issuing {s : State} {n : Nat} {t : Team} (h : s.cur? = some (n, t)) :
    (s.core s.sel.core).issuing = some n := by
  unfold State.cur? at h
  split at h
  · cases h
  · next m hm =>
    obtain ⟨u, hu, heq⟩ := Option.map_eq_some_iff.mp h
    cases heq
    exact hm

/-- The turn of the core of a team at which no fault pends counts in its CYCLE, but not in a handler or while it stands still. -/
theorem State.endCycle_cycle {s : State} {c n : Nat} {t : Team} (hc : (s.core c).issuing = some n) (ht : s.team? n = some t)
    (hp : t.pend = none) :
    ∃ u, (s.endCycle c).team? n = some u ∧ u.cycle = if t.inHandler ∨ t.stands then t.cycle else t.cycle + 1 := by
  obtain ⟨v, hv, hvt⟩ := (State.samePace_jobTicks s n).team ht
  obtain ⟨hcyc, hhnd, hst⟩ := Team.pace_eq_iff.mp hvt
  unfold State.endCycle
  simp only [hc, ht, hp, Option.isSome_none, Bool.false_eq_true, if_false]
  rw [State.updTeam_some _ _ _ _ hv]
  obtain ⟨u, hu, hpace⟩ := (State.samePace_turnOver _ c).team (State.setTeam_team_self (s.jobTicks n) n _)
  refine ⟨u, hu, (congrArg Prod.fst hpace).trans ?_⟩
  simp only [hhnd, hst, Bool.or_eq_true]
  split
  · exact (congrArg Prod.fst (Team.settle_pace v)).trans hcyc
  · exact congrArg (· + 1) hcyc

theorem State.samePace_clearPorts (s : State) (n : Nat) : s.SamePace (s.updTeam n fun t => { t with ports := [] }) :=
  .updTeam s n fun _ => rfl

/-- A frozen cycle goes into the domain's FREEZE, once, and into no CYCLE (06 R127, R128). -/
theorem State.freezeTick_counts (s : State) (c : Nat) :
    ((s.freezeTick c).clk (domainOf c)).freeze = (s.clk (domainOf c)).freeze + 1 ∧
      ∀ m t, s.team? m = some t → ∃ u, (s.freezeTick c).team? m = some u ∧ u.pace = t.pace := by
  unfold State.freezeTick
  extract_lets s1
  have h1 : s.SamePace s1 := by
    refine .foldl (fun s x => ?_) _ _
    split
    · exact ((State.samePace_clearPorts ..).trans (State.samePace_jobTicks ..)).trans (State.samePace_clearPorts ..)
    · exact .refl s
  clear_value s1
  have h2 := State.samePace_pickCore (s1.updClk (domainOf c) fun k => { k.tick with freeze := k.freeze + 1 })
  constructor
  · rw [h2.freeze, State.updClk_clk, if_pos rfl, ← h1.freeze]
  · intro m t ht
    obtain ⟨v, hv, hvt⟩ := h1.team ht
    obtain ⟨u, hu, huv⟩ := h2.team (m := m) (t := v) hv
    exact ⟨u, hu, huv.trans hvt⟩

theorem step_of_plan_move {s s' : State} (hag : s.agenda = []) (h : s.plan = .move s') : step s = .next s' := by
  simp only [step, hag, h]

/-- With no window beat to land at its start, a frozen cycle of the domain is nothing but that (06 R126). -/
theorem State.plan_frozen {s : State} {n : Nat} {t : Team} (hpow : s.start.powered = true) (hcur : s.cur? = some (n, t))
    (hat : (s.core s.sel.core).at_ ≤ (s.clk (domainOf s.sel.core)).at_)
    (hbeat : s.cycleStart (domainOf s.sel.core) = true → s.beatDue (domainOf s.sel.core) = none)
    (hfr : (s.clk (domainOf s.sel.core)).frozen = true) : s.plan = .move (s.freezeTick s.sel.core) := by
  have hland : (s.cycleStart (domainOf s.sel.core) && (s.beatDue (domainOf s.sel.core)).isSome) = false := by
    cases hstart : s.cycleStart (domainOf s.sel.core) with
    | false => rfl
    | true => rw [hbeat hstart]; rfl
  simp only [State.plan, hpow, hcur, hland, hfr, Nat.not_lt.mpr hat, Bool.not_true, Bool.false_eq_true, if_false, if_true]

/-- Settles O57: the turns pass on as `passTurn`, `nextTurn` and `turnOver` say; nothing that a turn's end does beside its count, nor a
frozen cycle, changes the pace of a team. -/
theorem cyclesAreCounted : Obligations.CyclesAreCounted := by
  unfold Obligations.CyclesAreCounted
  intro s n t hcur d
  refine ⟨fun hme => ?me, fun hme => ?other, fun f hf => ?engine, fun hlast hpend => ?cycle, fun c hc => ?core,
    fun hall => ?domain, fun x hs hx => ?late, fun hag hpow hat hbeat hfr => ?frozen, fun c => ?freeze⟩
  case me => simp only [State.passTurn, hcur, hme, if_true]
  case other => simp only [State.passTurn, hcur, hme, if_false]
  case engine => simp only [State.nextTurn, hcur, hf]
  case cycle =>
    simp only [State.nextTurn, hcur, hlast]
    exact State.endCycle_cycle (State.cur?_issuing hcur) (cur_team hcur) hpend
  case core => simp only [State.turnOver, d, hc]
  case domain =>
    have hnone : (s.turnCores d).find? (fun x => s.sel.core < x) = none := by
      simpa using hall
    simp only [State.turnOver, hnone, d]
    rfl
  case late =>
    rw [State.pickCore_clk hs hx]
    exact ⟨rfl, rfl⟩
  case frozen => exact step_of_plan_move hag (State.plan_frozen hpow hcur hat hbeat hfr)
  case freeze =>
    obtain ⟨hfreeze, hpace⟩ := State.freezeTick_counts s c
    refine ⟨hfreeze, fun m u hu => ?_⟩
    obtain ⟨v, hv, hvu⟩ := hpace m u hu
    exact ⟨v, hv, congrArg Prod.fst hvu⟩

end Sys2Proof.Machine
end

section
/-!
The words of team control and EXIT (04 R87-R89, R96, R97, 09 R215): what it takes for the issuing team to leave its core, and
the three ways in which EXIT ends.
-/
namespace Sys2Proof.Machine

open Sys2Proof.Claims

theorem SMap.insert_insert {α : Type} (m : SMap α) (k : Nat) (v w : α) :
    SMap.insert (SMap.insert m k v) k w = SMap.insert m k w := by
  induction m with
  | nil => simp [SMap.insert]
  | cons p r ih =>
    obtain ⟨j, x⟩ := p
    rcases Nat.lt_trichotomy k j with h | rfl | h
    · simp [SMap.insert, h]
    · simp [SMap.insert]
    · simp [SMap.insert, ih, Nat.lt_asymm h, Nat.ne_of_gt h]

@[simp] theorem State.setTeam_setTeam (s : State) (n : Nat) (t u : Team) : (s.setTeam n t).setTeam n u = s.setTeam n u := by
  simp only [State.setTeam, SMap.insert_insert]

/-! A team that stands still until its core switches is as ready as before. -/

theorem State.gangResident_setTeam_leaving {s : State} {n : Nat} {t : Team} (h : s.team? n = some t) (b : Bool) (m : Nat) (u : Team) :
    (s.setTeam n { t with leaving := b }).gangResident m u = s.gangResident m u := by
  unfold State.gangResident
  congr 1
  funext g
  by_cases hg : g = n
  · simp [hg, h]
  · simp [State.setTeam_team, hg]

theorem State.ready_setTeam_leaving {s : State} {n : Nat} {t : Team} (h : s.team? n = some t) (b : Bool) :
    (s.setTeam n { t with leaving := b }).ready = s.ready := by
  funext m
  unfold State.ready
  by_cases hm : m = n
  · simp only [hm, State.setTeam_team_self, h, State.gangResident_setTeam_leaving h]
    rfl
  · simp only [State.setTeam_team, if_neg hm, State.gangResident_setTeam_leaving h]
    rfl

theorem State.nextReady_setTeam_leaving {s : State} {n : Nat} {t : Team} (h : s.team? n = some t) (b : Bool) (c a : Nat) :
    (s.setTeam n { t with leaving := b }).nextReady c a = s.nextReady c a := by
  rw [State.nextReady, State.nextReady, State.ready_setTeam_leaving h]

/-! The issuing team leaves its core (04 R87, R89). -/

/-- With reads in flight the team only stands still. -/
theorem State.leave_of_not_landed {s : State} {n : Nat} {t : Team} (h : s.team? n = some t) (hl : s.landed n t = false) :
    s.leave n = s.setTeam n { t with leaving := true } := by
  have hl' : (s.setTeam n { t with leaving := true }).landed n { t with leaving := true } = false := hl
  simp [State.leave, State.leaveCore, State.updTeam_some s n _ t h, hl']

/-- With its reads landed it leaves at once when it is parked or a different team is ready. -/
theorem State.leave_of_landed {s : State} {n : Nat} {t : Team} (h : s.team? n = some t) (hl : s.landed n t = true)
    (hgo : t.park.isSome = true ∨ (s.nextReady (coreOfSlot n) (n % 16)).getD n ≠ n) :
    s.leave n = (s.setTeam n { t with leaving := true }).switchOut (coreOfSlot n) n := by
  have hl' : (s.setTeam n { t with leaving := true }).landed n { t with leaving := true } = true := hl
  simp [State.leave, State.leaveCore, State.updTeam_some s n _ t h, hl', State.nextReady_setTeam_leaving h, hgo]

/-- A parked team leaves its core whether or not another is ready. -/
theorem State.parkTeam_eq {s : State} {n : Nat} {t : Team} (h : s.team? n = some t) (p : Park) :
    s.parkTeam n p =
      let parked := s.setTeam n { t with park := some p, leaving := true }
      if s.landed n t then parked.switchOut (coreOfSlot n) n else parked := by
  have hpark : s.parkTeam n p = (s.setTeam n { t with park := some p }).leave n := by
    rw [State.parkTeam, State.updTeam_some s n _ t h]
  have hteam := State.setTeam_team_self s n { t with park := some p }
  cases hl : s.landed n t with
  | true => rw [hpark, State.leave_of_landed hteam hl (.inl rfl), State.setTeam_setTeam]; rfl
  | false => rw [hpark, State.leave_of_not_landed hteam hl, State.setTeam_setTeam]; rfl

/-! YIELD, PSTART and PWAIT. -/

/-- The model takes the slot itself where no team is ready; so it names another slot exactly when another team is ready. -/
theorem State.nextReady_getD_ne_iff (s : State) (c a n : Nat) :
    (s.nextReady c a).getD n ≠ n ↔ ∃ m, s.nextReady c a = some m ∧ m ≠ n := by
  cases s.nextReady c a <;> simp

theorem State.hintedLeft_iff (s : State) (tid : Nat) :
    s.hintedLeft tid = true ↔ ∀ k, s.task? tid = some k → ∀ e ∈ k.edges, e.2 = true → s.task? e.1 = none := by
  unfold State.hintedLeft
  cases s.task? tid with
  | none => simp
  | some k => simp

/-- YIELD is the step to the next word and, with another team ready, a leave. -/
theorem exec_yield {s : State} {n : Nat} {t : Team} (h : s.cur? = some (n, t)) :
    let moved := s.setTeam n (t.step .sq)
    exec .yield s = .next (if (moved.nextReady (coreOfSlot n) (n % 16)).getD n = n then moved else moved.leave n) :=
  State.sqWord_ready (l := []) h nofun

theorem exec_pwait {s : State} {n : Nat} {t : Team} (h : s.cur? = some (n, t)) :
    exec .pwait s = .next (if t.pwaited || s.hintedLeft t.tid then
      if !t.sq.landing.isEmpty then s
      else (s.invalidateKinds n [0, 1]).updTeam n fun u => ({ u with pwaited := true } : Team).step .sq
    else s.parkTeam n .pwait) :=
  State.sqWord_ready (l := []) h nofun

theorem teamControlWords : Claims.TeamControlWords := by
  intro s n t hcur moved other left parked
  have hteam : moved.team? n = some (t.step .sq) := State.setTeam_team_self ..
  have hother : (moved.nextReady (coreOfSlot n) (n % 16)).getD n ≠ n ↔ other := State.nextReady_getD_ne_iff ..
  have hleft : (t.pwaited || s.hintedLeft t.tid) = true ↔ left := by
    rw [Bool.or_eq_true, State.hintedLeft_iff]
  have hpark := State.parkTeam_eq (cur_team hcur) .pwait
  refine ⟨fun ho => ?goesOn, fun ho hl => ?leaves, fun ho hl => ?stands, ?pstart, fun h hq => ?completes, fun h hq => ?loads,
    fun h hl => ?parks, fun h hl => ?parksLater⟩
  case goesOn => rw [exec_yield hcur, if_pos (Classical.not_not.mp (mt hother.mp ho))]
  case leaves =>
    have hgo := hother.mpr ho
    rw [exec_yield hcur, if_neg hgo, State.leave_of_landed hteam hl (.inr hgo), State.setTeam_setTeam]
  case stands =>
    rw [exec_yield hcur, if_neg (hother.mpr ho), State.leave_of_not_landed hteam hl, State.setTeam_setTeam]
  case pstart => exact State.sqStep_ready (l := []) hcur nofun
  case completes => rw [exec_pwait hcur, if_pos (hleft.mpr h), if_neg (by simp [hq])]
  case loads => rw [exec_pwait hcur, if_pos (hleft.mpr h), if_pos (by simp [hq])]
  case parks => rw [exec_pwait hcur, if_neg (mt hleft.mp h), hpark, hl]; rfl
  case parksLater => rw [exec_pwait hcur, if_neg (mt hleft.mp h), hpark, hl]; rfl

/-! EXIT (09 R215, 17 R403). -/

@[simp] theorem leaving_faults (t : Team) (err : Bool) : (leaving t err).faults = t.faults :=
  List.foldlRecOn (motive := fun u : Team => u.faults = t.faults) _ _ rfl fun u hu e _ => (Team.setCtl_faults u e _).trans hu

/-- The state after an EXIT that waits for nothing. -/
def State.exited (s : State) (n : Nat) (t : Team) (err : Bool) : State :=
  (((s.setTeam n (leaving t err)).writeBackTeam n [0, 1]).updTask t.tid fun k =>
    { k with exited := setInsert t.teamix k.exited, slots := k.slots.filter (· ≠ n), exitErr := k.exitErr || err }).releaseSlot n

/-- EXIT stops the other engines and then kills, waits or releases the slot. -/
theorem exitWord_eq {s : State} {n : Nat} {t : Team} (h : s.cur? = some (n, t)) (err : Bool) :
    s.exitWord err = .next (if err && t.errored then
        ((s.setTeam n (leaving t err)).logKill n (leaving t err) none).killTeam n
          (BitVec.ofNat 32 (0x04000000 + (t.faults.getD 0 0).toNat % 256))
      else if (allEngines.filter fun e => e ≠ .sq && t.hasEngine e).any t.outstanding then s.setTeam n (leaving t err)
      else s.exited n t err) := by
  rw [← leaving_faults t err]
  exact State.sqWord_ready (l := []) h nofun

theorem mem_allEngines (e : Engine) : e ∈ allEngines := by cases e <;> decide

theorem anyOutstanding_iff (t : Team) :
    (allEngines.filter fun e => e ≠ .sq && t.hasEngine e).any t.outstanding = true ↔
      ∃ e, e ≠ .sq ∧ t.hasEngine e = true ∧ t.outstanding e = true := by
  simp [mem_allEngines, and_assoc]

/-- Releasing a slot leaves no team there. -/
theorem State.releaseSlot_team_self (s : State) (n : Nat) : (s.releaseSlot n).team? n = none := by
  unfold State.releaseSlot
  split
  · assumption
  · extract_lets c issuing s0 s1 others free s2 s3
    have hgone : s1.team? n = none := by rw [State.eraseTeam_team, if_pos rfl]
    split <;> exact hgone

theorem exitReleasesTheSlot : Claims.ExitReleasesTheSlot := by
  intro s n t hcur gone
  have hgone (err : Bool) : gone err = s.exited n t err := rfl
  have hexit : exec .exit s = s.exitWord false := rfl
  have hexitErr : exec .exitErr s = s.exitWord true := rfl
  refine ⟨fun hnone => ?done, fun hsome => ?waits, fun herr => ?kills⟩
  case done =>
    have hany : ¬(allEngines.filter fun e => e ≠ .sq && t.hasEngine e).any t.outstanding = true := by
      rw [anyOutstanding_iff]
      rintro ⟨e, hsq, hhas, hout⟩
      simp [hnone e hsq hhas] at hout
    have hgoes (err : Bool) (hk : (err && t.errored) = false) : s.exitWord err = .next (gone err) := by
      rw [exitWord_eq hcur, hk, if_neg Bool.false_ne_true, if_neg hany, hgone]
    exact ⟨hexit.trans (hgoes false rfl), State.releaseSlot_team_self .., fun herr => hexitErr.trans (hgoes true herr)⟩
  case waits =>
    have hwaits (err : Bool) (hk : (err && t.errored) = false) : s.exitWord err = .next (s.setTeam n (leaving t err)) := by
      rw [exitWord_eq hcur, hk, if_neg Bool.false_ne_true, if_pos ((anyOutstanding_iff t).mpr hsome)]
    exact ⟨hexit.trans (hwaits false rfl), fun herr => hexitErr.trans (hwaits true herr)⟩
  case kills => rw [hexitErr, exitWord_eq hcur, herr, Bool.and_self, if_pos rfl]

/-- Settles O19: a leave is decided by the reads in flight and by whether another team is ready, which standing still does not
change; EXIT kills, waits or releases the slot. -/
theorem teamControlAndExit : Obligations.TeamControlAndExit :=
  ⟨teamControlWords, exitReleasesTheSlot⟩

end Sys2Proof.Machine
end

section
/-!
Translations and their invalidation (05 R99-R113): what a miss, a walk and a command answer; and that neither the writes and
atomics that an acknowledgement performs nor the lines that it drops touch a translation, a kernel slot's bank or a root, so
that what was revoked before them stays revoked.
-/
namespace Sys2Proof.Machine

open Sys2Proof.Claims

/-! What an acknowledgement speaks of. -/

/-- The TLBs, the tasks, the registers of the ASIDs, the count of acknowledgements, and each core's two kernel slots. -/
def State.translations (s : State) :
    SMap (List TlbEntry) × List Task × SMap AsidRegs × BitVec 32 × (Nat → Option KSlot × Option KSlot) :=
  (s.tlbs, s.tasks, s.asids, s.host.invdone, fun n => ((s.core n).ks0, (s.core n).ks1))

theorem State.translations_eq_iff {s s' : State} :
    s'.translations = s.translations ↔ s'.tlbs = s.tlbs ∧ s'.tasks = s.tasks ∧ s'.asids = s.asids ∧
      s'.host.invdone = s.host.invdone ∧ ∀ n, (s'.core n).ks0 = (s.core n).ks0 ∧ (s'.core n).ks1 = (s.core n).ks1 := by
  simp only [State.translations, Prod.mk.injEq, funext_iff]

theorem State.foldl_translations {α : Type} {f : State → α → State} (hf : ∀ s x, (f s x).translations = s.translations)
    (l : List α) (s : State) : (l.foldl f s).translations = s.translations :=
  List.foldlRecOn (motive := fun u : State => u.translations = s.translations) l f rfl fun u hu x _ => (hf u x).trans hu

@[simp] theorem State.updTeam_translations (s : State) (n : Nat) (f : Team → Team) :
    (s.updTeam n f).translations = s.translations := by
  unfold State.updTeam
  split <;> rfl

theorem State.updCore_translations (s : State) (c : Nat) {f : Core → Core}
    (hf : ∀ k, (f k).ks0 = k.ks0 ∧ (f k).ks1 = k.ks1) : (s.updCore c f).translations = s.translations := by
  refine State.translations_eq_iff.mpr ⟨rfl, rfl, rfl, rfl, fun n => ?_⟩
  rw [State.updCore_core]
  split
  · next h => rw [h]; exact hf _
  · exact ⟨rfl, rfl⟩

/-! Performing writes (15 R359, 16 R384, R395, 19 R428). -/

@[simp] theorem State.logRec_translations (s : State) (typ : Nat) (p : List Nat) :
    (s.logRec typ p).translations = s.translations := by
  unfold State.logRec State.logWrite
  extract_lets sec same r s1 unread
  split
  · rfl
  · split <;> rfl

@[simp] theorem State.portFailed_translations (s : State) (p slot addr status : Nat) :
    (s.portFailed p slot addr status).translations = s.translations :=
  State.logRec_translations ..

@[simp] theorem State.performBytes_translations (s : State) (pa : Nat) (bs : List Byte) (poison : Bool) :
    (s.performBytes pa bs poison).translations = s.translations := rfl

@[simp] theorem State.dropWrite_translations (s : State) (asid rg : Nat) (team : Option Nat) (f : PendFault) :
    (s.dropWrite asid rg team f).translations = s.translations := by
  unfold State.dropWrite
  dsimp only
  split
  · rfl
  · exact State.updTeam_translations ..

@[simp] theorem restorersDone_translations (k : Nat) (s : State) : (restorersDone k s).translations = s.translations := by
  induction k generalizing s with
  | zero => rfl
  | succ k ih =>
    refine (ih s.restorerDone).trans ?_
    unfold State.restorerDone
    split <;> rfl

theorem State.takeSlot_translations {s s' : State} {asid rg : Nat} (h : s.takeSlot asid rg = some s') :
    s'.translations = s.translations := by
  unfold State.takeSlot at h
  dsimp only at h
  repeat' split at h
  all_goals cases h
  · rfl
  · rfl
  · exact restorersDone_translations _ s

theorem State.saveLine_translations {s s' : State} {asid rg line : Nat} (h : s.saveLine asid rg line = some s') :
    s'.translations = s.translations := by
  unfold State.saveLine at h
  extract_lets g at h
  split at h
  · cases h; rfl
  · split at h
    · cases h; rfl
    · split at h
      · cases h
      · next hs1 =>
        extract_lets at h
        cases h
        exact (State.takeSlot_translations hs1 :)

@[simp] theorem State.tagLine_translations (s : State) (asid va line : Nat) (tagged : Bool) (team : Option Nat) (f : PendFault) :
    (s.tagLine asid va line tagged team f).1.translations = s.translations := by
  unfold State.tagLine
  split
  · rfl
  · split
    · rfl
    · split
      · exact State.dropWrite_translations ..
      · split
        · next h => exact State.saveLine_translations h
        · exact State.dropWrite_translations ..

@[simp] theorem State.tagAll_translations (s : State) (ln : Nat) (tags : List (Nat × Nat)) (team : Option Nat) (f : PendFault) :
    (s.tagAll ln tags team f).1.translations = s.translations :=
  List.foldlRecOn (motive := fun u : State × Bool => u.1.translations = s.translations) tags _ rfl
    fun u hu g _ => (State.tagLine_translations u.1 g.1 g.2 ln true team f).trans hu

@[simp] theorem State.performWrite_translations (s : State) (w : PWrite) : (s.performWrite w).translations = s.translations := by
  unfold State.performWrite
  split
  · dsimp only
    split
    · exact State.tagLine_translations ..
    · exact State.tagLine_translations ..
  · exact State.logRec_translations ..
  · split
    · dsimp only
      split
      · exact State.updTeam_translations ..
      · rfl
    · exact State.portFailed_translations ..

@[simp] theorem State.performWrites_translations (s : State) (p : PWrite → Bool) :
    (s.performWrites p).translations = s.translations :=
  State.foldl_translations State.performWrite_translations _ _

/-! The L1 (11 R260, 15 R364, R365, R371). -/

@[simp] theorem State.l1WriteBack_translations (s : State) (c ln : Nat) : (s.l1WriteBack c ln).translations = s.translations := by
  unfold State.l1WriteBack
  split
  · rfl
  · next l _ =>
    split
    · rfl
    · extract_lets owner f s1 bs hit
      have hs1 : s1.translations = s.translations := State.updCore_translations s c fun _ => ⟨rfl, rfl⟩
      split
      · have htag := (State.tagAll_translations s1 ln l.tags owner f).trans hs1
        dsimp only
        split
        · exact (State.foldl_translations (fun s r => State.performBytes_translations s _ _ _) _ _).trans htag
        · exact htag
      · exact ((State.foldl_translations (fun s r => State.performWrite_translations s _) _ _).trans
          (State.performWrites_translations s1 _)).trans hs1

@[simp] theorem State.l1Drop_translations (s : State) (c ln : Nat) : (s.l1Drop c ln).translations = s.translations :=
  (State.foldl_translations (fun s n => State.updTeam_translations s n _) _ _).trans
    (State.updCore_translations s c fun _ => ⟨rfl, rfl⟩)

/-- Lines that are written back and dropped, one after another. -/
theorem State.dropLines_translations {α : Type} (c ln : α → Nat) (l : List α) (s : State) :
    (l.foldl (fun (s : State) x => (s.l1WriteBack (c x) (ln x)).l1Drop (c x) (ln x)) s).translations = s.translations :=
  State.foldl_translations (fun s x => by simp) l s

@[simp] theorem State.recallLine_translations (s : State) (ln : Nat) : (s.recallLine ln).translations = s.translations :=
  State.dropLines_translations id (fun _ => ln) _ s

@[simp] theorem State.invalidateKinds_translations (s : State) (n : Nat) (ords : List Nat) :
    (s.invalidateKinds n ords).translations = s.translations :=
  State.dropLines_translations (fun _ => coreOfSlot n) (fun e : Nat × L1Line => e.1) _ s

/-! Atomics (15 R370). -/

@[simp] theorem State.applyAtom_translations (s : State) (x : PAtom) : (s.applyAtom x).translations = s.translations := by
  unfold State.applyAtom
  extract_lets s0 bad old new f s1 s3
  have hs1 : s1.translations = s.translations := by
    unfold s1
    split
    · exact State.recallLine_translations ..
    · dsimp only
      split <;> simp [s0]
  have hs3 : s3.translations = s.translations := (State.updTeam_translations ..).trans hs1
  split
  · exact (State.invalidateKinds_translations ..).trans hs3
  · exact hs3

@[simp] theorem State.applyAtoms_translations (s : State) (p : PAtom → Bool) :
    (s.applyAtoms p).translations = s.translations :=
  State.foldl_translations State.applyAtom_translations _ _

/-! The revocation (R113). -/

/-- A kernel slot whose matching entries are revoked. -/
def InvCmd.revokeSlot (c : InvCmd) (s : State) (a : KSlot) : KSlot := { a with ktt := c.revoke (s.kslotAsid a) a.ktt }

def InvCmd.revokeCore (c : InvCmd) (s : State) (k : Core) : Core :=
  { k with ks0 := k.ks0.map (c.revokeSlot s), ks1 := k.ks1.map (c.revokeSlot s) }

/-- The state in which a command has revoked what matches, before the writes on their way are performed (log 27). -/
def State.revoked (s : State) (c : InvCmd) : State :=
  { s with
    tlbs := SMap.mapVals [] s.tlbs fun l => l.filter fun e => !c.hits e.asid e.global e.va e.size
    walkers := SMap.mapVals [] s.walkers fun l => l.filter fun w => w.asid ≠ c.asid
    cores := s.cores.map fun p => (p.1, c.revokeCore s p.2)
    tasks := s.tasks.map fun t => { t with ktt := c.revoke t.asid t.ktt } }

/-- After the revocation an invalidation only performs writes and atomics and drops lines. -/
theorem State.invalidate_translations (s : State) (c : InvCmd) : (s.invalidate c).translations = (s.revoked c).translations := by
  refine (State.foldl_translations (fun s p => ?_) _ _).trans
    ((State.applyAtoms_translations ..).trans (State.performWrites_translations (s.revoked c) _))
  exact State.dropLines_translations (fun _ => p.1) (fun e : Nat × L1Line => e.1) _ s

theorem InvCmd.hits_iff (c : InvCmd) (asid : Nat) (g : Bool) (va size : Nat) :
    c.hits asid g va size = true ↔ (g = true ∨ asid = c.asid) ∧ va < c.hi ∧ c.lo < va + size := by
  simp [InvCmd.hits, and_assoc]

theorem InvCmd.rev_of_mem_revoke {c : InvCmd} {asid : Nat} {es : List KttEntry} {e : KttEntry} (he : e ∈ c.revoke asid es)
    (hit : c.hitsKtt asid e = true) : e.rev = true := by
  obtain ⟨e0, -, rfl⟩ := List.mem_map.mp he
  split
  · rfl
  · next h => rw [if_neg h] at hit; exact absurd hit h

/-- What a table lists at an index is one of its entries. -/
theorem SMap.mem_of_get? {α : Type} {m : SMap α} {k : Nat} {v : α} (h : SMap.get? m k = some v) : (k, v) ∈ m := by
  induction m with
  | nil => cases h
  | cons p r ih =>
    obtain ⟨j, w⟩ := p
    rw [SMap.get?] at h
    split at h
    · next hj => cases h; cases hj; exact List.mem_cons_self
    · exact List.mem_cons_of_mem _ (ih h)

/-- A function that keeps the default, applied to every entry of a table. -/
theorem SMap.get_map {α : Type} {d : α} (m : SMap α) {f : α → α} (hd : f d = d) (k : Nat) :
    SMap.get d (m.map fun p => (p.1, f p.2)) k = f (SMap.get d m k) := by
  unfold SMap.get
  induction m with
  | nil => exact hd.symm
  | cons p r ih =>
    simp only [List.map_cons, SMap.get?]
    split
    · rfl
    · exact ih

/-- What a table of lists holds after `f` was applied to each list is of the form `f l`. -/
theorem SMap.mem_get_mapVals {α : Type} [DecidableEq α] {m : SMap (List α)} {f : List α → List α} {k : Nat} {x : α}
    (h : x ∈ SMap.get [] (SMap.mapVals [] m f) k) : ∃ l, x ∈ f l := by
  unfold SMap.get at h
  cases hg : SMap.get? (SMap.mapVals [] m f) k with
  | none => rw [hg] at h; cases h
  | some v =>
    rw [hg] at h
    obtain ⟨p, -, hp⟩ := List.mem_map.mp (List.mem_filter.mp (SMap.mem_of_get? hg)).1
    cases hp
    exact ⟨p.2, h⟩

theorem State.not_hits_of_mem_revoked_tlb {s : State} {c : InvCmd} {n : Nat} {e : TlbEntry} (he : e ∈ (s.revoked c).tlb n) :
    ¬c.hits e.asid e.global e.va e.size = true := by
  obtain ⟨l, hl⟩ := SMap.mem_get_mapVals he
  simpa using (List.mem_filter.mp hl).2

theorem State.revoked_core (s : State) (c : InvCmd) (n : Nat) : (s.revoked c).core n = c.revokeCore s (s.core n) :=
  SMap.get_map s.cores (f := c.revokeCore s) rfl n

/-- A revocation moves no kernel to another ASID. -/
theorem State.revoked_kslotAsid (s : State) (c : InvCmd) (a : KSlot) : (s.revoked c).kslotAsid (c.revokeSlot s a) = s.kslotAsid a := by
  have hmap (l : List Task) : ((l.map fun t => { t with ktt := c.revoke t.asid t.ktt }).find? (·.id = a.tid)).map (·.asid) =
      (l.find? (·.id = a.tid)).map (·.asid) := by
    rw [List.find?_map, Option.map_map]
    rfl
  exact congrArg (Option.getD · 0) (hmap s.tasks)

/-- Every matching entry of a kernel slot is revoked. -/
theorem State.rev_of_revoked {s : State} {c : InvCmd} {n : Nat} {a : KSlot} {e : KttEntry}
    (ha : ((s.revoked c).core n).ks0 = some a ∨ ((s.revoked c).core n).ks1 = some a) (he : e ∈ a.ktt)
    (hit : c.hitsKtt ((s.revoked c).kslotAsid a) e = true) : e.rev = true := by
  rw [s.revoked_core c n] at ha
  obtain ⟨b, rfl⟩ : ∃ b, c.revokeSlot s b = a := by
    rcases ha with ha | ha
    all_goals
      obtain ⟨b, -, hb⟩ := Option.map_eq_some_iff.mp ha
      exact ⟨b, hb⟩
  rw [s.revoked_kslotAsid c b] at hit
  exact InvCmd.rev_of_mem_revoke he hit

/-! The acknowledgement (R99, R113). -/

/-- The state after an acknowledgement. -/
def State.acknowledged (s : State) (c : InvCmd) : State :=
  let s1 := s.invalidate c
  let s2 : State := { s1 with host := { s1.host with inv := none, invdone := s1.host.invdone + 1 } }
  let s3 := if c.all then { s2 with asids := SMap.upd {} s2.asids c.asid fun a => { a with ptroot' := a.ptroot } } else s2
  if c.irq then s3.raiseMsix 2047 else s3

theorem exec_invalidateAck {s : State} {c : InvCmd} (hp : s.start.powered = true) (hc : s.host.inv = some c) :
    exec .invalidateAck s = .next (if s.readsLanded c then s.acknowledged c else s) := by
  rw [show exec .invalidateAck s = execInvalidateAck s from rfl, execInvalidateAck, State.event_powered _ hp, hc]
  dsimp only
  cases s.readsLanded c <;> rfl

/-- An acknowledgement leaves no command under way, and the tables and kernel slots as the revocation left them. -/
theorem State.acknowledged_frame (s : State) (c : InvCmd) :
    (s.acknowledged c).host.inv = none ∧ (s.acknowledged c).host.invdone = s.host.invdone + 1 ∧
      (s.acknowledged c).tlbs = (s.revoked c).tlbs ∧ (s.acknowledged c).tasks = (s.revoked c).tasks ∧
      ∀ n, ((s.acknowledged c).core n).ks0 = ((s.revoked c).core n).ks0 ∧
        ((s.acknowledged c).core n).ks1 = ((s.revoked c).core n).ks1 := by
  obtain ⟨htlbs, htasks, -, hdone, hks⟩ := State.translations_eq_iff.mp (s.invalidate_translations c)
  have hcount : (s.invalidate c).host.invdone + 1 = s.host.invdone + 1 := congrArg (· + 1) hdone
  unfold State.acknowledged
  dsimp only
  split <;> split <;> exact ⟨rfl, hcount, htlbs, htasks, hks⟩

/-- A whole-ASID command puts the root of its ASID into effect (R99); no other register of an ASID changes. -/
theorem State.acknowledged_asid (s : State) (c : InvCmd) (a : Nat) :
    (s.acknowledged c).asid a =
      if c.all = true ∧ a = c.asid then { s.asid a with ptroot' := (s.asid a).ptroot } else s.asid a := by
  obtain ⟨-, -, hasids, -⟩ := State.translations_eq_iff.mp (s.invalidate_translations c)
  have hroots : (s.acknowledged c).asids =
      if c.all then SMap.upd {} s.asids c.asid fun a => { a with ptroot' := a.ptroot } else s.asids := by
    rw [show s.asids = (s.invalidate c).asids from hasids.symm]
    unfold State.acknowledged
    dsimp only
    split <;> split <;> rfl
  rw [State.asid, hroots]
  cases c.all with
  | false => rw [if_neg Bool.false_ne_true, if_neg (by simp)]; rfl
  | true =>
    rw [if_pos rfl, SMap.get_upd]
    by_cases ha : a = c.asid
    · rw [if_pos ha, if_pos ⟨rfl, ha⟩, ha]; rfl
    · rw [if_neg ha, if_neg (by simp [ha])]; rfl

theorem State.acknowledged_msix (s : State) {c : InvCmd} (h : c.irq = true) : (s.acknowledged c).host.msix.head? = some 2047 := by
  unfold State.acknowledged
  rw [if_pos h]
  rfl

/-! What a miss, a walk and a command answer. -/

theorem State.jobNeeds_iff (s : State) (stop asid va : Nat) :
    s.jobNeeds stop asid va = true ↔ ∃ k ∈ s.tasks, k.ring = some stop ∧ k.jobEnd = none ∧ k.asid = asid ∧
      ∃ g ∈ k.regions, g.base ≤ va ∧ va + 1 ≤ g.base + g.len := by
  simp [State.jobNeeds, Region.covers, and_assoc]

theorem State.tlb_misses {s : State} {stop asid va : Nat} (h : ∀ e ∈ s.tlb stop, e.hits asid va = false) :
    (s.tlb stop).any (·.hits asid va) = false :=
  List.any_eq_false.mpr fun e he => by rw [h e he]; exact Bool.false_ne_true

theorem exec_tlbMissProbe {s : State} {stop asid va : Nat} (hp : s.start.powered = true) (hstop : stop < 24)
    (hmiss : ∀ e ∈ s.tlb stop, e.hits asid va = false) :
    exec (.tlbMissProbe stop asid va) s = .next ((s.tlbProbe stop asid va).elim s (s.tlbInsert stop)) := by
  rw [show exec (.tlbMissProbe stop asid va) s = execTlbMissProbe stop asid va s from rfl, execTlbMissProbe,
    State.event_powered _ hp, State.tlb_misses hmiss, if_neg (by simp [hstop])]
  cases s.tlbProbe stop asid va <;> rfl

theorem exec_pageWalk {s : State} {stop asid va w : Nat} (hp : s.start.powered = true) (hstop : stop < 24) (hw : w < 4)
    (hmiss : ∀ e ∈ s.tlb stop, e.hits asid va = false) (hprobe : s.tlbProbe stop asid va = none) :
    exec (.pageWalk stop w asid va) s = .next (if s.jobNeeds stop asid va then
      match (s.walkCached w asid va).2 with
      | .ok e => (s.walkCached w asid va).1.tlbInsert stop e
      | .error _ => (s.walkCached w asid va).1
      else s) := by
  rw [show exec (.pageWalk stop w asid va) s = execPageWalk stop w asid va s from rfl, execPageWalk,
    State.event_powered _ hp, State.tlb_misses hmiss, hprobe]
  cases s.jobNeeds stop asid va with
  | false => rw [if_pos (by simp)]; rfl
  | true =>
    rw [if_neg (by simp [hstop, hw]), if_pos rfl]
    rcases s.walkCached w asid va with ⟨s1, e | e⟩ <;> rfl

theorem State.tlbInsert_tlb_self (s : State) (stop : Nat) (e : TlbEntry) :
    (s.tlbInsert stop e).tlb stop = (e :: (s.tlb stop).filter fun x => decide (x ≠ e)).take 64 := by
  rw [State.tlbInsert, State.setTlb, State.tlb, SMap.get_put, if_pos rfl]

theorem State.hostEvent_reaches {s : State} (f : State → State) (h : HostReaches s) : s.hostEvent f = .next (f s) := by
  obtain ⟨hp, hstep, hlink⟩ := h
  rw [State.hostEvent, State.event_powered _ hp, if_pos (by simp [State.hostUp, hstep, hlink])]

/-- A write of INVCTL with GO = 1 is rejected with ERR, or starts its command (R111). -/
theorem exec_invalidateGo {s : State} {v : DWord} (h : HostReaches s) (hgo : v.toNat % 2 = 1) :
    let lo := s.host.invaddr.toNat
    let pages := v.toNat / 2 ^ 28 % 2 ^ 36
    let all := v.getLsbD 1
    let s1 : State := { s with host := { s.host with invctl := v &&& 0xFFFFFFFFFFFF8002 } }
    exec (.invalidateGo v) s = .next (
      if s.host.inv ≠ none ∨ (all = false ∧ (pages = 0 ∨ 2 ^ 57 < lo + 4096 * pages)) then
        { s1 with host := { s1.host with inverr := true } }
      else { s1 with host := { s1.host with
        inv := some { asid := v.toNat / 2 ^ 16 % 2 ^ 12, all := all, lo := if all then 0 else lo,
                      hi := if all then 2 ^ 57 else lo + 4096 * pages, irq := v.getLsbD 15 } } }) := by
  have hexec : exec (.invalidateGo v) s = .next (s.writeInvctl v) := State.hostEvent_reaches (·.writeInvctl v) h
  have hbit (i : Nat) : bitAt v.toNat i = v.getLsbD i := bitAt_eq ..
  have hgo' : bitAt v.toNat 0 = true := by simp [bitAt, hgo]
  intro lo pages all s1
  rw [hexec, State.writeInvctl, hgo', hbit, hbit]
  dsimp only
  rw [if_neg (by decide)]
  refine congrArg Host.Outcome.next (ite_congr (propext ?_) (fun _ => rfl) fun _ => rfl)
  simp only [Bool.or_eq_true, Bool.and_eq_true, Bool.not_eq_true', decide_eq_true_iff, Option.isSome_iff_ne_none]
  rfl

/-- Settles O43: what a command revokes stays revoked, since the writes, the atomics and the drops of lines that follow change
no translation. -/
theorem translationsAreServedAndInvalidated : Obligations.TranslationsAreServedAndInvalidated := by
  intro s stop asid va w v hp
  refine ⟨fun hstop hmiss => ⟨fun e he => ?probe, fun hnone => ⟨?passes, fun hw => ⟨?walk, ?idle⟩⟩⟩, s.tlbInsert_tlb_self stop,
    fun hreach hgo => ⟨fun hbad => ?rejected, fun hfree hrange => ?starts⟩, fun c hc hwait => ?waits,
    fun c hc hland => ⟨s.acknowledged c, ?answers, ?acked⟩⟩
  case probe => rw [exec_tlbMissProbe hp hstop hmiss, he]; rfl
  case passes => rw [exec_tlbMissProbe hp hstop hmiss, hnone]; rfl
  case walk =>
    intro k hk hring hend hasid hcov
    rw [exec_pageWalk hp hstop hw hmiss hnone, if_pos ((s.jobNeeds_iff ..).mpr ⟨k, hk, hring, hend, hasid, hcov⟩)]
    exact ⟨fun e he => by rw [he], fun f hf => by rw [hf]⟩
  case idle =>
    intro hno
    rw [exec_pageWalk hp hstop hw hmiss hnone, if_neg]
    rw [State.jobNeeds_iff]
    rintro ⟨k, hk, hring, hend, hasid, g, hg, hcov⟩
    exact hno k hk hring hend hasid g hg hcov
  case rejected => rw [exec_invalidateGo hreach hgo, if_pos hbad]
  case starts =>
    rw [exec_invalidateGo hreach hgo, if_neg]
    rintro (hbusy | ⟨hall, hbad⟩)
    · exact hbusy hfree
    · rcases hrange with h | ⟨hpages, hhi⟩
      · exact Bool.false_ne_true (hall.symm.trans h)
      · exact hbad.elim hpages (Nat.not_lt.mpr hhi)
  case waits => rw [exec_invalidateAck hp hc, hwait]; rfl
  case answers => rw [exec_invalidateAck hp hc, if_pos hland]
  case acked =>
    obtain ⟨hinv, hdone, htlbs, htasks, hks⟩ := s.acknowledged_frame c
    refine ⟨hinv, hdone, fun n e he hit => ?noTlb, fun n a ha e he hg hlo hhi => ?revoked, fun hall => ?root, fun hall a => ?roots,
      s.acknowledged_msix⟩
    case noTlb =>
      rw [State.tlb, htlbs] at he
      exact State.not_hits_of_mem_revoked_tlb he ((c.hits_iff ..).mpr hit)
    case revoked =>
      have hasid : (s.acknowledged c).kslotAsid a = (s.revoked c).kslotAsid a := by
        rw [State.kslotAsid, State.task?, htasks]; rfl
      rw [(hks n).1, (hks n).2] at ha
      rw [hasid] at hg
      exact State.rev_of_revoked ha he ((c.hits_iff ..).mpr ⟨hg, hlo, hhi⟩)
    case root => rw [s.acknowledged_asid, if_pos ⟨hall, rfl⟩]
    case roots => rw [s.acknowledged_asid, if_neg (by simp [hall])]

end Sys2Proof.Machine
end

section
/-!
The channel words (06 R131-R133, Table 6-6, 09 R212): what the shared channel operation answers in each of its cases, and which
slots an advance fills or empties.
-/
namespace Sys2Proof.Machine

open Sys2Proof.Claims

/-! Sets of slot numbers. -/

@[simp] theorem mem_setInsert {x j : Nat} {l : List Nat} : j ∈ setInsert x l ↔ j = x ∨ j ∈ l := by
  induction l with
  | nil => simp [setInsert]
  | cons y r ih =>
    unfold setInsert
    split
    · exact List.mem_cons
    · split
      · next h => simp [h]
      · simp only [List.mem_cons, ih, or_left_comm]

@[simp] theorem mem_setUnion {l m : List Nat} {j : Nat} : j ∈ setUnion l m ↔ j ∈ l ∨ j ∈ m := by
  induction l generalizing m with
  | nil => simp [setUnion]
  | cons x r ih =>
    have hstep : setUnion (x :: r) m = setUnion r (setInsert x m) := rfl
    rw [hstep, ih, mem_setInsert, List.mem_cons, or_left_comm, or_assoc]

theorem Chan.allFull_iff (ch : Chan) (slots start k : Nat) : ch.allFull slots start k = true ↔ AllIn ch.shown slots start k := by
  simp [Chan.allFull, AllIn]

theorem Chan.allEmpty_iff (ch : Chan) (slots start k : Nat) : ch.allEmpty slots start k = true ↔ NoneIn ch.shown slots start k := by
  simp [Chan.allEmpty, NoneIn]

/-- A producer's advance fills the slots from P on, and nothing but these. -/
theorem Chan.mem_produce_full (ch : Chan) (slots k j : Nat) :
    j ∈ (ch.produce slots k).full ↔ j ∈ ch.full ∨ ∃ i < k, j = (ch.p + i) % slots := by
  simp [Chan.produce, or_comm, eq_comm]

/-- A consumer's advance empties the slots from C on, and nothing but these. -/
theorem Chan.mem_consume_full (ch : Chan) (slots k j : Nat) :
    j ∈ (ch.consume slots k).full ↔ j ∈ ch.full ∧ ∀ i < k, j ≠ (ch.c + i) % slots := by
  refine List.mem_filter.trans (and_congr_right fun _ => ?_)
  simp [ne_comm]

/-! The four words that wait for a channel are one operation, of a count, a condition and an advance. -/

section
variable {s : State} {n : Nat} {t : Team} {c : BitVec 4} {cnt : Nat} {free : Chan → Nat → Bool} {act : Chan → Nat → Chan}

theorem State.chanWord_undeclared (hcur : s.cur? = some (n, t)) (hd : t.chanDecl c.toNat = none) :
    s.chanWord c cnt free act = .next (s.trap n t .sq .chbad 0 0 0) := by
  rw [State.chanWord, State.sqWord_ready (l := []) hcur nofun, hd]

theorem State.chanWord_over {d : ChanDecl} (hcur : s.cur? = some (n, t)) (hd : t.chanDecl c.toNat = some d) (hcnt : d.slots < cnt) :
    s.chanWord c cnt free act = .next (s.trap n t .sq .chbad 0 0 0) := by
  rw [State.chanWord, State.sqWord_ready (l := []) hcur nofun, hd]
  exact congrArg _ (if_pos hcnt)

theorem State.chanWord_declared {d : ChanDecl} (hcur : s.cur? = some (n, t)) (hd : t.chanDecl c.toNat = some d) (hcnt : cnt ≤ d.slots) :
    s.chanWord c cnt free act = .next (if free (t.chan c.toNat) d.slots then
      s.setTeam n ((t.setChan c.toNat (act (t.chan c.toNat) d.slots)).step .sq) else s) := by
  rw [State.chanWord, State.sqWord_ready (l := []) hcur nofun, hd]
  exact congrArg _ (if_neg (Nat.not_lt.mpr hcnt))

end

theorem exec_eq_chanWord {k : BitVec 6} {c : BitVec 4} {i : Instr} (hi : i ∈ [Instr.chwf k c, .chwe k c, .chap k c, .chac k c]) :
    ∃ free act, ∀ s : State, exec i s = s.chanWord c (k.toNat + 1) free act := by
  simp only [List.mem_cons, List.not_mem_nil, or_false] at hi
  rcases hi with rfl | rfl | rfl | rfl
  · exact ⟨_, _, execChwf.eq_1 k c⟩
  · exact ⟨_, _, execChwe.eq_1 k c⟩
  · exact ⟨_, _, execChap.eq_1 k c⟩
  · exact ⟨_, _, execChac.eq_1 k c⟩

section
variable {s : State} {n : Nat} {t : Team} {k : BitVec 6} {c : BitVec 4} {d : ChanDecl}

theorem exec_chwf (hcur : s.cur? = some (n, t)) (hd : t.chanDecl c.toNat = some d) (hcnt : k.toNat + 1 ≤ d.slots) :
    let ch := t.chan c.toNat
    exec (.chwf k c) s = .next (if ch.allFull d.slots ch.c (k.toNat + 1) then s.setTeam n ((t.setChan c.toNat ch).step .sq) else s) :=
  (execChwf.eq_1 k c s).trans (State.chanWord_declared hcur hd hcnt)

theorem exec_chwe (hcur : s.cur? = some (n, t)) (hd : t.chanDecl c.toNat = some d) (hcnt : k.toNat + 1 ≤ d.slots) :
    let ch := t.chan c.toNat
    exec (.chwe k c) s = .next (if ch.allEmpty d.slots ch.p (k.toNat + 1) then s.setTeam n ((t.setChan c.toNat ch).step .sq) else s) :=
  (execChwe.eq_1 k c s).trans (State.chanWord_declared hcur hd hcnt)

theorem exec_chap (hcur : s.cur? = some (n, t)) (hd : t.chanDecl c.toNat = some d) (hcnt : k.toNat + 1 ≤ d.slots) :
    let ch := t.chan c.toNat
    exec (.chap k c) s = .next (if ch.allEmpty d.slots ch.p (k.toNat + 1) then
      s.setTeam n ((t.setChan c.toNat (ch.produce d.slots (k.toNat + 1))).step .sq) else s) :=
  (execChap.eq_1 k c s).trans (State.chanWord_declared hcur hd hcnt)

theorem exec_chac (hcur : s.cur? = some (n, t)) (hd : t.chanDecl c.toNat = some d) (hcnt : k.toNat + 1 ≤ d.slots) :
    let ch := t.chan c.toNat
    exec (.chac k c) s = .next (if ch.allFull d.slots ch.c (k.toNat + 1) then
      s.setTeam n ((t.setChan c.toNat (ch.consume d.slots (k.toNat + 1))).step .sq) else s) :=
  (execChac.eq_1 k c s).trans (State.chanWord_declared hcur hd hcnt)

end

theorem channelWordsFollowTable66 : Claims.ChannelWordsFollowTable66 := by
  intro s n t k c hcur ch cnt
  refine ⟨fun hd i hi => ?undeclared, fun d hd => ⟨fun hmany i hi => ?tooMany, fun hcnt => ?declared⟩⟩
  case undeclared =>
    obtain ⟨free, act, hexec⟩ := exec_eq_chanWord hi
    rw [hexec, State.chanWord_undeclared hcur hd]
  case tooMany =>
    obtain ⟨free, act, hexec⟩ := exec_eq_chanWord hi
    rw [hexec, State.chanWord_over hcur hd hmany]
  case declared =>
    rw [exec_chwf hcur hd hcnt, exec_chwe hcur hd hcnt, exec_chap hcur hd hcnt, exec_chac hcur hd hcnt,
      ← ch.allFull_iff d.slots ch.c cnt, ← ch.allEmpty_iff d.slots ch.p cnt]
    refine ⟨fun hfull => ?full, fun hfull => ?notFull, fun hempty => ?empty, fun hempty => ?notEmpty⟩
    case full =>
      rw [if_pos hfull, if_pos hfull]
      exact ⟨rfl, ch.consume d.slots cnt, rfl, rfl, ch.mem_consume_full d.slots cnt⟩
    case notFull => rw [if_neg hfull, if_neg hfull]; exact ⟨rfl, rfl⟩
    case empty =>
      rw [if_pos hempty, if_pos hempty]
      exact ⟨rfl, ch.produce d.slots cnt, rfl, rfl, ch.mem_produce_full d.slots cnt⟩
    case notEmpty => rw [if_neg hempty, if_neg hempty]; exact ⟨rfl, rfl⟩

theorem channelStateIsThatOfThePreviousCycle : Claims.ChannelStateIsThatOfThePreviousCycle := by
  intro s n t d c hcur
  have hexec : exec (.chst d c) s = execChst d c s := rfl
  rw [hexec, execChst, State.sqWord_ready (l := []) hcur nofun]
  cases t.chanDecl c.toNat with
  | none => exact ⟨fun _ => rfl, nofun⟩
  | some decl => exact ⟨nofun, fun _ => rfl⟩

/-- Settles O14: the waiting words are one operation that the declaration, the count and the slots shown decide; an advance moves
the slots it names; CHST packs what is shown. -/
theorem channelWordsMoveAndReadTheirChannel : Obligations.ChannelWordsMoveAndReadTheirChannel :=
  ⟨channelWordsFollowTable66, channelStateIsThatOfThePreviousCycle⟩

end Sys2Proof.Machine
end

section
/-!
What a step does (06 R118-R122, R130, 07 R140): the plan of a step in which the selected engine fetches, what is noted after the
word that it runs, and the head of the agenda (log 6).
-/
namespace Sys2Proof.Machine

open Sys2Proof.Claims

/-! The step as its plan or its agenda gives it. -/

theorem step_of_plan_word {s s1 : State} {n : Nat} {t : Team} {e : Engine} {i : Instr} (hag : s.agenda = [])
    (h : s.plan = .word n t e i) (hexec : exec i s = .next s1) : step s = .next (s1.afterWord n t e i) := by
  simp only [step, hag, h, hexec]

theorem step_agenda {s : State} {i : Instr} {r : List Instr} (hag : s.agenda = i :: r) :
    step s = if i.streams.isEmpty then exec i { s with agenda := r } else .next { s with agenda := r } := by
  simp only [step, hag]

theorem aStepTakesTheHeadOfTheAgenda : Claims.AStepTakesTheHeadOfTheAgenda := by
  intro s i r hag
  rw [step_agenda hag]
  exact ⟨fun hnone => if_pos (List.isEmpty_iff.mpr hnone), fun hword => if_neg (mt List.isEmpty_iff.mp hword)⟩

/-! The fetch. -/

/-- Nothing falls due and the selected engine of the issuing team can issue: the step fetches. -/
structure State.Fetches (s : State) (n : Nat) (t : Team) : Prop where
  powered : s.start.powered = true
  cur : s.cur? = some (n, t)
  inTime : (s.core s.sel.core).at_ ≤ (s.clk (domainOf s.sel.core)).at_
  noBeat : s.cycleStart (domainOf s.sel.core) = true → s.beatDue (domainOf s.sel.core) = none
  runs : (s.clk (domainOf s.sel.core)).frozen = false
  notDue : s.sel.due = false
  noWork : s.dueWork n t = none
  issues : t.canIssue s.sel.eng = true
  unfaulted : t.faulted s.sel.eng = false
  unmarked : (t.ctl s.sel.eng).loopMark = false

/-- What the step does with what the selected engine meets at its program counter. -/
def State.planFetched (s : State) (n : Nat) (t : Team) : Fetched → Plan
  | .illop => .move ((s.trap n t s.sel.eng .illop 0 0 0).passTurn)
  | .poison => .move ((s.trap n t s.sel.eng .poison 11 0 0).passTurn)
  | .word i => if s.interlocked n t s.sel.eng i then .move s.passTurn else .word n t s.sel.eng i

theorem State.Fetches.plan {s : State} {n : Nat} {t : Team} (h : s.Fetches n t) :
    s.plan = s.planFetched n t (s.fetch n t s.sel.eng) := by
  have hland : (s.cycleStart (domainOf s.sel.core) && (s.beatDue (domainOf s.sel.core)).isSome) = false := by
    cases hstart : s.cycleStart (domainOf s.sel.core) with
    | false => rfl
    | true => rw [h.noBeat hstart]; rfl
  simp only [State.plan, h.powered, h.cur, hland, h.runs, h.notDue, h.noWork, h.issues, h.unfaulted, h.unmarked,
    Nat.not_lt.mpr h.inTime, Bool.not_true, Bool.false_and, Bool.false_eq_true, if_false]
  cases s.fetch n t s.sel.eng <;> rfl

section
variable {s : State} {n : Nat} {t : Team} {e : Engine}

theorem State.fetch_past_end (h : t.words e ≤ (t.ctl e).pc) : s.fetch n t e = .illop := by
  simp only [State.fetch, h, if_true]

theorem State.fetch_poisoned (h : (t.ctl e).pc < t.words e) (hbad : (e.num, (t.ctl e).pc) ∈ (s.kslot n t).bad) :
    s.fetch n t e = .poison := by
  simp only [State.fetch, Nat.not_le.mpr h, List.contains_iff_mem.mpr hbad, if_false, if_true]

theorem State.fetch_decoded {i : Instr} (h : (t.ctl e).pc < t.words e) (hbad : (e.num, (t.ctl e).pc) ∉ (s.kslot n t).bad)
    (hi : decode e (SMap.get 0 ((s.kslot n t).sects.getD e.num {}).words (t.ctl e).pc) = .ok i) : s.fetch n t e = .word i := by
  simp only [State.fetch, Nat.not_le.mpr h, mt List.contains_iff_mem.mp hbad, Bool.false_eq_true, if_false, hi]

theorem State.fetch_undefined {x : DecodeError} (h : (t.ctl e).pc < t.words e) (hbad : (e.num, (t.ctl e).pc) ∉ (s.kslot n t).bad)
    (hx : decode e (SMap.get 0 ((s.kslot n t).sects.getD e.num {}).words (t.ctl e).pc) = .error x) : s.fetch n t e = .illop := by
  simp only [State.fetch, Nat.not_le.mpr h, mt List.contains_iff_mem.mp hbad, Bool.false_eq_true, if_false, hx]

end

/-! What is noted after a word (06 R122, R130). -/

theorem Team.setCtl_ctl_self (t : Team) (e : Engine) : t.setCtl e (t.ctl e) = t := by
  cases e <;> rfl

/-- Issuing writes the ready times of the engine and nothing else. -/
theorem Team.issued_eq (u : Team) (e : Engine) (f : IssueInfo) :
    u.issued e f = u.setCtl e { u.ctl e with ready := ((u.issued e f).ctl e).ready } := by
  unfold Team.issued
  split
  · exact (u.setCtl_ctl_self e).symm
  · simp only [Team.updCtl, Team.setCtl_ctl, if_true]

/-- The word's beats are noted in the team's ports, in the accesses of the VE under way and in the ME's descriptor load. -/
theorem Team.takeBeats_cases (t u : Team) (e : Engine) (i : Instr) :
    ∃ p b m, t.takeBeats u e i = { u with ports := p, ve := { u.ve with beats := b }, me := { u.me with nld := m } } := by
  unfold Team.takeBeats
  split
  · exact ⟨u.ports, u.ve.beats, u.me.nld, rfl⟩
  · split
    · exact ⟨_, _, _, rfl⟩
    · split
      · exact ⟨_, _, _, rfl⟩
      · split
        · exact ⟨_, _, _, rfl⟩
        · exact ⟨_, _, _, rfl⟩

theorem Team.takeBeats_eq (t u : Team) (e : Engine) (i : Instr) :
    let v := t.takeBeats u e i
    v = { u with ports := v.ports, ve := { u.ve with beats := v.ve.beats }, me := { u.me with nld := v.me.nld } } := by
  obtain ⟨p, b, m, h⟩ := t.takeBeats_cases u e i
  rw [h]

@[simp] theorem Team.takeBeats_ctl (t u : Team) (e f : Engine) (i : Instr) : (t.takeBeats u e i).ctl f = u.ctl f := by
  rw [t.takeBeats_eq u e i]
  cases f <;> rfl

theorem State.afterWord_none {s : State} {n : Nat} (t : Team) (e : Engine) (i : Instr) (h : s.team? n = none) :
    s.afterWord n t e i = s.passTurn := by
  simp only [State.afterWord, h]

/-- A word that waits leaves the team as it was; any other has issued. -/
theorem State.afterWord_some {s : State} {n : Nat} {u : Team} (t : Team) (e : Engine) (i : Instr) (h : s.team? n = some u) :
    s.afterWord n t e i = s.passTurn ∨
      s.afterWord n t e i = (s.setTeam n (t.takeBeats (u.issued e (issueInfo t i)) e i)).passTurn := by
  simp only [State.afterWord, h]
  split
  · exact .inl rfl
  · exact .inr rfl

theorem aStepRunsTheFetchedWord : Claims.AStepRunsTheFetchedWord := by
  intro s n t hag hpow hcur hat hbeat hrun hdue hwork hissue hfault hmark e ks pc w
  have hplan := State.Fetches.plan ⟨hpow, hcur, hat, hbeat, hrun, hdue, hwork, hissue, hfault, hmark⟩
  refine ⟨fun hend => ?pastEnd, fun hin => ⟨fun hbad => ?poisoned, fun hbad => ⟨fun x hx => ?undefined, fun i hi =>
    ⟨fun hlock => ?stalls, fun hlock s1 hexec => ⟨?runs, State.afterWord_none t e i, fun u hu => ?noted⟩⟩⟩⟩⟩
  case pastEnd =>
    rw [State.fetch_past_end hend] at hplan
    exact step_of_plan_move hag hplan
  case poisoned =>
    rw [State.fetch_poisoned hin hbad] at hplan
    exact step_of_plan_move hag hplan
  case undefined =>
    rw [State.fetch_undefined hin hbad hx] at hplan
    exact step_of_plan_move hag hplan
  case stalls =>
    rw [State.fetch_decoded hin hbad hi] at hplan
    exact step_of_plan_move hag (hplan.trans (if_pos hlock))
  case runs =>
    rw [State.fetch_decoded hin hbad hi] at hplan
    exact step_of_plan_word hag (hplan.trans (if_neg (ne_true_of_eq_false hlock))) hexec
  case noted =>
    refine (State.afterWord_some t e i hu).imp_right fun hafter => ⟨_, hafter, ?_⟩
    rw [Team.takeBeats_ctl, ← Team.issued_eq]
    exact Team.takeBeats_eq ..

/-- Settles O56: with nothing due the plan of the step is what the fetch meets; what follows a word writes its ready times and its
beats alone. -/
theorem aStepRunsTheWordOrTakesTheAgenda : Obligations.AStepRunsTheWordOrTakesTheAgenda :=
  ⟨aStepRunsTheFetchedWord, aStepTakesTheHeadOfTheAgenda⟩

end Sys2Proof.Machine
end

section
/-!
Rounding and the values of a format's own encodings (08 R169, R172, R189). A finite encoding holds `m × 2^(e - scale)` with `m` its
significand and `e` its exponent, 1 for a subnormal. Rounding finds the same `m` and `e` again, whatever the mode, and packs them into
the same fields.
-/
namespace Sys2Proof.Machine

/-! The fields of an encoding (Table 8-3). -/

/-- The sign, the exponent and the fraction fill the word. -/
def FFmt.Fills (f : FFmt) : Prop := 1 ≤ f.p ∧ f.w = f.p + f.eb

theorem FFmt.fills_of_mem {f : FFmt} (h : f ∈ [BF16, F16, F32, F64]) : f.Fills := by
  simp only [List.mem_cons, List.not_mem_nil, or_false] at h
  obtain rfl | rfl | rfl | rfl := h <;> exact ⟨by decide, rfl⟩

/-- The exponent field. -/
def FFmt.expField (f : FFmt) (x : Nat) : Nat := bitsOf x (f.p - 1) f.eb

/-- The fraction field. -/
def FFmt.fracField (f : FFmt) (x : Nat) : Nat := bitsOf x 0 (f.p - 1)

/-- The sign bit in its place. -/
def FFmt.signBit (f : FFmt) (neg : Bool) : Nat := if neg then 2 ^ (f.w - 1) else 0

/-- The significand with its hidden bit. -/
def FFmt.significand (f : FFmt) (x : Nat) : Nat := if f.expField x = 0 then f.fracField x else f.fracField x + 2 ^ (f.p - 1)

/-- The biased exponent at which the significand counts: 1 for a subnormal. -/
def FFmt.unitExp (f : FFmt) (x : Nat) : Nat := max (f.expField x) 1

/-- The biased exponent at which the last bit of a significand is worth 1. -/
def FFmt.scale (f : FFmt) : Nat := f.bias + f.p - 1

/-- The power of two by which the numerator of the value exceeds the significand. -/
def FFmt.up (f : FFmt) (x : Nat) : Nat := f.unitExp x - f.scale

/-- The power of two in the denominator of the value. -/
def FFmt.down (f : FFmt) (x : Nat) : Nat := f.scale - f.unitExp x

theorem FFmt.up_sub_down (f : FFmt) (x : Nat) : (f.up x : Int) - f.down x = f.unitExp x - f.scale := by
  unfold up down
  omega

theorem FFmt.fracField_lt (f : FFmt) (x : Nat) : f.fracField x < 2 ^ (f.p - 1) := Nat.mod_lt _ (Nat.two_pow_pos _)

theorem FFmt.expField_lt {f : FFmt} {x : Nat} (h : f.isSpecial x = false) : f.expField x < 2 ^ f.eb - 1 := by
  have hlt : f.expField x < 2 ^ f.eb := Nat.mod_lt _ (Nat.two_pow_pos _)
  have hne : f.expField x ≠ 2 ^ f.eb - 1 := of_decide_eq_false h
  omega

/-- An encoding is made of its three fields. -/
theorem FFmt.fields_eq {f : FFmt} {x : Nat} (hf : f.Fills) (hx : x < 2 ^ f.w) :
    f.signBit (bitAt x (f.w - 1)) + f.expField x * 2 ^ (f.p - 1) + f.fracField x = x := by
  obtain ⟨hp, hw⟩ := hf
  have hwid : f.w - 1 = f.p - 1 + f.eb := by omega
  have hsign : f.signBit (bitAt x (f.w - 1)) = x / 2 ^ (f.w - 1) * 2 ^ (f.w - 1) := by
    have hbit : x / 2 ^ (f.w - 1) < 2 := by
      rw [Nat.div_lt_iff_lt_mul (Nat.two_pow_pos _), ← Nat.pow_succ']
      rwa [show (f.w - 1).succ = f.w by omega]
    obtain h | h := Nat.le_one_iff_eq_zero_or_eq_one.mp (Nat.lt_succ_iff.mp hbit)
    all_goals simp [signBit, bitAt, h]
  calc f.signBit (bitAt x (f.w - 1)) + f.expField x * 2 ^ (f.p - 1) + f.fracField x
      = (x / 2 ^ (f.p - 1) / 2 ^ f.eb * 2 ^ f.eb + x / 2 ^ (f.p - 1) % 2 ^ f.eb) * 2 ^ (f.p - 1) + x % 2 ^ (f.p - 1) := by
        rw [hsign, hwid, Nat.pow_add, Nat.div_div_eq_div_mul]
        simp only [expField, fracField, bitsOf, Nat.pow_zero, Nat.div_one]
        rw [Nat.add_mul, Nat.mul_assoc _ (2 ^ f.eb), Nat.mul_comm (2 ^ f.eb)]
    _ = x := by rw [Nat.div_add_mod', Nat.div_add_mod']

/-- The value of a finite encoding; one of the two powers is 1. -/
theorem FFmt.decode_of_finite {f : FFmt} {x : Nat} (h : f.isSpecial x = false) :
    f.decode x = .fin (bitAt x (f.w - 1)) (f.significand x * 2 ^ f.up x) (2 ^ f.down x) := by
  have hfin : ¬ bitsOf x (f.p - 1) f.eb = 2 ^ f.eb - 1 := of_decide_eq_false h
  simp only [decode, if_neg hfin]
  split
  next hge => rw [show f.down x = 0 from Nat.sub_eq_zero_of_le hge]; rfl
  next hlt => rw [show f.up x = 0 from Nat.sub_eq_zero_of_le (Nat.le_of_lt (Nat.lt_of_not_le hlt)), Nat.pow_zero, Nat.mul_one]; rfl

/-- A normal significand has `p` bits, a subnormal one fewer and the least exponent. -/
theorem FFmt.significand_normal_or_subnormal {f : FFmt} (hp : 1 ≤ f.p) (x : Nat) :
    f.significand x < 2 ^ f.p ∧ (f.unitExp x = 1 ∨ 2 ^ (f.p - 1) ≤ f.significand x) := by
  have hfrac := f.fracField_lt x
  have hpow : 2 ^ f.p = 2 * 2 ^ (f.p - 1) := by rw [← Nat.pow_succ', Nat.succ_eq_add_one, Nat.sub_add_cancel hp]
  simp only [significand, unitExp]
  split <;> omega

/-! The exponent and the significand that rounding finds. -/

theorem mul_two_pow_ne_zero {m : Nat} (hm : m ≠ 0) (a : Nat) : m * 2 ^ a ≠ 0 :=
  Nat.mul_ne_zero hm (Nat.ne_of_gt (Nat.two_pow_pos a))

theorem log2_mul_two_pow {m : Nat} (hm : m ≠ 0) (a : Nat) : (m * 2 ^ a).log2 = m.log2 + a := by
  rw [Nat.log2_eq_iff (mul_two_pow_ne_zero hm a), Nat.pow_add, Nat.add_right_comm, Nat.pow_add _ (m.log2 + 1)]
  exact ⟨Nat.mul_le_mul_right _ (Nat.log2_self_le hm), Nat.mul_lt_mul_of_pos_right Nat.lt_log2_self (Nat.two_pow_pos a)⟩

/-- Dividing by a power of two shifts the highest bit. -/
theorem floorLog2_two_pow {n : Nat} (hn : n ≠ 0) (b : Nat) : floorLog2 n (2 ^ b) = n.log2 - b := by
  have hlow : 2 ^ n.log2 ≤ n := Nat.log2_self_le hn
  simp only [floorLog2, Nat.log2_two_pow]
  split
  next h => rw [if_pos]; rwa [← Nat.pow_add, show b + ((n.log2 : Int) - b).toNat = n.log2 by omega]
  next h =>
    rw [if_pos]
    calc 2 ^ b = 2 ^ n.log2 * 2 ^ (-((n.log2 : Int) - b)).toNat := by rw [← Nat.pow_add]; congr 1; omega
      _ ≤ _ := Nat.mul_le_mul_right _ hlow

/-- An integer rounds to itself in every mode. -/
theorem roundMag_exact (md : RMode) (neg : Bool) (m : Nat) {d : Nat} (hd : 0 < d) : roundMag md neg (m * d) d = m := by
  cases md <;> simp [roundMag, Nat.mul_div_cancel m hd, hd]

/-- Rounding keeps `m × 2^(a - b)` when it counts in units of `2^(a - b)`. -/
theorem FFmt.roundParts_exact {f : FFmt} {m a b : Nat} (md : RMode) (neg : Bool) (hm : m ≠ 0)
    (he : max ((m.log2 : Int) + a - b) (1 - f.bias) = (a : Int) - b + f.p - 1) :
    f.roundParts md neg (m * 2 ^ a) (2 ^ b) = (m, (a : Int) - b) := by
  have hq : (a : Int) - b + f.p - 1 - f.p + 1 = a - b := by omega
  simp only [roundParts, if_neg (mul_two_pow_ne_zero hm a), floorLog2_two_pow (mul_two_pow_ne_zero hm a),
    log2_mul_two_pow hm, Int.natCast_add, he, hq]
  split
  next h =>
    have hd : 2 ^ b * 2 ^ ((a : Int) - b).toNat = 2 ^ a := by rw [← Nat.pow_add]; congr 1; omega
    rw [hd, roundMag_exact md neg m (Nat.two_pow_pos _)]
  next h =>
    have hn : m * 2 ^ a * 2 ^ (-((a : Int) - b)).toNat = m * 2 ^ b := by rw [Nat.mul_assoc, ← Nat.pow_add]; congr 2; omega
    rw [hn, roundMag_exact md neg m (Nat.two_pow_pos _)]

/-- The highest bit of a value of the format lies where rounding takes its unit. -/
theorem FFmt.unit_exponent {f : FFmt} {x : Nat} (hp : 1 ≤ f.p) (hm : f.significand x ≠ 0) :
    max (((f.significand x).log2 : Int) + f.up x - f.down x) (1 - f.bias) =
      (f.up x : Int) - f.down x + f.p - 1 := by
  obtain ⟨hlt, hsub⟩ := f.significand_normal_or_subnormal hp x
  have hlog : (f.significand x).log2 < f.p := (Nat.log2_lt hm).mpr hlt
  have hnormal : f.unitExp x = 1 ∨ f.p - 1 ≤ (f.significand x).log2 := hsub.imp_right (Nat.le_log2 hm).mpr
  have hone : 1 ≤ f.unitExp x := Nat.le_max_right ..
  have hscale : f.scale + 1 = f.bias + f.p := by unfold scale; omega
  have hunit := f.up_sub_down x
  omega

/-- Rounding the value of an encoding finds its significand, and its exponent unless the value is 0. -/
theorem FFmt.roundParts_of_finite {f : FFmt} (hp : 1 ≤ f.p) (md : RMode) (neg : Bool) (x : Nat) :
    ∃ q : Int, f.roundParts md neg (f.significand x * 2 ^ f.up x) (2 ^ f.down x) = (f.significand x, q) ∧
      (f.significand x ≠ 0 → q = (f.unitExp x : Int) - f.scale) := by
  by_cases hm : f.significand x = 0
  · exact ⟨0, by simp [roundParts, hm], fun h => absurd hm h⟩
  · exact ⟨_, roundParts_exact md neg hm (unit_exponent hp hm), fun _ => f.up_sub_down x⟩

/-! The packed fields. -/

/-- Packing the significand and the exponent of a finite encoding gives its fields. -/
theorem FFmt.packParts_of_finite {f : FFmt} {x : Nat} {q : Int} (neg : Bool) (hp : 1 ≤ f.p) (h : f.isSpecial x = false)
    (hq : f.significand x ≠ 0 → q = (f.unitExp x : Int) - f.scale) :
    f.packParts neg (f.significand x) q = some (f.signBit neg + f.expField x * 2 ^ (f.p - 1) + f.fracField x) := by
  have hlt : f.significand x ≠ 2 ^ f.p := Nat.ne_of_lt (f.significand_normal_or_subnormal hp x).1
  have hfrac := f.fracField_lt x
  have hexp := expField_lt h
  simp only [packParts, if_neg hlt]
  by_cases he : f.expField x = 0
  case pos =>
    have hm : f.significand x = f.fracField x := if_pos he
    rw [hm, he, if_pos hfrac, Nat.zero_mul, Nat.add_zero]
    split
    next h0 => rw [h0]; rfl
    next => rfl
  case neg =>
    have hm : f.significand x = f.fracField x + 2 ^ (f.p - 1) := if_neg he
    have hm0 : f.significand x ≠ 0 := by have := Nat.two_pow_pos (f.p - 1); omega
    have hex : q + f.p - 1 + f.bias = f.expField x := by
      have := hq hm0
      simp only [unitExp, scale] at this
      omega
    have hcast : ((2 ^ f.eb : Nat) : Int) = 2 ^ f.eb := by push_cast; rfl
    rw [if_neg hm0, if_neg (by omega), hex, if_neg (by omega), hm, Nat.add_sub_cancel, Int.toNat_natCast]
    rfl

theorem FFmt.round_fin_of_packs {f : FFmt} {md : RMode} {neg : Bool} {n d m y : Nat} {q : Int}
    (hr : f.roundParts md neg n d = (m, q)) (hk : f.packParts neg m q = some y) : f.round md (.fin neg n d) = y := by
  simp only [round, hr, hk]

theorem FFmt.round_decode {f : FFmt} {x : Nat} (hf : f.Fills) (md : RMode) (hx : x < 2 ^ f.w) (h : f.isSpecial x = false) :
    f.round md (f.decode x) = x := by
  obtain ⟨q, hround, hq⟩ := f.roundParts_of_finite hf.1 md (bitAt x (f.w - 1)) x
  rw [decode_of_finite h, round_fin_of_packs hround (packParts_of_finite _ hf.1 h hq), fields_eq hf hx]

/-- Settles O26: the significand and the exponent that `decode` reads are those that rounding finds and packs, in any format whose
fields fill the word. -/
theorem roundingKeepsAFormatsOwnValues : Obligations.RoundingKeepsAFormatsOwnValues :=
  fun _ md _ hf hx h => FFmt.round_decode (FFmt.fills_of_mem hf) md hx h

end Sys2Proof.Machine
end
